-- ==== Sys2Proof/Word.lean ====
section
/-! DEFINITION. The word types of the TLX-40 and the map type in which all sparse data is held. -/

namespace Sys2Proof

/-- A byte of any memory (R4). -/
abbrev Byte := BitVec 8
/-- A scalar register (R24), and a system register. -/
abbrev Word := BitVec 64
/-- A vector register (R24). -/
abbrev VWord := BitVec 1024
/-- A lane predicate, one bit a byte lane (R24). -/
abbrev QWord := BitVec 128

/-- Sparse data by key: pairs in strictly rising order of key. -/
abbrev Map (β : Type) := List (Nat × β)

end Sys2Proof
end

