-- ==== Sys2Proof/Machine/Bits.lean ====
section
/-! DEFINITION. Sparse maps in canonical form, byte order, bit fields and vectors of elements: the helpers every family
uses. Little-endian throughout (R4). -/

namespace Sys2Proof.Machine

/-! ### Maps -/

/-- The value at a key, `d` where nothing is listed. -/
def mget {β : Type} (m : Map β) (k : Nat) (d : β) : β :=
  match m with
  | [] => d
  | (a, b) :: t => if a = k then b else mget t k d

/-- The entry at a key, if one is listed. -/
def mfind {β : Type} (m : Map β) (k : Nat) : Option β :=
  match m with
  | [] => none
  | (a, b) :: t => if a = k then some b else mfind t k

/-- A map without a key. -/
def mdel {β : Type} (m : Map β) (k : Nat) : Map β :=
  match m with
  | [] => []
  | (a, b) :: t => if a = k then mdel t k else (a, b) :: mdel t k

/-- A map with an entry at a key, in its place in rising order. -/
def mset {β : Type} (m : Map β) (k : Nat) (v : β) : Map β :=
  match m with
  | [] => [(k, v)]
  | (a, b) :: t => if k < a then (k, v) :: (a, b) :: t else if a = k then (k, v) :: t else (a, b) :: mset t k v

/-- A write in canonical form: writing what an unlisted key reads as removes the entry. -/
def mput {β : Type} [DecidableEq β] (m : Map β) (k : Nat) (v d : β) : Map β :=
  if v = d then mdel m k else mset m k v

/-- The keys of a map strictly rise, and all lie at or above `lo`. -/
def mrising {β : Type} (m : Map β) (lo : Nat) : Bool :=
  match m with
  | [] => true
  | (a, _) :: t => lo ≤ a && mrising t (a + 1)

/-- The canonical form: keys strictly rise and no entry holds the value an unlisted key reads as. -/
def mwf {β : Type} [DecidableEq β] (m : Map β) (d : β) : Bool :=
  mrising m 0 && m.all (fun e => e.2 ≠ d)

/-- The canonical form of a memory: addresses strictly rise and no listed byte is zero, which is what an unlisted byte reads
as (log entry 5). -/
abbrev Memory.wf (m : List Host.Cell) : Bool := mwf m 0

/-! ### Numbers, bit fields, signs -/

/-- Bits `lo + n - 1` to `lo` of a number. -/
def bitsOf (x lo n : Nat) : Nat := x / 2 ^ lo % 2 ^ n

/-- Bit `i` of a number. -/
def bitOf (x i : Nat) : Bool := x / 2 ^ i % 2 = 1

/-- An `n`-bit number read as signed. -/
def signed (n x : Nat) : Int := let y := x % 2 ^ n; if y < 2 ^ (n - 1) then y else (y : Int) - 2 ^ n

/-- An integer narrowed to `n` bits. -/
def narrow (n : Nat) (x : Int) : Nat := (x % ((2 ^ n : Nat) : Int)).toNat

/-- An integer as a 64-bit word, wrapping. -/
def wordOfInt (x : Int) : Word := BitVec.ofInt 64 x

/-- A number with its low `k` bits taken as zero. -/
def alignDown (x k : Nat) : Nat := x / 2 ^ k * 2 ^ k

/-- The base-2 logarithm of a power of two no greater than 128. -/
def log2Size : Nat → Nat
  | 1 => 0 | 2 => 1 | 4 => 2 | 8 => 3 | 16 => 4 | 32 => 5 | 64 => 6 | _ => 7

/-- A truth value as a number. -/
def natOf (b : Bool) : Nat := if b then 1 else 0

/-! ### Bytes of a memory level -/

/-- The `n` bytes from an address, as a little-endian number; an unlisted byte reads zero. -/
def readNat (m : Map Byte) (a : Nat) : Nat → Nat
  | 0 => 0
  | n + 1 => (mget m a 0).toNat + 256 * readNat m (a + 1) n

/-- One byte written, in canonical form. -/
def writeByte (m : Map Byte) (a : Nat) (b : Byte) : Map Byte := mput m a b 0

/-- The `n` low bytes of a number written from an address, lowest first. -/
def writeNat (m : Map Byte) (a n : Nat) (v : Nat) : Map Byte :=
  match n with
  | 0 => m
  | n + 1 => writeNat (writeByte m a (BitVec.ofNat 8 v)) (a + 1) n (v / 256)

/-- The bytes among `n` from an address whose mask bit is set, written from a number. -/
def writeMasked (m : Map Byte) (a n : Nat) (v mask : Nat) : Map Byte :=
  match n with
  | 0 => m
  | n + 1 => writeMasked (if mask % 2 = 1 then writeByte m a (BitVec.ofNat 8 v) else m) (a + 1) n (v / 256) (mask / 2)

/-- A list of bytes as a little-endian number. -/
def bytesNat : List Byte → Nat
  | [] => 0
  | b :: t => b.toNat + 256 * bytesNat t

/-- The `n` low bytes of a number, lowest first. -/
def natBytes (v : Nat) : Nat → List Byte
  | 0 => []
  | n + 1 => BitVec.ofNat 8 v :: natBytes (v / 256) n

/-! ### Elements of a vector -/

/-- Element `i` of width `e` of a number. -/
def elem (e x i : Nat) : Nat := x / 2 ^ (e * i) % 2 ^ e

/-- The elements of width `e` of a number, `n` of them from element 0. -/
def elems (e x : Nat) : Nat → List Nat
  | 0 => []
  | n + 1 => x % 2 ^ e :: elems e (x / 2 ^ e) n

/-- A number from its elements of width `e`. -/
def ofElems (e : Nat) : List Nat → Nat
  | [] => 0
  | x :: t => x % 2 ^ e + 2 ^ e * ofElems e t

/-- `n` ones. -/
def ones (n : Nat) : Nat := 2 ^ n - 1

/-- The list 0, 1, … n − 1. -/
def upTo (n : Nat) : List Nat := List.range n

/-- A list with its entry at an index replaced; past the end it is unchanged. -/
def setAt {β : Type} : List β → Nat → β → List β
  | [], _, _ => []
  | _ :: t, 0, v => v :: t
  | a :: t, n + 1, v => a :: setAt t n v

/-- The entry of a list at an index, `d` past the end. -/
def nth {β : Type} (l : List β) (n : Nat) (d : β) : β :=
  match l, n with
  | [], _ => d
  | a :: _, 0 => a
  | _ :: t, n + 1 => nth t n d

/-- The sum of a list of integers. -/
def isum : List Int → Int
  | [] => 0
  | x :: t => x + isum t

/-- The sum of a list of numbers. -/
def nsum : List Nat → Nat
  | [] => 0
  | x :: t => x + nsum t

/-- How many entries of a list pass a test. -/
def countIf {β : Type} (f : β → Bool) : List β → Nat
  | [] => 0
  | x :: t => (if f x then 1 else 0) + countIf f t

end Sys2Proof.Machine
end

