-- ==== Sys2Proof/Machine/Flags.lean ====
section
/-! DEFINITION. The flags of FFLAGS, which a result ORs in as it lands (R101, R102). Each result's flags are formed with its
value: in `Float` where it is rounded or narrowed, in `Vector` and `Matrix` where elements and accumulators are. -/

namespace Sys2Proof.Machine

/-- IS: an integer result or a conversion into an integer saturated. -/
def flagIS : Nat := 32
/-- NV: a NaN was produced from operands that are no NaN, or converted to an integer. -/
def flagNV : Nat := 16
/-- DZ: an exact infinity from finite operands. -/
def flagDZ : Nat := 8
/-- OF: a float result overflowed. -/
def flagOF : Nat := 4
/-- UF: a result was tiny and inexact. -/
def flagUF : Nat := 2
/-- NX: a result differed from its exact value. -/
def flagNX : Nat := 1

/-- A flag if a condition holds. -/
def flagIf (b : Bool) (f : Nat) : Nat := if b then f else 0

end Sys2Proof.Machine
end

