-- ==== Sys2Proof/Machine/Float.lean ====
section
/-! DEFINITION. Arithmetic results (R82–R101): the number formats, rounding, exact sums, special functions and the flags
each result sets. Every finite value is an exact dyadic number; each operation forms its exact result and rounds it
once. -/

namespace Sys2Proof.Machine

/-! ### Formats and values (R84) -/

/-- A floating-point format: exponent and fraction widths, bias, whether it has infinities (all but e4m3, R84), and
whether a float rounds into it by RNA (R89). -/
structure FloatFmt where
  ebits : Nat
  mbits : Nat
  bias : Nat
  hasInf : Bool
  away : Bool
  deriving DecidableEq, Repr

def fmtF32 : FloatFmt := ⟨8, 23, 127, true, false⟩
def fmtF16 : FloatFmt := ⟨5, 10, 15, true, false⟩
def fmtBf16 : FloatFmt := ⟨8, 7, 127, true, false⟩
def fmtE4m3 : FloatFmt := ⟨4, 3, 7, false, true⟩
def fmtE5m2 : FloatFmt := ⟨5, 2, 15, true, true⟩

/-- The width of a format. -/
def FloatFmt.width (f : FloatFmt) : Nat := 1 + f.ebits + f.mbits
/-- The sign bit's weight. -/
def FloatFmt.signBit (f : FloatFmt) : Nat := 2 ^ (f.ebits + f.mbits)
/-- The encoding of +infinity, in a format that has one. -/
def FloatFmt.infBits (f : FloatFmt) : Nat := (2 ^ f.ebits - 1) * 2 ^ f.mbits
/-- The encoding of the largest finite value (R84). -/
def FloatFmt.maxBits (f : FloatFmt) : Nat :=
  if f.hasInf then f.infBits - 1 else 2 ^ (f.ebits + f.mbits) - 2
/-- The canonical NaN (R84, R86). -/
def FloatFmt.nanBits (f : FloatFmt) : Nat :=
  if f.hasInf then f.infBits + 2 ^ (f.mbits - 1) else 2 ^ (f.ebits + f.mbits) - 1

/-- The value of an encoding: a NaN, a signed infinity, or (-1)^neg * m * 2^e exactly. -/
inductive FVal where
  | nan
  | inf (neg : Bool)
  | fin (neg : Bool) (m : Nat) (e : Int)
  deriving DecidableEq, Repr

/-- R84: the value of an encoding. Subnormals are honoured (R85). -/
def decodeF (f : FloatFmt) (x : Nat) : FVal :=
  let neg := x / f.signBit % 2 = 1
  let ex := x / 2 ^ f.mbits % 2 ^ f.ebits
  let fr := x % 2 ^ f.mbits
  if x % f.signBit > f.maxBits then (if f.hasInf ∧ fr = 0 then .inf neg else .nan)
  else if ex = 0 then .fin neg fr (1 - (f.bias : Int) - f.mbits)
  else .fin neg (2 ^ f.mbits + fr) ((ex : Int) - f.bias - f.mbits)

/-- Whether a value is a NaN. -/
def FVal.isNan : FVal → Bool
  | .nan => true
  | _ => false

/-- Whether a value is an infinity. -/
def FVal.isInf : FVal → Bool
  | .inf _ => true
  | _ => false

/-- Whether a value is a zero. -/
def FVal.isZero : FVal → Bool
  | .fin _ m _ => m = 0
  | _ => false

/-- The sign of a value. -/
def FVal.neg : FVal → Bool
  | .nan => false
  | .inf n => n
  | .fin n _ _ => n

/-- A value with its sign inverted. -/
def FVal.flip : FVal → FVal
  | .nan => .nan
  | .inf n => .inf (!n)
  | .fin n m e => .fin (!n) m e

/-- The integer `n` as a value. -/
def FVal.ofInt (n : Int) : FVal := .fin (n < 0) n.natAbs 0

/-! ### Exact results and rounding (R87–R92) -/

/-- What an operation forms before it rounds: a NaN (`nv` when no operand was one, R86), an infinity (`dz` when the
operands were finite, R93), or a real (-1)^neg * (m + d) * 2^e with d = 0, or 0 < d < 1 when `sticky`. -/
inductive Exact where
  | nan (nv : Bool)
  | inf (neg dz : Bool)
  | real (neg : Bool) (m : Nat) (e : Int) (sticky : Bool)
  deriving DecidableEq, Repr

/-- A value as an exact result; a NaN operand sets no NV (R86). -/
def FVal.exact : FVal → Exact
  | .nan => .nan false
  | .inf n => .inf n false
  | .fin n m e => .real n m e false

/-- What an overflowed finite result, or an infinite one, becomes (R91, R92). -/
inductive OvTo where
  | inf | nan | max
  deriving DecidableEq, Repr

/-- A rounded result and the flags it sets. -/
structure FRes where
  bits : Nat
  fl : Nat
  deriving DecidableEq, Repr

/-- `m + d` divided by 2^sh and rounded to an integer: to nearest, on a tie away from zero (RNA) or to even (RNE)
(R88). The second component says whether the result is inexact. -/
def roundShift (away : Bool) (m sh : Nat) (sticky : Bool) : Nat × Bool :=
  let hi := m / 2 ^ sh
  let lo := m % 2 ^ sh
  let twice := 2 * lo
  let up := twice > 2 ^ sh ∨ (twice = 2 ^ sh ∧ (sticky ∨ away ∨ hi % 2 = 1))
  (if up then hi + 1 else hi, lo ≠ 0 ∨ sticky)

/-- R88: a real rounded to a multiple of 2^q, as the multiple and whether it is inexact. -/
def roundTo (away : Bool) (m : Nat) (e q : Int) (sticky : Bool) : Nat × Bool :=
  if e < q then roundShift away m (q - e).toNat sticky else (m * 2 ^ (e - q).toNat, sticky)

/-- R88–R92: an exact result in a format. -/
def finishWith (f : FloatFmt) (away : Bool) (ov infTo : OvTo) (x : Exact) : FRes :=
  match x with
  | .nan nv => ⟨f.nanBits, flagIf nv flagNV⟩
  | .inf neg dz =>
    let s := if neg then f.signBit else 0
    match infTo with
    | .inf => ⟨s + f.infBits, flagIf dz flagDZ⟩
    | .nan => ⟨f.nanBits, flagIf dz flagDZ⟩
    | .max => ⟨s + f.maxBits, flagIf dz flagDZ + flagOF⟩
  | .real neg m e sticky =>
    let s := if neg then f.signBit else 0
    if m = 0 ∧ ¬ sticky then ⟨s, 0⟩ else
    let top : Int := if m = 0 then e - 1 else e + Nat.log2 m
    let emin : Int := 1 - f.bias
    let q := (if top < emin then emin else top) - f.mbits
    let (n, nx) := roundTo away m e q sticky
    let bits := ((q + f.mbits + f.bias - 1) * 2 ^ f.mbits + n).toNat
    if bits > f.maxBits then
      match ov with
      | .inf => ⟨s + f.infBits, flagOF + flagNX⟩
      | .nan => ⟨f.nanBits, flagOF + flagNX⟩
      | .max => ⟨s + f.maxBits, flagOF + flagNX⟩
    else ⟨s + bits, flagIf (top < emin ∧ nx) flagUF + flagIf nx flagNX⟩

/-- R88, R91: the rounding of scalar and vector arithmetic: into f16, bf16 and f32 an overflow is an infinity; packed
e4m3 and e5m2 results saturate, and an infinite e5m2 result stays infinite (R92); no arithmetic
forms an exact infinity in e4m3, which has none. -/
def finish (f : FloatFmt) (x : Exact) : FRes :=
  if f.away then finishWith f true .max (if f.hasInf then .inf else .max) x else finishWith f false .inf .inf x

/-! ### Exact operations (R93, R94) -/

/-- The exact product of two values; infinity times zero is invalid (R93). -/
def mulV : FVal → FVal → FVal × Bool
  | .nan, _ => (.nan, false)
  | _, .nan => (.nan, false)
  | .inf a, .inf b => (.inf (a != b), false)
  | .inf a, .fin b m _ => if m = 0 then (.nan, true) else (.inf (a != b), false)
  | .fin a m _, .inf b => if m = 0 then (.nan, true) else (.inf (a != b), false)
  | .fin a m e, .fin b n k => (.fin (a != b) (m * n) (e + k), false)

/-- A finite value as a multiple of 2^lo, for `lo` no greater than its exponent. -/
def scaleV (lo : Int) : FVal → Int
  | .fin neg m e => (if neg then -1 else 1) * ((m * 2 ^ (e - lo).toNat : Nat) : Int)
  | _ => 0

/-- The least exponent among finite values. -/
def minExp : List FVal → Int
  | [] => 0
  | .fin _ _ e :: t => let k := minExp t; if e < k then e else k
  | _ :: t => minExp t

/-- R94: the exact sum of a list of terms, before rounding. `bad` says that some product of the terms was infinity
times zero. -/
def sumV (terms : List FVal) (anyNan bad : Bool) : Exact :=
  if anyNan then .nan false
  else if bad then .nan true
  else if terms.any (fun t => t == .inf false) ∧ terms.any (fun t => t == .inf true) then .nan true
  else if terms.any (fun t => t == .inf false) then .inf false false
  else if terms.any (fun t => t == .inf true) then .inf true false
  else
    let lo := minExp terms
    let x := isum (terms.map (scaleV lo))
    if x = 0 then .real (terms ≠ [] ∧ terms.all FVal.neg) 0 0 false
    else .real (x < 0) x.natAbs lo false

/-- R94: the exact sum of an accumulator, absent or present, and products. -/
def exactSum (acc : Option FVal) (products : List (FVal × FVal)) : Exact :=
  let ps := products.map (fun p => mulV p.1 p.2)
  let anyNan := (match acc with | some c => c.isNan | none => false)
    || products.any (fun p => p.1.isNan || p.2.isNan)
  let terms := (match acc with | some c => [c] | none => []) ++ ps.map Prod.fst
  sumV terms anyNan (ps.any Prod.snd)

/-- Addition (R93). -/
def addV (x y : FVal) : Exact := sumV [x, y] (x.isNan || y.isNan) false

/-- Multiplication (R93). -/
def mulE (x y : FVal) : Exact :=
  let (p, bad) := mulV x y
  if bad then .nan true else p.exact

/-- Fused multiply-add a * b + c, rounded once (R93). -/
def fmaV (a b c : FVal) : Exact :=
  let (p, bad) := mulV a b
  sumV [p, c] (a.isNan || b.isNan || c.isNan) bad

/-- The integer square root, by fixing `n` bits from the top: the greatest r with r * r ≤ x, for x < 4 ^ n. -/
def isqrtLoop (x r : Nat) : Nat → Nat
  | 0 => r
  | n + 1 => let t := r + 2 ^ n; isqrtLoop x (if t * t ≤ x then t else r) n

/-- The integer square root. -/
def isqrt (x : Nat) : Nat := isqrtLoop x 0 (Nat.log2 x / 2 + 1)

/-- Division (R93). -/
def divV : FVal → FVal → Exact
  | .nan, _ => .nan false
  | _, .nan => .nan false
  | .inf _, .inf _ => .nan true
  | .inf a, .fin b _ _ => .inf (a != b) false
  | .fin a _ _, .inf b => .real (a != b) 0 0 false
  | .fin a m e, .fin b n k =>
    if n = 0 then (if m = 0 then .nan true else .inf (a != b) true)
    else
      let sh := 80 + Nat.log2 n
      .real (a != b) (m * 2 ^ sh / n) (e - k - sh) (m * 2 ^ sh % n ≠ 0)

/-- Square root (R93); the root of −0 is −0 (IEEE 754). -/
def sqrtV : FVal → Exact
  | .nan => .nan false
  | .inf neg => if neg then .nan true else .inf false false
  | .fin neg m e =>
    if m = 0 then .real neg 0 0 false
    else if neg then .nan true
    else
      let odd := e % 2 ≠ 0
      let m' := (if odd then 2 * m else m) * 2 ^ 160
      let e' := ((if odd then e - 1 else e) - 160) / 2
      let r := isqrt m'
      .real false r e' (r * r ≠ m')

/-- Reciprocal square root (R93); of ±0 it is an infinity of that sign with DZ (IEEE 754). -/
def rsqrtV : FVal → Exact
  | .nan => .nan false
  | .inf neg => if neg then .nan true else .real false 0 0 false
  | .fin neg m e =>
    if m = 0 then .inf neg true
    else if neg then .nan true
    else
      let odd := e % 2 ≠ 0
      let m' := if odd then 2 * m else m
      let e' := if odd then e - 1 else e
      let sh := 160 + 2 * (Nat.log2 m' / 2)
      let r := isqrt (2 ^ sh / m')
      .real false r (-(e' / 2) - sh / 2) (r * r * m' ≠ 2 ^ sh)

/-! ### Special functions (R93)

Each is computed to 640 fraction bits. The results that are exactly representable are handled apart, so every other
result is irrational, and the error, below 2^-600, never reaches a rounding boundary: log entry 12. -/

/-- The fraction bits carried. -/
def fixP : Nat := 640
/-- ln 2 in units of 2^-640. -/
def ln2Fix : Nat := 0xb17217f7d1cf79abc9e3b39803f2f6af40f343267298b62d8a0d175b8baafa2be7b876206debac98559552fb4afa1b10ed2eae35c138214427573b291169b8253e96ca16224ae8c51acbda11317c387e
/-- 1 / ln 2 in units of 2^-640. -/
def log2eFix : Nat := 0x171547652b82fe1777d0ffda0d23a7d11d6aef551bad2b4b1164a2cd9a342648fbc3887eeaa2ed9ac49b25eeb82d7c167d52173cc1895213f897f5e06a7be73665fc529264c2fb3ab643687aaf3ab440c
/-- pi / 2 in units of 2^-960. -/
def halfPiFix : Nat := 0x1921fb54442d18469898cc51701b839a252049c1114cf98e804177d4c76273644a29410f31c6809bbdf2a33679a748636605614dbe4be286e9fc26adadaa3848bc90b6aecc4bcfd8de89885d34c6fdad617feb96de80d6fdbdc70d7f6b5133f4b5d3e4822f8963fcc9250cca3d9c8b67b8400f97142c77e0b

/-- A dyadic number m * 2^e in units of 2^-p, rounded down. -/
def toFix (p : Nat) (m : Nat) (e : Int) : Nat :=
  if e + p < 0 then m / 2 ^ (-(e + p)).toNat else m * 2 ^ (e + p).toNat

/-- The sum of t^k / k! from the term `term` with index `k`, in fixed point. -/
def expSeries (t : Nat) (k term acc : Nat) : Nat → Nat
  | 0 => acc
  | n + 1 => expSeries t (k + 1) (term * t / 2 ^ fixP / (k + 1)) (acc + term) n

/-- 2^f for a fraction f in fixed point, in fixed point. -/
def exp2Frac (f : Nat) : Nat := expSeries (f * ln2Fix / 2 ^ fixP) 0 (2 ^ fixP) 0 150

/-- e^-y for y in fixed point: a fixed-point number in (1/2, 1] and the power of two that divides it. -/
def expNeg (y : Nat) : Nat × Nat :=
  let z := y * log2eFix / 2 ^ fixP
  let n := z / 2 ^ fixP
  let f := z % 2 ^ fixP
  if f = 0 then (2 ^ fixP, n) else (exp2Frac (2 ^ fixP - f), n + 1)

/-- The sum of z^(2k+1) / (2k+1), in fixed point. -/
def atanhSeries (z2 : Nat) (k term acc : Nat) : Nat → Nat
  | 0 => acc
  | n + 1 => atanhSeries z2 (k + 2) (term * z2 / 2 ^ fixP) (acc + term / k) n

/-- log2 of a fixed-point number in [1, 2), in fixed point. -/
def log2Frac (x : Nat) : Nat :=
  let z := (x - 2 ^ fixP) * 2 ^ fixP / (x + 2 ^ fixP)
  2 * atanhSeries (z * z / 2 ^ fixP) 1 z 0 230 * log2eFix / 2 ^ fixP

/-- The alternating series of sine (from k = 1, term r) and cosine (from k = 0, term 1), in fixed point. -/
def trigSeries (r2 : Nat) (k : Nat) (term : Nat) (plus : Bool) (acc : Int) : Nat → Int
  | 0 => acc
  | n + 1 =>
    trigSeries r2 (k + 2) (term * r2 / 2 ^ fixP / ((k + 1) * (k + 2))) (!plus)
      (if plus then acc + term else acc - term) n

/-- The reduction of an angle: the quadrant and the signed remainder from the nearest multiple of pi / 2, in fixed
point. -/
def trigReduce (m : Nat) (e : Int) : Nat × Int :=
  let x := toFix 960 m e
  let k := (2 * x + halfPiFix) / (2 * halfPiFix)
  (k % 4, ((x : Int) - k * halfPiFix) / ((2 ^ 320 : Nat) : Int))

/-- Sine of a reduced angle. -/
def sinFix (r : Int) : Int :=
  let a := r.natAbs
  let s := trigSeries (a * a / 2 ^ fixP) 1 a true 0 80
  if r < 0 then -s else s

/-- Cosine of a reduced angle. -/
def cosFix (r : Int) : Int :=
  let a := r.natAbs
  trigSeries (a * a / 2 ^ fixP) 0 (2 ^ fixP) true 0 80

/-- A signed fixed-point number as an inexact real. -/
def fixReal (x : Int) : Exact := .real (x < 0) x.natAbs (-(fixP : Int)) true

/-- 2^x. -/
def exp2V : FVal → Exact
  | .nan => .nan false
  | .inf neg => if neg then .real false 0 0 false else .inf false false
  | .fin neg m e =>
    if m = 0 then .real false 1 0 false
    else if Nat.log2 m + e > 12 then (if neg then .real false 0 (-1000) true else .real false 1 1000 false)
    else
      let x : Int := (if neg then -1 else 1) * (toFix fixP m e : Int)
      let n := x / ((2 ^ fixP : Nat) : Int)
      let f := (x - n * ((2 ^ fixP : Nat) : Int)).toNat
      if f = 0 then .real false 1 n false else .real false (exp2Frac f) (n - fixP) true

/-- log2 x; of ±0 it is −infinity with DZ, of a negative value invalid (R93). -/
def log2V : FVal → Exact
  | .nan => .nan false
  | .inf neg => if neg then .nan true else .inf false false
  | .fin neg m e =>
    if m = 0 then .inf true true
    else if neg then .nan true
    else
      let k := Nat.log2 m
      let n := e + k
      if m = 2 ^ k then .real (n < 0) n.natAbs 0 false
      else fixReal (n * ((2 ^ fixP : Nat) : Int) + log2Frac (toFix fixP m (-(k : Int))))

/-- Hyperbolic tangent; of ±0 it is ±0. -/
def tanhV : FVal → Exact
  | .nan => .nan false
  | .inf neg => .real neg 1 0 false
  | .fin neg m e =>
    if m = 0 then .real neg 0 0 false
    else if Nat.log2 m + e > 6 then .real neg (2 ^ 100 - 1) (-100) true
    else
      let (v, n) := expNeg (2 * toFix fixP m e)
      let w := v / 2 ^ n
      .real neg ((2 ^ fixP - w) * 2 ^ fixP / (2 ^ fixP + w)) (-(fixP : Int)) true

/-- Sigmoid, 1 / (1 + e^-x). -/
def sigmV : FVal → Exact
  | .nan => .nan false
  | .inf neg => .real false (if neg then 0 else 1) 0 false
  | .fin neg m e =>
    if m = 0 then .real false 1 (-1) false
    else if Nat.log2 m + e > 7 then
      (if neg then .real false 0 (-1000) true else .real false (2 ^ 100 - 1) (-100) true)
    else
      let (v, n) := expNeg (toFix fixP m e)
      let w := 2 ^ fixP + v / 2 ^ n
      if neg then .real false (v * 2 ^ fixP / w) (-(fixP : Int) - n) true
      else .real false (2 ^ fixP * 2 ^ fixP / w) (-(fixP : Int)) true

/-- Sine of an exact argument in radians; of ±0 it is ±0. -/
def sinV : FVal → Exact
  | .nan => .nan false
  | .inf _ => .nan true
  | .fin neg m e =>
    if m = 0 then .real neg 0 0 false
    else
      let (k, r) := trigReduce m e
      let v := match k with
        | 0 => sinFix r
        | 1 => cosFix r
        | 2 => -(sinFix r)
        | _ => -(cosFix r)
      fixReal (if neg then -v else v)

/-- Cosine of an exact argument in radians. -/
def cosV : FVal → Exact
  | .nan => .nan false
  | .inf _ => .nan true
  | .fin _ m e =>
    if m = 0 then .real false 1 0 false
    else
      let (k, r) := trigReduce m e
      fixReal (match k with
        | 0 => cosFix r
        | 1 => -(sinFix r)
        | 2 => -(cosFix r)
        | _ => sinFix r)

/-! ### Conversions (R89–R91) -/

/-- R90, R100, R120: an exact result rounded and saturated to a range of integers: NX whenever the result differs from a
finite value, by rounding or by saturation; an infinity sets IS alone, and a NaN gives 0 and NV alone. -/
def exactToIntSat (away : Bool) (lo hi : Int) : Exact → Int × Nat
  | .nan _ => (0, flagNV)
  | .inf neg _ => (if neg then lo else hi, flagIS)
  | .real neg m e sticky =>
    let (n, nx) := roundTo away m e 0 sticky
    let x : Int := if neg then -(n : Int) else n
    if x < lo then (lo, flagIS + flagNX)
    else if x > hi then (hi, flagIS + flagNX)
    else (x, flagIf nx flagNX)

/-- The range of an `n`-bit integer format (R83). -/
def intLo (isSigned : Bool) (n : Nat) : Int := if isSigned then -(2 ^ (n - 1) : Nat) else 0
def intHi (isSigned : Bool) (n : Nat) : Int := if isSigned then ((2 ^ (n - 1) : Nat) : Int) - 1 else ((2 ^ n : Nat) : Int) - 1

/-- An integer clamped to a range, with IS where it was outside (R83). -/
def clampInt (lo hi x : Int) : Int × Nat :=
  if x < lo then (lo, flagIS) else if x > hi then (hi, flagIS) else (x, 0)

/-- An `n`-bit encoding read by its signedness. -/
def intVal (isSigned : Bool) (n x : Nat) : Int := if isSigned then signed n x else ((x % 2 ^ n : Nat) : Int)

/-- The comparison of two values that are no NaN: −1, 0 or 1 as the first is less, equal or greater; zeros are equal. -/
def cmpV (x y : FVal) : Int :=
  match x, y with
  | .inf a, .inf b => if a = b then 0 else if a then -1 else 1
  | .inf a, _ => if a then -1 else 1
  | _, .inf b => if b then 1 else -1
  | a, b =>
    let lo := minExp [a, b]
    let i := scaleV lo a
    let j := scaleV lo b
    if i < j then -1 else if i = j then 0 else 1

end Sys2Proof.Machine
end

