-- ==== Sys2Proof/Config.lean ====
section
/-! DEFINITION. What one module fixes and the free values: constants with no body, so that no proof can see what they
are (log entries 3 and 10). -/

namespace Sys2Proof.Config

/-- The module revision of MID (R393): the spec gives none. Log entry 10. -/
opaque moduleRevision : BitVec 16
/-- FEATURES0 (R395), the features this module has; bits 63:6 read 0. Log entry 10. -/
opaque features : BitVec 6
/-- The bytes an uncached read returns (R190), by the model's counter: what stands behind the aperture is the host's. Log
entry 3. -/
opaque mmioRead : Nat → BitVec 1024
/-- What the destination of a load of poisoned data holds (R197): it is written, and the spec gives no value; by the
model's counter. Log entry 3. -/
opaque poisonData : Nat → BitVec 1024
/-- Energy in nJ that the sensors meter for a task, an island or the module overhead in one steep (R314), by the model's
counter. Log entry 3. -/
opaque sensor : Nat → BitVec 64
/-- The governor's decision for an island, at a steep boundary or a droop (R316: its choice of clock is open), by the
model's counter: [4:0] a clock setting, [5] reduce to it, [6] raise to it, [31:16] nanoseconds past the least notice. Log
entry 3. -/
opaque governor : Nat → BitVec 32
/-- The virtual and physical addresses of the record of a task that firmware creates (R372: the spec does not place it), by
the model's counter. Log entry 3. -/
opaque firmwareCr : Nat → BitVec 57
opaque firmwareTag : Nat → BitVec 48
/-- The frame with which firmware refills a kettle (R363: its choice is open), by the model's counter. Log entry 6. -/
opaque kettleFrame : Nat → BitVec 20
/-- Whether the system cache replaced a superblock in a steep (R191: the order is open), by the model's counter and the
superblock. Log entry 26. -/
opaque replaced : Nat → Nat → Bool
/-- The result (low 64 bits) and the 576 bytes written of an STRN of more than 64 paths (R339: it states none), by the model's
counter. Log entry 49. -/
opaque strainedOver : Nat → BitVec 4672
/-- The set of a superblock in the system cache (R13: the hash is not architectural). Log entry 3. -/
opaque cacheSet : Nat → BitVec 14
/-- Which of the ways it may take a full set of the system cache gives up (R191: the order is open), by the model's counter.
Log entry 26. -/
opaque cacheVictim : Nat → BitVec 4
/-- The ways firmware gives the host (R354): the spec gives no register for them. Log entry 77. -/
opaque hostWays : BitVec 16
/-- The set of a line in a line cache (R189 gives the number of sets and not the function). Log entry 26. -/
opaque lineSet : Nat → BitVec 9
/-- Which line a full set of a line cache gives up (R189: the order is open), by the model's counter. Log entry 26. -/
opaque lineVictim : Nat → BitVec 3
/-- Which block a full instruction store gives up (R290: the order is open), by the model's counter. Log entry 26. -/
opaque blockVictim : Nat → BitVec 7
/-- NPC of a fault report as firmware writes the report (R372: no value is given), by the model's counter. Log entry 3. -/
opaque reportNpc : Nat → BitVec 64
/-- CLUSTER and RANK as a sampler core reads them (R29): the spec gives none. Log entry 3. -/
opaque samplerCluster : BitVec 64
opaque samplerRank : BitVec 64

end Sys2Proof.Config
end

