-- ==== Sys2Proof/Syntax.lean ====
section
/-! DEFINITION. The instructions and steps of the TLX-40: one constructor for each row of spec/opcode_table.json.

Events and host actions come first. A slot instruction (a row with an encoding) carries exactly the fields of its 32-bit word (R31, R39), each as the bit
field it is: `g` the guard index, `q` the squash bit, `d`/`a`/`b`/`p` register fields. What a header adds to a slot
(R38) is not part of the word and stands in the issue latch of the state. An event or host action (a row without an
encoding) names what it concerns: a core, a context, a queue. -/

namespace Sys2Proof

inductive Instr where
  /-- R35. A 128-bit bundle is decoded and all its slots issue together, reading sources before any slot writes. -/
  | bundleIssue (core : Nat)
  /-- R53. After a yield or freeze the next ready context is chosen and its first bundle issues once the landing wait has passed. -/
  | contextSwitch (core : Nat)
  /-- R55. A context is frozen at a bundle boundary when a higher-class context becomes ready or a debugger or swap demands it. -/
  | preemptFreeze (core : Nat)
  /-- R55. A context that has owned issue for 65,536 cycles is frozen at the first boundary where another context of its class is ready. -/
  | issueQuantumExpiry (core : Nat)
  /-- R58. A fixed-latency result, or a VCW word, lands at the end of cycle u + L - 1. -/
  | fixedResultLand (core : Nat)
  /-- R57. Variable-latency work completes into its destination, clears the pending bit and sets its flags. -/
  | interlockedComplete (core : Nat) (ctx : Nat) (id : Nat)
  /-- R68. A target bundle missing from the instruction store is loaded and fetch resumes. -/
  | ifetchFill (core : Nat) (ctx : Nat)
  /-- R71. After END, once variable work completes and engine queues report empty, the context is freed and its banks return to the pool. -/
  | contextFree (core : Nat) (ctx : Nat)
  /-- R154. The array starts the next matrix-queue entry, switching contexts when due. -/
  | matrixEntryStart (core : Nat)
  /-- R156. A matrix entry ends its array cycles, releasing its operand-guard entry. -/
  | matrixEntryEnd (core : Nat)
  /-- R156. A closed chain, MLDA or MZERO finishes writing its tile rows, raising the watermark to 32. -/
  | chainWritebackDone (core : Nat)
  /-- R318. Every four cycles the island's limiter ramps down, grants requesting arrays up to its limit and adjusts the ramp level. -/
  | slewStepBoundary (island : Nat)
  /-- R186. A page walk ends and the handle becomes valid or holds the walk's fault. -/
  | translationWalkComplete (core : Nat) (ctx : Nat) (h : Nat)
  /-- R60. The handle written by XLT lands 16 cycles after issue in the context's handle file. -/
  | xltHandleLand (core : Nat) (ctx : Nat)
  /-- R362. An access through a revoked handle re-translates from its virtual address and then proceeds or faults. -/
  | handleRetranslate (core : Nat) (ctx : Nat) (h : Nat)
  /-- R189. A line-cache line is replaced and only its dirty bytes are written back to the system cache. -/
  | lineCacheEvict (core : Nat) (line : Nat)
  /-- R13. A store from any agent is performed at its line's system-cache slice, allocating or fetching the line as needed. -/
  | sliceStorePerform (id : Nat)
  /-- R257. A held trigger is placed into its ring slot and pushed to the task queue once the slot frees. -/
  | peepholeHeldPlace (entry : Nat)
  /-- R258. A peephole task is offered for dispatch CWIN x 64 ns after its first trigger. -/
  | coalesceWindowExpiry (entry : Nat)
  /-- R224. The cluster atomic unit writes an updated word back to the slice on eviction or recall. -/
  | cluAtomicWriteback (cluster : Nat) (line : Nat)
  /-- R227, R392. A host store, at a host address, is performed at its LPDDR-6 line's slice once globally visible; its data
  may arrive marked as poisoned (R385). -/
  | hostStore (ha : Nat) (bytes : List (BitVec 8)) (poisoned : Bool)
  /-- R227, R392. A host load, at a host address, reads the line at its slice, refused with all-ones for a foreign domain
  frame. -/
  | hostLoad (ha : Nat) (n : Nat)
  /-- R229. Once every replica acknowledges invalidation, a held write to a read-duplicated page is performed. -/
  | replicaInvalidateAck (id : Nat) (cluster : Nat)
  /-- R218. A queued hatch acquire is granted at the slice, returns SEQ and invalidates the lines that may have changed. -/
  | hacqGrant (addr : Nat)
  /-- R222. A fence finishes its waits, write-backs and invalidations and later bundles may issue. -/
  | fenceComplete (core : Nat) (ctx : Nat)
  /-- R232. An accepted engine operation starts after the previous operation of its engine context completes. -/
  | engineOpStart (cluster : Nat) (part : Nat) (e : Nat)
  /-- R242. An engine operation completes: its tag is set, its publish word written and its timeline counter advanced. -/
  | engineOpComplete (cluster : Nat) (part : Nat) (e : Nat)
  /-- R245. A timeline wait ends and the core's line cache is brought up to date for that engine context. -/
  | tlwaitComplete (core : Nat) (ctx : Nat)
  /-- R244. All masked tags are set and the waiting TAGW bundle issues. -/
  | tagwSatisfied (core : Nat) (ctx : Nat)
  /-- R172. The awaited batches are complete and the MWAITB bundle issues. -/
  | mwaitbSatisfied (core : Nat) (ctx : Nat)
  /-- R300. The barrier phase moves past the awaited value and BARW performs its acquire. -/
  | barwRelease (core : Nat) (ctx : Nat)
  /-- R304. A waiting pop receives the next entry and performs its acquire. -/
  | qpopGrant (queue : Nat)
  /-- R337. The ready word reaches the expected value; the predicate becomes true after a .sys acquire. -/
  | dlbarReady (core : Nat) (ctx : Nat)
  /-- R337. TIME reaches the deadline first and the predicate becomes false with no acquire. -/
  | dlbarTimeout (core : Nat) (ctx : Nat)
  /-- R382. TIME reaches the IDLE target and the idling context becomes ready. -/
  | idleExpiry (core : Nat) (ctx : Nat)
  /-- R269. The window unit accepts a window store into the overlay at the current position. -/
  | windowStoreAccept (core : Nat) (ctx : Nat) (id : Nat)
  /-- R274. A commit locks its lines and performs every kept byte at one point, triggering peepholes once each. -/
  | windowCommitPoint (core : Nat) (ctx : Nat) (id : Nat)
  /-- R275. WABORT.F completes once every handle bound to the window has been emptied. -/
  | windowCloseComplete (w : Nat)
  /-- R285. The dispatcher pops a TASK-queue entry, writes QUEUED and appends the task to its region's ready list. -/
  | taskQueuePop (queue : Nat)
  /-- R310. Every 50 us the governor charges overruns and overhead, grants budget to islands and runs dispatch. -/
  | steepBoundary
  /-- R317. At DUE, or when all warned contexts acknowledge, the island takes the lower clock and LOW is set. -/
  | clockReduction (island : Nat)
  /-- R320. A supply droop starts a clock-stretch episode and may lower the activity cap. -/
  | droopDetect (island : Nat)
  /-- R320. A stretch episode ends when the droop clears or after 64 cycles. -/
  | stretchEpisodeEnd (island : Nat)
  /-- R305. An island idle for the mode's number of steeps is power-gated. -/
  | islandPowerGate (island : Nat)
  /-- R305. A gated island is powered up for new work. -/
  | islandUngate (island : Nat)
  /-- R333. A sampler core starts the next queued job with an acquire and its start registers. -/
  | samplerJobStart (n : Nat)
  /-- R333. After the fault is reported firmware clears the sampler context and the next job starts. -/
  | samplerRestart (n : Nat)
  /-- R360. Writing GO starts a shutter broadcast that revokes matching handles and drops translations. -/
  | shutterGo (part : Nat)
  /-- R360. An agent acknowledges a shutter once its accesses through revoked handles are done. -/
  | shutterAck (part : Nat) (agent : Nat)
  /-- R360. After all acknowledgements and any scrub, SHSEQ increments and BUSY clears. -/
  | shutterComplete (part : Nat)
  /-- R371. Firmware offers a fault to its handlers in order, resolving, forwarding, reporting or stopping the partition. -/
  | firmwareFaultService
  /-- R372. When the next ring report is free firmware writes it and creates the fault-domain task. -/
  | faultReportWrite
  /-- R373. After the fault-domain task retires firmware acts on the frozen context by ACTION. -/
  | faultDisposition
  /-- R377. At a time-slice step firmware halts and drains the outgoing partition of an island. -/
  | swapOrder (island : Nat) (part : Nat)
  /-- R378. Once drained, core state is exchanged with the shadow store and incoming contexts become ready. -/
  | swapExchange (island : Nat)
  /-- R386. The test of an erroring row ends, classifying it transient or lasting and sparing or fencing; `left` names what the
  error left poisoned (R383). -/
  | errorRowTestDone (id left : Nat) (pass : Bool)
  /-- R387. A bundle stalled for 2^20 cycles outside a blocking wait freezes with WATCHDOG. -/
  | watchdogExpiry (core : Nat) (ctx : Nat)
  /-- R394. A module reset trains the link, boots the ROM, self-tests SRAM and enters FWWAIT. -/
  | moduleReset
  /-- R391. The host link trains; an unsupported result sends MSTATE to FAILED. -/
  | linkTrain (ok : Bool) (wide : Bool)
  /-- R394. GO in FWWAIT makes the ROM read and check the firmware image. -/
  | fwctlGo
  /-- R394. The signature check ends, entering NEGOTIATE or FAILED; in RESET, after training, the module's self-test ends. -/
  | fwCheckDone (fail : Nat)
  /-- R394. START in NEGOTIATE carves the overlay pool and enters READY. -/
  | fwctlStart
  /-- R305. A write to PWRLIM sets the limit and mode, refused whole for mode 11. -/
  | pwrlimWrite (v : Nat)
  /-- R393. A write to a register with no behaviour of its own stores its writable fields, subject to state gating. -/
  | registerWrite (off : Nat) (v : Nat)
  /-- R397. Firmware command that creates a partition from the argument block. -/
  | pcreate (part : Nat)
  /-- R396. Firmware command that frees everything a stopped partition owns. -/
  | pdestroy (part : Nat)
  /-- R396. Firmware command that stops every context of a partition. -/
  | pstop (part : Nat)
  /-- R396. Firmware command that resumes a stopped partition. -/
  | presume (part : Nat)
  /-- R396. Firmware command that replaces the class-cost table from the next steep. -/
  | setcost (part : Nat)
  /-- R396. Firmware command that sets an island's ramp table. -/
  | setramp (part : Nat)
  /-- R301. Firmware command that creates a hardware queue with kind, scope and capacity. -/
  | qcreate (part : Nat)
  /-- R396. Firmware command that destroys an empty hardware queue. -/
  | qdestroy (part : Nat)
  /-- R398. Firmware command that writes or clears level-3 leaves on the driver's behalf. -/
  | pmap (part : Nat)
  /-- R396. Firmware command that turns fault service to the driver on or off. -/
  | fsvc (part : Nat)
  /-- R399. Firmware command that writes the partition's counts and totals into the block. -/
  | pstats (part : Nat)
  /-- R400. The driver answers a fault-service request, resolving or not. -/
  | fsrespWrite (v : Nat)
  /-- R400. The host advances EVTAIL, freeing ring space for held events. -/
  | evtailWrite (v : Nat)
  /-- R401. RESET with EN clear zeroes CSHEAD and CSTAIL, clears HALT and discards fetched words. -/
  | csctlReset (part : Nat) (n : Nat) (v : Nat)
  /-- R401. A CSCTL write sets EN and, while disabled, SIZE. -/
  | csctlWrite (part : Nat) (n : Nat) (v : Nat)
  /-- R401. The driver moves CSTAIL, covering or uncovering ring words. -/
  | cstailWrite (part : Nat) (n : Nat) (v : Nat)
  /-- R405. The stream processor fetches a 64-byte block whole ahead of execution. -/
  | csBlockFetch (part : Nat) (n : Nat) (level : Nat) (block : Nat)
  /-- R403. Stream packet that does nothing. -/
  | csNop (part : Nat) (n : Nat)
  /-- R282. LAUNCH with ACT 00 creates a region from its RCB and pushes the CR if given. -/
  | launchCreate (part : Nat) (n : Nat)
  /-- R403. LAUNCH with ACT 01 pushes a CR to the region's task queue. -/
  | launchPush (part : Nat) (n : Nat)
  /-- R343. LAUNCH with ACT 10 sets CANCEL, retiring queued tasks, removing jobs and draining slots. -/
  | launchCancel (part : Nat) (n : Nat)
  /-- R403. LAUNCH with ACT 11 destroys a region with no live tasks or children. -/
  | launchDestroy (part : Nat) (n : Nat)
  /-- R290. The RELOAD bit drops the partition's instruction-store blocks before the launch. -/
  | launchReload (part : Nat) (n : Nat)
  /-- R403. Stream packet that stores a 32-bit value. -/
  | write32 (part : Nat) (n : Nat)
  /-- R412. WRITE32 with CONS sets the partition's debug consent. -/
  | write32Consent (part : Nat) (n : Nat)
  /-- R403. Stream packet that stores a 64-bit value. -/
  | write64 (part : Nat) (n : Nat)
  /-- R403. Stream packet that waits until a memory compare holds. -/
  | waitmem (part : Nat) (n : Nat)
  /-- R404. The compare holds and the stream continues with an acquire. -/
  | waitmemSatisfied (part : Nat) (n : Nat)
  /-- R403. The WAITMEM timeout expires and the stream halts with TIMEOUT. -/
  | waitmemTimeout (part : Nat) (n : Nat)
  /-- R403. Stream packet that skips the next n packets when its compare is false. -/
  | pred (part : Nat) (n : Nat)
  /-- R405. Stream packet that runs an indirect buffer one level deeper and returns. -/
  | ibuf (part : Nat) (n : Nat)
  /-- R405. Stream packet that runs the next n packets k times from one fetch. -/
  | loopp (part : Nat) (n : Nat)
  /-- R405. Stream packet that waits for earlier effects and discards every held block. -/
  | ffence (part : Nat) (n : Nat)
  /-- R403. Stream packet that stores a value and optionally raises an MSI-X vector. -/
  | signal (part : Nat) (n : Nat)
  /-- R411. A debug write asks to halt named contexts at the next level-0 iteration boundary. -/
  | haltRequest (core : Nat) (v : Nat)
  /-- R411. A requested halt freezes the context with DEBUG and writes a halt record. -/
  | haltLand (core : Nat) (ctx : Nat)
  /-- R411. With no iteration boundary within 2^20 cycles the halt lands with OBJ 0xFE. -/
  | haltTimeout (core : Nat) (ctx : Nat)
  /-- R411. A debug resume request resumes a halted context as RESUME. -/
  | resumeRequest (core : Nat) (v : Nat)
  /-- R409. A write to TRPOP removes the oldest trace record. -/
  | trpopWrite (core : Nat)
  /-- R413. Entry to D3hot stops partitions, saves dispatcher state and puts LPDDR-6 in self-refresh. -/
  | d3hotEntry
  /-- R413. Exit from D3hot restores the saved tables, ready lists, queues and batching table. -/
  | d3hotExit
  /-- R413. Entry to D3cold loses all state until reset and bring-up. -/
  | d3cold
  /-- R383. A host-link error that the PCIe 6.0 flit CRC, FEC and replay cannot correct is reported to the host as a link error event. -/
  | linkError (log : Nat)
  /-- R67. Control no-op in slot 3. -/
  | nop (g : BitVec 4)
  /-- R68. Branch by a signed offset after one delay bundle. -/
  | br (g : BitVec 4) (o : BitVec 18)
  /-- R68. Branch to the address in a scalar register. -/
  | brs (g : BitVec 4) (a : BitVec 6)
  /-- R68. Branch by offset and write the link register. -/
  | call (g : BitVec 4) (o : BitVec 18)
  /-- R68. Branch to the link register. -/
  | ret (g : BitVec 4)
  /-- R69. Yield issue, staying resident and ready. -/
  | yield (g : BitVec 4)
  /-- R70. Yield at a continuation point keeping only PC and s1-s6 live. -/
  | yieldC (g : BitVec 4)
  /-- R71. End the context's bundle stream. -/
  | endTask (g : BitVec 4)
  /-- R72. Start a sibling context of the same task on this core. -/
  | spawn (g : BitVec 4) (a : BitVec 6) (b : BitVec 6) (c : BitVec 3)
  /-- R74. Open a hardware loop level with trip and stage count from a register. -/
  | loop (g : BitVec 4) (l : BitVec 3) (s : BitVec 3) (n : BitVec 12)
  /-- R74. Open a hardware loop level with an immediate trip count. -/
  | loopi (g : BitVec 4) (l : BitVec 3) (t : BitVec 6) (n : BitVec 9)
  /-- R79. Set a stride link of an active loop level. -/
  | lstr (g : BitVec 4) (l : BitVec 3) (k : BitVec 2) (a : BitVec 6) (b : BitVec 6)
  /-- R80. Make the current iteration of a level its last. -/
  | lbrk (g : BitVec 4) (l : BitVec 3)
  /-- R81. Set a predicate pair from a bit of the oldest condition word, popping it unless .PK. -/
  | lcw (g : BitVec 4) (p : BitVec 4) (i : BitVec 6) (x : BitVec 1)
  /-- R108. 64-bit add. -/
  | add (g : BitVec 4) (q : BitVec 1) (d : BitVec 6) (a : BitVec 6) (b : BitVec 6)
  /-- R108. 64-bit subtract. -/
  | sub (g : BitVec 4) (q : BitVec 1) (d : BitVec 6) (a : BitVec 6) (b : BitVec 6)
  /-- R108. Low 64 bits of a product. -/
  | mul (g : BitVec 4) (q : BitVec 1) (d : BitVec 6) (a : BitVec 6) (b : BitVec 6)
  /-- R108. High 64 bits of a signed product. -/
  | mulh (g : BitVec 4) (q : BitVec 1) (d : BitVec 6) (a : BitVec 6) (b : BitVec 6)
  /-- R108. High 64 bits of an unsigned product. -/
  | mulhn (g : BitVec 4) (q : BitVec 1) (d : BitVec 6) (a : BitVec 6) (b : BitVec 6)
  /-- R109. Signed division, interlocked. -/
  | div (g : BitVec 4) (q : BitVec 1) (d : BitVec 6) (a : BitVec 6) (b : BitVec 6)
  /-- R109. Unsigned division, interlocked. -/
  | divn (g : BitVec 4) (q : BitVec 1) (d : BitVec 6) (a : BitVec 6) (b : BitVec 6)
  /-- R109. Signed remainder, interlocked. -/
  | rem (g : BitVec 4) (q : BitVec 1) (d : BitVec 6) (a : BitVec 6) (b : BitVec 6)
  /-- R109. Unsigned remainder, interlocked. -/
  | remn (g : BitVec 4) (q : BitVec 1) (d : BitVec 6) (a : BitVec 6) (b : BitVec 6)
  /-- R108. Bitwise and. -/
  | and (g : BitVec 4) (q : BitVec 1) (d : BitVec 6) (a : BitVec 6) (b : BitVec 6)
  /-- R108. Bitwise or. -/
  | or (g : BitVec 4) (q : BitVec 1) (d : BitVec 6) (a : BitVec 6) (b : BitVec 6)
  /-- R108. Bitwise exclusive or. -/
  | xor (g : BitVec 4) (q : BitVec 1) (d : BitVec 6) (a : BitVec 6) (b : BitVec 6)
  /-- R108. And with complement. -/
  | andn (g : BitVec 4) (q : BitVec 1) (d : BitVec 6) (a : BitVec 6) (b : BitVec 6)
  /-- R110. Shift left by a register amount. -/
  | shl (g : BitVec 4) (q : BitVec 1) (d : BitVec 6) (a : BitVec 6) (b : BitVec 6)
  /-- R110. Logical shift right by a register amount. -/
  | shr (g : BitVec 4) (q : BitVec 1) (d : BitVec 6) (a : BitVec 6) (b : BitVec 6)
  /-- R110. Arithmetic shift right by a register amount. -/
  | sar (g : BitVec 4) (q : BitVec 1) (d : BitVec 6) (a : BitVec 6) (b : BitVec 6)
  /-- R110. Rotate left. -/
  | rol (g : BitVec 4) (q : BitVec 1) (d : BitVec 6) (a : BitVec 6) (b : BitVec 6)
  /-- R108. Signed minimum. -/
  | min (g : BitVec 4) (q : BitVec 1) (d : BitVec 6) (a : BitVec 6) (b : BitVec 6)
  /-- R108. Signed maximum. -/
  | max (g : BitVec 4) (q : BitVec 1) (d : BitVec 6) (a : BitVec 6) (b : BitVec 6)
  /-- R108. Unsigned minimum. -/
  | minn (g : BitVec 4) (q : BitVec 1) (d : BitVec 6) (a : BitVec 6) (b : BitVec 6)
  /-- R108. Unsigned maximum. -/
  | maxn (g : BitVec 4) (q : BitVec 1) (d : BitVec 6) (a : BitVec 6) (b : BitVec 6)
  /-- R108. Shift by 1 and add. -/
  | shadd1 (g : BitVec 4) (q : BitVec 1) (d : BitVec 6) (a : BitVec 6) (b : BitVec 6)
  /-- R108. Shift by 2 and add. -/
  | shadd2 (g : BitVec 4) (q : BitVec 1) (d : BitVec 6) (a : BitVec 6) (b : BitVec 6)
  /-- R108. Shift by 3 and add. -/
  | shadd3 (g : BitVec 4) (q : BitVec 1) (d : BitVec 6) (a : BitVec 6) (b : BitVec 6)
  /-- R113. Set a predicate pair on equality. -/
  | cmpeq (g : BitVec 4) (q : BitVec 1) (p : BitVec 6) (a : BitVec 6) (b : BitVec 6)
  /-- R113. Set a predicate pair on inequality. -/
  | cmpne (g : BitVec 4) (q : BitVec 1) (p : BitVec 6) (a : BitVec 6) (b : BitVec 6)
  /-- R113. Signed less-than compare. -/
  | cmplt (g : BitVec 4) (q : BitVec 1) (p : BitVec 6) (a : BitVec 6) (b : BitVec 6)
  /-- R113. Signed less-or-equal compare. -/
  | cmple (g : BitVec 4) (q : BitVec 1) (p : BitVec 6) (a : BitVec 6) (b : BitVec 6)
  /-- R113. Unsigned less-than compare. -/
  | cmpltn (g : BitVec 4) (q : BitVec 1) (p : BitVec 6) (a : BitVec 6) (b : BitVec 6)
  /-- R113. Unsigned less-or-equal compare. -/
  | cmplen (g : BitVec 4) (q : BitVec 1) (p : BitVec 6) (a : BitVec 6) (b : BitVec 6)
  /-- R117. f32 add rounded once. -/
  | fadd (g : BitVec 4) (q : BitVec 1) (d : BitVec 6) (a : BitVec 6) (b : BitVec 6)
  /-- R117. f32 subtract. -/
  | fsub (g : BitVec 4) (q : BitVec 1) (d : BitVec 6) (a : BitVec 6) (b : BitVec 6)
  /-- R117. f32 multiply. -/
  | fmul (g : BitVec 4) (q : BitVec 1) (d : BitVec 6) (a : BitVec 6) (b : BitVec 6)
  /-- R117. f32 fused multiply-add into the destination. -/
  | ffma (g : BitVec 4) (q : BitVec 1) (d : BitVec 6) (a : BitVec 6) (b : BitVec 6)
  /-- R117. f32 divide, interlocked. -/
  | fdiv (g : BitVec 4) (q : BitVec 1) (d : BitVec 6) (a : BitVec 6) (b : BitVec 6)
  /-- R117. f32 square root, interlocked. -/
  | fsqrt (g : BitVec 4) (q : BitVec 1) (d : BitVec 6) (a : BitVec 6)
  /-- R118. f32 minimum. -/
  | fmin (g : BitVec 4) (q : BitVec 1) (d : BitVec 6) (a : BitVec 6) (b : BitVec 6)
  /-- R118. f32 maximum. -/
  | fmax (g : BitVec 4) (q : BitVec 1) (d : BitVec 6) (a : BitVec 6) (b : BitVec 6)
  /-- R118. Clear the f32 sign. -/
  | fabs (g : BitVec 4) (q : BitVec 1) (d : BitVec 6) (a : BitVec 6)
  /-- R118. Invert the f32 sign. -/
  | fneg (g : BitVec 4) (q : BitVec 1) (d : BitVec 6) (a : BitVec 6)
  /-- R119. f32 equality compare into a predicate pair. -/
  | fceq (g : BitVec 4) (q : BitVec 1) (p : BitVec 6) (a : BitVec 6) (b : BitVec 6)
  /-- R119. f32 less-than compare. -/
  | fclt (g : BitVec 4) (q : BitVec 1) (p : BitVec 6) (a : BitVec 6) (b : BitVec 6)
  /-- R119. f32 less-or-equal compare. -/
  | fcle (g : BitVec 4) (q : BitVec 1) (p : BitVec 6) (a : BitVec 6) (b : BitVec 6)
  /-- R119. f32 unordered compare. -/
  | fcun (g : BitVec 4) (q : BitVec 1) (p : BitVec 6) (a : BitVec 6) (b : BitVec 6)
  /-- R120. Convert an integer to f32. -/
  | fcvtif (g : BitVec 4) (q : BitVec 1) (d : BitVec 6) (a : BitVec 6) (v : BitVec 2)
  /-- R120. Convert f32 to an integer with saturation. -/
  | fcvtfi (g : BitVec 4) (q : BitVec 1) (d : BitVec 6) (a : BitVec 6) (v : BitVec 2)
  /-- R121. f32 power of two. -/
  | fexp2 (g : BitVec 4) (q : BitVec 1) (d : BitVec 6) (a : BitVec 6)
  /-- R121. f32 base-2 logarithm. -/
  | flog2 (g : BitVec 4) (q : BitVec 1) (d : BitVec 6) (a : BitVec 6)
  /-- R112. Count leading zeros. -/
  | clz (g : BitVec 4) (q : BitVec 1) (d : BitVec 6) (a : BitVec 6)
  /-- R112. Count trailing zeros. -/
  | ctz (g : BitVec 4) (q : BitVec 1) (d : BitVec 6) (a : BitVec 6)
  /-- R112. Count one bits. -/
  | popc (g : BitVec 4) (q : BitVec 1) (d : BitVec 6) (a : BitVec 6)
  /-- R112. Sign-extend from a bit position. -/
  | sext (g : BitVec 4) (q : BitVec 1) (d : BitVec 6) (a : BitVec 6) (n : BitVec 6)
  /-- R112. Zero-extend from a bit position. -/
  | zext (g : BitVec 4) (q : BitVec 1) (d : BitVec 6) (a : BitVec 6) (n : BitVec 6)
  /-- R111. Extract a signed bit field. -/
  | bfx (g : BitVec 4) (q : BitVec 1) (d : BitVec 6) (a : BitVec 6) (b : BitVec 6)
  /-- R111. Extract an unsigned bit field. -/
  | bfxn (g : BitVec 4) (q : BitVec 1) (d : BitVec 6) (a : BitVec 6) (b : BitVec 6)
  /-- R111. Insert a bit field into the destination. -/
  | bfi (g : BitVec 4) (q : BitVec 1) (d : BitVec 6) (a : BitVec 6) (b : BitVec 6)
  /-- R112. Copy a scalar register. -/
  | mov (g : BitVec 4) (q : BitVec 1) (d : BitVec 6) (a : BitVec 6)
  /-- R114. Combine two predicates into a pair. -/
  | movp (g : BitVec 4) (q : BitVec 1) (p : BitVec 6) (a : BitVec 4) (f : BitVec 2) (b : BitVec 4)
  /-- R114. Set a predicate pair from a scalar being nonzero. -/
  | movtp (g : BitVec 4) (q : BitVec 1) (p : BitVec 6) (a : BitVec 6)
  /-- R108. Add an immediate. -/
  | addi (g : BitVec 4) (q : BitVec 1) (d : BitVec 6) (a : BitVec 6) (i : BitVec 6)
  /-- R108. Multiply by an immediate. -/
  | muli (g : BitVec 4) (q : BitVec 1) (d : BitVec 6) (a : BitVec 6) (i : BitVec 6)
  /-- R108. And with an immediate. -/
  | andi (g : BitVec 4) (q : BitVec 1) (d : BitVec 6) (a : BitVec 6) (i : BitVec 6)
  /-- R108. Or with an immediate. -/
  | ori (g : BitVec 4) (q : BitVec 1) (d : BitVec 6) (a : BitVec 6) (i : BitVec 6)
  /-- R108. Exclusive or with an immediate. -/
  | xori (g : BitVec 4) (q : BitVec 1) (d : BitVec 6) (a : BitVec 6) (i : BitVec 6)
  /-- R110. Shift left by an immediate. -/
  | shli (g : BitVec 4) (q : BitVec 1) (d : BitVec 6) (a : BitVec 6) (i : BitVec 6)
  /-- R110. Logical shift right by an immediate. -/
  | shri (g : BitVec 4) (q : BitVec 1) (d : BitVec 6) (a : BitVec 6) (i : BitVec 6)
  /-- R110. Arithmetic shift right by an immediate. -/
  | sari (g : BitVec 4) (q : BitVec 1) (d : BitVec 6) (a : BitVec 6) (i : BitVec 6)
  /-- R113. Compare equal to an immediate. -/
  | cmpeqi (g : BitVec 4) (q : BitVec 1) (p : BitVec 6) (a : BitVec 6) (i : BitVec 6)
  /-- R113. Compare not equal to an immediate. -/
  | cmpnei (g : BitVec 4) (q : BitVec 1) (p : BitVec 6) (a : BitVec 6) (i : BitVec 6)
  /-- R113. Signed compare less than an immediate. -/
  | cmplti (g : BitVec 4) (q : BitVec 1) (p : BitVec 6) (a : BitVec 6) (i : BitVec 6)
  /-- R113. Unsigned compare less than an immediate. -/
  | cmpltni (g : BitVec 4) (q : BitVec 1) (p : BitVec 6) (a : BitVec 6) (i : BitVec 6)
  /-- R115. Load a sign-extended immediate. -/
  | movi (g : BitVec 4) (q : BitVec 1) (d : BitVec 6) (i : BitVec 12)
  /-- R116. Replace bits 63:39 with an immediate. -/
  | movhi (g : BitVec 4) (q : BitVec 1) (d : BitVec 6) (i : BitVec 12)
  /-- R128. Elementwise add. -/
  | vadd (g : BitVec 4) (q : BitVec 1) (t : BitVec 3) (d : BitVec 5) (a : BitVec 5) (b : BitVec 5)
  /-- R128. Elementwise subtract. -/
  | vsub (g : BitVec 4) (q : BitVec 1) (t : BitVec 3) (d : BitVec 5) (a : BitVec 5) (b : BitVec 5)
  /-- R128. Elementwise multiply. -/
  | vmul (g : BitVec 4) (q : BitVec 1) (t : BitVec 3) (d : BitVec 5) (a : BitVec 5) (b : BitVec 5)
  /-- R128. Elementwise high half of product. -/
  | vmulh (g : BitVec 4) (q : BitVec 1) (t : BitVec 3) (d : BitVec 5) (a : BitVec 5) (b : BitVec 5)
  /-- R128. Elementwise fused multiply-add into the destination. -/
  | vfma (g : BitVec 4) (q : BitVec 1) (t : BitVec 3) (d : BitVec 5) (a : BitVec 5) (b : BitVec 5)
  /-- R128. Elementwise fused multiply-subtract. -/
  | vfms (g : BitVec 4) (q : BitVec 1) (t : BitVec 3) (d : BitVec 5) (a : BitVec 5) (b : BitVec 5)
  /-- R128. Elementwise minimum. -/
  | vmin (g : BitVec 4) (q : BitVec 1) (t : BitVec 3) (d : BitVec 5) (a : BitVec 5) (b : BitVec 5)
  /-- R128. Elementwise maximum. -/
  | vmax (g : BitVec 4) (q : BitVec 1) (t : BitVec 3) (d : BitVec 5) (a : BitVec 5) (b : BitVec 5)
  /-- R128. Elementwise absolute value. -/
  | vabs (g : BitVec 4) (q : BitVec 1) (t : BitVec 3) (d : BitVec 5) (a : BitVec 5)
  /-- R128. Elementwise negation. -/
  | vneg (g : BitVec 4) (q : BitVec 1) (t : BitVec 3) (d : BitVec 5) (a : BitVec 5)
  /-- R128. Saturating elementwise add. -/
  | vadds (g : BitVec 4) (q : BitVec 1) (t : BitVec 3) (d : BitVec 5) (a : BitVec 5) (b : BitVec 5)
  /-- R128. Saturating elementwise subtract. -/
  | vsubs (g : BitVec 4) (q : BitVec 1) (t : BitVec 3) (d : BitVec 5) (a : BitVec 5) (b : BitVec 5)
  /-- R128. Rounded elementwise average. -/
  | vavg (g : BitVec 4) (q : BitVec 1) (t : BitVec 3) (d : BitVec 5) (a : BitVec 5) (b : BitVec 5)
  /-- R130. Four-way byte dot product accumulated into i32. -/
  | vdot4 (g : BitVec 4) (q : BitVec 1) (t : BitVec 3) (d : BitVec 5) (a : BitVec 5) (b : BitVec 5)
  /-- R130. Widening elementwise multiply. -/
  | vmulw (g : BitVec 4) (q : BitVec 1) (t : BitVec 3) (d : BitVec 5) (a : BitVec 5) (b : BitVec 5)
  /-- R128. Clamp the destination between two sources. -/
  | vclamp (g : BitVec 4) (q : BitVec 1) (t : BitVec 3) (d : BitVec 5) (a : BitVec 5) (b : BitVec 5)
  /-- R131. Bitwise and. -/
  | vand (g : BitVec 4) (q : BitVec 1) (t : BitVec 3) (d : BitVec 5) (a : BitVec 5) (b : BitVec 5)
  /-- R131. Bitwise or. -/
  | vor (g : BitVec 4) (q : BitVec 1) (t : BitVec 3) (d : BitVec 5) (a : BitVec 5) (b : BitVec 5)
  /-- R131. Bitwise exclusive or. -/
  | vxor (g : BitVec 4) (q : BitVec 1) (t : BitVec 3) (d : BitVec 5) (a : BitVec 5) (b : BitVec 5)
  /-- R131. And with complement. -/
  | vandn (g : BitVec 4) (q : BitVec 1) (t : BitVec 3) (d : BitVec 5) (a : BitVec 5) (b : BitVec 5)
  /-- R131. Bitwise not. -/
  | vnot (g : BitVec 4) (q : BitVec 1) (t : BitVec 3) (d : BitVec 5) (a : BitVec 5)
  /-- R131. Elementwise shift left. -/
  | vshl (g : BitVec 4) (q : BitVec 1) (t : BitVec 3) (d : BitVec 5) (a : BitVec 5) (b : BitVec 5)
  /-- R131. Elementwise logical shift right. -/
  | vshr (g : BitVec 4) (q : BitVec 1) (t : BitVec 3) (d : BitVec 5) (a : BitVec 5) (b : BitVec 5)
  /-- R131. Elementwise arithmetic shift right. -/
  | vsar (g : BitVec 4) (q : BitVec 1) (t : BitVec 3) (d : BitVec 5) (a : BitVec 5) (b : BitVec 5)
  /-- R132. Elementwise equality into a lane-predicate pair. -/
  | vceq (g : BitVec 4) (q : BitVec 1) (t : BitVec 3) (d : BitVec 5) (a : BitVec 5) (b : BitVec 5)
  /-- R132. Elementwise inequality into a lane-predicate pair. -/
  | vcne (g : BitVec 4) (q : BitVec 1) (t : BitVec 3) (d : BitVec 5) (a : BitVec 5) (b : BitVec 5)
  /-- R132. Elementwise less-than into a lane-predicate pair. -/
  | vclt (g : BitVec 4) (q : BitVec 1) (t : BitVec 3) (d : BitVec 5) (a : BitVec 5) (b : BitVec 5)
  /-- R132. Elementwise less-or-equal into a lane-predicate pair. -/
  | vcle (g : BitVec 4) (q : BitVec 1) (t : BitVec 3) (d : BitVec 5) (a : BitVec 5) (b : BitVec 5)
  /-- R132. Classify float elements against a mask. -/
  | vclass (g : BitVec 4) (q : BitVec 1) (t : BitVec 3) (d : BitVec 5) (a : BitVec 5) (m : BitVec 5)
  /-- R133. Select bytes by a lane predicate. -/
  | vsel (g : BitVec 4) (q : BitVec 1) (s : BitVec 3) (d : BitVec 5) (a : BitVec 5) (b : BitVec 5)
  /-- R134. Copy a vector register. -/
  | vmov (g : BitVec 4) (q : BitVec 1) (t : BitVec 3) (d : BitVec 5) (a : BitVec 5)
  /-- R134. Broadcast a scalar to every element. -/
  | vbc (g : BitVec 4) (q : BitVec 1) (t : BitVec 3) (d : BitVec 5) (a : BitVec 5)
  /-- R134. Move one element to a scalar. -/
  | vmovs (g : BitVec 4) (q : BitVec 1) (t : BitVec 3) (d : BitVec 5) (a : BitVec 5) (n : BitVec 5)
  /-- R134. Insert a scalar into one element. -/
  | vins (g : BitVec 4) (q : BitVec 1) (t : BitVec 3) (d : BitVec 5) (a : BitVec 5) (n : BitVec 5)
  /-- R134. Write a scalar plus element index to each element. -/
  | viota (g : BitVec 4) (q : BitVec 1) (t : BitVec 3) (d : BitVec 5) (a : BitVec 5)
  /-- R135. And two lane predicates into a pair. -/
  | qand (g : BitVec 4) (q : BitVec 1) (t : BitVec 3) (d : BitVec 5) (a : BitVec 4) (b : BitVec 4)
  /-- R135. Or two lane predicates into a pair. -/
  | qor (g : BitVec 4) (q : BitVec 1) (t : BitVec 3) (d : BitVec 5) (a : BitVec 4) (b : BitVec 4)
  /-- R135. Exclusive-or two lane predicates into a pair. -/
  | qxor (g : BitVec 4) (q : BitVec 1) (t : BitVec 3) (d : BitVec 5) (a : BitVec 4) (b : BitVec 4)
  /-- R135. Copy a lane predicate into a pair. -/
  | qmov (g : BitVec 4) (q : BitVec 1) (t : BitVec 3) (d : BitVec 5) (a : BitVec 4)
  /-- R136. Same-width element conversion. -/
  | vcvt (g : BitVec 4) (q : BitVec 1) (t : BitVec 3) (d : BitVec 5) (a : BitVec 5) (s : BitVec 4)
  /-- R136. Widening element conversion. -/
  | vcvtw (g : BitVec 4) (q : BitVec 1) (t : BitVec 3) (d : BitVec 5) (a : BitVec 5) (s : BitVec 4)
  /-- R136. Narrowing element conversion. -/
  | vcvtn (g : BitVec 4) (q : BitVec 1) (t : BitVec 3) (d : BitVec 5) (a : BitVec 5) (s : BitVec 4)
  /-- R136. Saturating narrowing conversion. -/
  | vcvtns (g : BitVec 4) (q : BitVec 1) (t : BitVec 3) (d : BitVec 5) (a : BitVec 5) (s : BitVec 4)
  /-- R137. Pack low halves of two registers' elements. -/
  | vpack (g : BitVec 4) (q : BitVec 1) (t : BitVec 3) (d : BitVec 5) (a : BitVec 5) (b : BitVec 5)
  /-- R137. Widen one half of a register's elements. -/
  | vunpk (g : BitVec 4) (q : BitVec 1) (t : BitVec 3) (d : BitVec 5) (a : BitVec 5) (h : BitVec 1)
  /-- R138. Permute elements by an index register. -/
  | vperm (g : BitVec 4) (q : BitVec 1) (t : BitVec 3) (d : BitVec 5) (a : BitVec 5) (b : BitVec 5)
  /-- R138. Rotate elements by an amount. -/
  | vrot (g : BitVec 4) (q : BitVec 1) (t : BitVec 3) (d : BitVec 5) (a : BitVec 5) (n : BitVec 5)
  /-- R138. Slide elements down by one. -/
  | vsld (g : BitVec 4) (q : BitVec 1) (t : BitVec 3) (d : BitVec 5) (a : BitVec 5) (b : BitVec 5)
  /-- R138. Interleave even elements of two registers. -/
  | vtrn (g : BitVec 4) (q : BitVec 1) (t : BitVec 3) (d : BitVec 5) (a : BitVec 5) (b : BitVec 5)
  /-- R139. Compress selected elements in place and count them. -/
  | vcmpr (g : BitVec 4) (q : BitVec 1) (t : BitVec 3) (d : BitVec 5) (m : BitVec 4) (s : BitVec 5)
  /-- R139. Expand elements into selected positions. -/
  | vexpd (g : BitVec 4) (q : BitVec 1) (t : BitVec 3) (d : BitVec 5) (a : BitVec 5) (m : BitVec 4)
  /-- R140. Exact sum reduction. -/
  | vradd (g : BitVec 4) (q : BitVec 1) (t : BitVec 3) (d : BitVec 5) (a : BitVec 5)
  /-- R140. Maximum reduction. -/
  | vrmax (g : BitVec 4) (q : BitVec 1) (t : BitVec 3) (d : BitVec 5) (a : BitVec 5)
  /-- R140. Minimum reduction. -/
  | vrmin (g : BitVec 4) (q : BitVec 1) (t : BitVec 3) (d : BitVec 5) (a : BitVec 5)
  /-- R140. Largest-magnitude reduction. -/
  | vramax (g : BitVec 4) (q : BitVec 1) (t : BitVec 3) (d : BitVec 5) (a : BitVec 5)
  /-- R141. Exact prefix sums. -/
  | vscan (g : BitVec 4) (q : BitVec 1) (t : BitVec 3) (d : BitVec 5) (a : BitVec 5)
  /-- R142. Count set lane-predicate elements. -/
  | vrcnt (g : BitVec 4) (q : BitVec 1) (t : BitVec 3) (d : BitVec 5) (qa : BitVec 4)
  /-- R143. Push a nonzero-element condition word to the queue. -/
  | vcw (g : BitVec 4) (q : BitVec 1) (t : BitVec 3) (a : BitVec 5)
  /-- R144. Elementwise power of two. -/
  | vexp2 (g : BitVec 4) (q : BitVec 1) (t : BitVec 3) (d : BitVec 5) (a : BitVec 5)
  /-- R144. Elementwise base-2 logarithm. -/
  | vlog2 (g : BitVec 4) (q : BitVec 1) (t : BitVec 3) (d : BitVec 5) (a : BitVec 5)
  /-- R144. Elementwise reciprocal. -/
  | vrcp (g : BitVec 4) (q : BitVec 1) (t : BitVec 3) (d : BitVec 5) (a : BitVec 5)
  /-- R144. Elementwise reciprocal square root. -/
  | vrsq (g : BitVec 4) (q : BitVec 1) (t : BitVec 3) (d : BitVec 5) (a : BitVec 5)
  /-- R144. Elementwise square root. -/
  | vsqrt (g : BitVec 4) (q : BitVec 1) (t : BitVec 3) (d : BitVec 5) (a : BitVec 5)
  /-- R144. Elementwise hyperbolic tangent. -/
  | vtanh (g : BitVec 4) (q : BitVec 1) (t : BitVec 3) (d : BitVec 5) (a : BitVec 5)
  /-- R144. Elementwise sigmoid. -/
  | vsigm (g : BitVec 4) (q : BitVec 1) (t : BitVec 3) (d : BitVec 5) (a : BitVec 5)
  /-- R144. Elementwise sine. -/
  | vsin (g : BitVec 4) (q : BitVec 1) (t : BitVec 3) (d : BitVec 5) (a : BitVec 5)
  /-- R144. Elementwise cosine. -/
  | vcos (g : BitVec 4) (q : BitVec 1) (t : BitVec 3) (d : BitVec 5) (a : BitVec 5)
  /-- R145. Stateless counter-based random draw per element. -/
  | vrng (g : BitVec 4) (q : BitVec 1) (t : BitVec 3) (d : BitVec 5) (a : BitVec 5) (b : BitVec 5)
  /-- R146. Indices of the k largest elements. -/
  | vtopk (g : BitVec 4) (q : BitVec 1) (t : BitVec 3) (d : BitVec 5) (a : BitVec 5) (k : BitVec 5)
  /-- R147. Scale f32 elements by row and column scales. -/
  | vscale (g : BitVec 4) (q : BitVec 1) (t : BitVec 3) (d : BitVec 5) (a : BitVec 5) (j : BitVec 2)
  /-- R147. Quantize f32 elements by row and column scales. -/
  | vqnt (g : BitVec 4) (q : BitVec 1) (t : BitVec 3) (d : BitVec 5) (a : BitVec 5) (j : BitVec 2)
  /-- R147. Dequantize elements to f32 by scales. -/
  | vdq (g : BitVec 4) (q : BitVec 1) (t : BitVec 3) (d : BitVec 5) (a : BitVec 5) (j : BitVec 2)
  /-- R148. Look up 4-bit codes in a 16-entry table. -/
  | vlut (g : BitVec 4) (q : BitVec 1) (t : BitVec 3) (d : BitVec 5) (a : BitVec 5) (b : BitVec 5)
  /-- R167. Queue a matrix multiply-accumulate into a tile chain. -/
  | mma (g : BitVec 4) (t : BitVec 8) (a : BitVec 6) (b : BitVec 6)
  /-- R167. Queue a multiply that opens a chain with no accumulator input. -/
  | mmaz (g : BitVec 4) (t : BitVec 8) (a : BitVec 6) (b : BitVec 6)
  /-- R167. Queue a negated multiply-accumulate. -/
  | mman (g : BitVec 4) (t : BitVec 8) (a : BitVec 6) (b : BitVec 6)
  /-- R168. Queue a tile load from the core scratchpad. -/
  | mlda (g : BitVec 4) (t : BitVec 8) (a : BitVec 6)
  /-- R168. Queue a tile store to the core scratchpad. -/
  | msta (g : BitVec 4) (t : BitVec 8) (a : BitVec 6)
  /-- R169. Start a drain of a tile or tile pair into the latch. -/
  | mdrn (g : BitVec 4) (t : BitVec 8) (p : BitVec 1)
  /-- R168. Queue zeroing of a tile. -/
  | mzero (g : BitVec 4) (t : BitVec 8)
  /-- R170. Close the open chain and end a batch. -/
  | mcommit (g : BitVec 4)
  /-- R172. Wait until at most n closed batches are incomplete. -/
  | mwaitb (g : BitVec 4) (n : BitVec 4)
  /-- R172. Wait until a named batch is complete. -/
  | mwaitbId (g : BitVec 4) (a : BitVec 6)
  /-- R173. Close a chain on a tile and sample its status, optionally clearing sticky bits. -/
  | mwm (g : BitVec 4) (d : BitVec 6) (t : BitVec 8) (c : BitVec 1)
  /-- R174. Put a granted bank in M mode. -/
  | banklendM (g : BitVec 4) (a : BitVec 6)
  /-- R174. Put a granted bank in V mode. -/
  | banklendV (g : BitVec 4) (a : BitVec 6)
  /-- R174. Return a granted bank to the region pool. -/
  | banklendRel (g : BitVec 4) (a : BitVec 6)
  /-- R174. Take a pool bank in M mode, zeroed. -/
  | banklendAcq (g : BitVec 4) (a : BitVec 6)
  /-- R175. Load a scale register from the core scratchpad. -/
  | scld (g : BitVec 4) (k : BitVec 3) (a : BitVec 6)
  /-- R176. Set the default matrix format. -/
  | mcfg (g : BitVec 4) (f : BitVec 5)
  /-- R177. Set the edge extents for later MMAs. -/
  | medge (g : BitVec 4) (a : BitVec 6)
  /-- R198. Load a sign-extended byte through a handle. -/
  | ldgB (g : BitVec 4) (q : BitVec 1) (d : BitVec 6) (h : BitVec 4) (x : BitVec 6) (m : BitVec 2)
  /-- R198. Load a zero-extended byte through a handle. -/
  | ldgBn (g : BitVec 4) (q : BitVec 1) (d : BitVec 6) (h : BitVec 4) (x : BitVec 6) (m : BitVec 2)
  /-- R198. Load a sign-extended halfword through a handle. -/
  | ldgH (g : BitVec 4) (q : BitVec 1) (d : BitVec 6) (h : BitVec 4) (x : BitVec 6) (m : BitVec 2)
  /-- R198. Load a zero-extended halfword through a handle. -/
  | ldgHn (g : BitVec 4) (q : BitVec 1) (d : BitVec 6) (h : BitVec 4) (x : BitVec 6) (m : BitVec 2)
  /-- R198. Load a sign-extended word through a handle. -/
  | ldgW (g : BitVec 4) (q : BitVec 1) (d : BitVec 6) (h : BitVec 4) (x : BitVec 6) (m : BitVec 2)
  /-- R198. Load a zero-extended word through a handle. -/
  | ldgWn (g : BitVec 4) (q : BitVec 1) (d : BitVec 6) (h : BitVec 4) (x : BitVec 6) (m : BitVec 2)
  /-- R198. Load a doubleword through a handle. -/
  | ldgD (g : BitVec 4) (q : BitVec 1) (d : BitVec 6) (h : BitVec 4) (x : BitVec 6) (m : BitVec 2)
  /-- R198. Store a byte through a handle. -/
  | stgB (g : BitVec 4) (d : BitVec 6) (h : BitVec 4) (x : BitVec 6) (m : BitVec 2)
  /-- R198. Store a halfword through a handle. -/
  | stgH (g : BitVec 4) (d : BitVec 6) (h : BitVec 4) (x : BitVec 6) (m : BitVec 2)
  /-- R198. Store a word through a handle. -/
  | stgW (g : BitVec 4) (d : BitVec 6) (h : BitVec 4) (x : BitVec 6) (m : BitVec 2)
  /-- R198. Store a doubleword through a handle. -/
  | stgD (g : BitVec 4) (d : BitVec 6) (h : BitVec 4) (x : BitVec 6) (m : BitVec 2)
  /-- R198. Load 128 bytes through a handle into a vector register. -/
  | vldg (g : BitVec 4) (q : BitVec 1) (d : BitVec 6) (h : BitVec 4) (x : BitVec 6) (m : BitVec 2)
  /-- R198. Store a vector register through a handle. -/
  | vstg (g : BitVec 4) (d : BitVec 6) (h : BitVec 4) (x : BitVec 6) (m : BitVec 2)
  /-- R199. Load 64 bits from the core scratchpad. -/
  | ldS (g : BitVec 4) (q : BitVec 1) (d : BitVec 6) (o : BitVec 4) (x : BitVec 6) (m : BitVec 2)
  /-- R199. Store 64 bits to the core scratchpad. -/
  | stS (g : BitVec 4) (d : BitVec 6) (o : BitVec 4) (x : BitVec 6) (m : BitVec 2)
  /-- R199. Load a vector from the core scratchpad. -/
  | vldS (g : BitVec 4) (q : BitVec 1) (d : BitVec 6) (o : BitVec 4) (x : BitVec 6) (m : BitVec 2)
  /-- R199. Store a vector to the core scratchpad. -/
  | vstS (g : BitVec 4) (d : BitVec 6) (o : BitVec 4) (x : BitVec 6) (m : BitVec 2)
  /-- R199. Load a vector from cluster-shared memory. -/
  | vldC (g : BitVec 4) (q : BitVec 1) (d : BitVec 6) (o : BitVec 4) (x : BitVec 6) (m : BitVec 2)
  /-- R199. Store a vector to cluster-shared memory. -/
  | vstC (g : BitVec 4) (d : BitVec 6) (o : BitVec 4) (x : BitVec 6) (m : BitVec 2)
  /-- R199. Load a vector from the chip scratchpad. -/
  | vldX (g : BitVec 4) (q : BitVec 1) (d : BitVec 6) (o : BitVec 4) (x : BitVec 6) (m : BitVec 2)
  /-- R199. Store a vector to the chip scratchpad. -/
  | vstX (g : BitVec 4) (d : BitVec 6) (o : BitVec 4) (x : BitVec 6) (m : BitVec 2)
  /-- R200. Load 32 bytes per lane group from lane-private memory. -/
  | vldL (g : BitVec 4) (q : BitVec 1) (d : BitVec 6) (o : BitVec 4) (x : BitVec 6) (m : BitVec 2)
  /-- R200. Store 32 bytes per lane group to lane-private memory. -/
  | vstL (g : BitVec 4) (d : BitVec 6) (o : BitVec 4) (x : BitVec 6) (m : BitVec 2)
  /-- R201. Gather elements from the core scratchpad. -/
  | vgthS (g : BitVec 4) (q : BitVec 1) (d : BitVec 6) (i : BitVec 4) (x : BitVec 6) (e : BitVec 2)
  /-- R201. Scatter elements to the core scratchpad. -/
  | vsctS (g : BitVec 4) (d : BitVec 6) (i : BitVec 4) (x : BitVec 6) (e : BitVec 2)
  /-- R201. Gather elements from lane-private memory. -/
  | vgthL (g : BitVec 4) (q : BitVec 1) (d : BitVec 6) (i : BitVec 4) (x : BitVec 6) (e : BitVec 2)
  /-- R201. Scatter elements to lane-private memory. -/
  | vsctL (g : BitVec 4) (d : BitVec 6) (i : BitVec 4) (x : BitVec 6) (e : BitVec 2)
  /-- R203. Write one column of a B-operand buffer in plane layout. -/
  | plst (g : BitVec 4) (v : BitVec 6) (c : BitVec 4) (x : BitVec 6)
  /-- R202. Load a row of a V-mode lendable bank. -/
  | vldb (g : BitVec 4) (q : BitVec 1) (d : BitVec 6) (o : BitVec 4) (x : BitVec 6) (m : BitVec 2)
  /-- R202. Store a row of a V-mode lendable bank. -/
  | vstb (g : BitVec 4) (d : BitVec 6) (o : BitVec 4) (x : BitVec 6) (m : BitVec 2)
  /-- R186. Translate a virtual address into a handle, optionally bound to a window. -/
  | xlt (g : BitVec 4) (w : BitVec 1) (h : BitVec 4) (x : BitVec 6)
  /-- R187. Make a handle empty. -/
  | hdrop (g : BitVec 4) (h : BitVec 4)
  /-- R205. Atomic add. -/
  | aadd (g : BitVec 4) (d : BitVec 6) (h : BitVec 4) (x : BitVec 6) (s : BitVec 2)
  /-- R205. Atomic and. -/
  | aand (g : BitVec 4) (d : BitVec 6) (h : BitVec 4) (x : BitVec 6) (s : BitVec 2)
  /-- R205. Atomic or. -/
  | aor (g : BitVec 4) (d : BitVec 6) (h : BitVec 4) (x : BitVec 6) (s : BitVec 2)
  /-- R205. Atomic exclusive or. -/
  | axor (g : BitVec 4) (d : BitVec 6) (h : BitVec 4) (x : BitVec 6) (s : BitVec 2)
  /-- R205. Atomic signed minimum. -/
  | amin (g : BitVec 4) (d : BitVec 6) (h : BitVec 4) (x : BitVec 6) (s : BitVec 2)
  /-- R205. Atomic signed maximum. -/
  | amax (g : BitVec 4) (d : BitVec 6) (h : BitVec 4) (x : BitVec 6) (s : BitVec 2)
  /-- R205. Atomic unsigned minimum. -/
  | aminn (g : BitVec 4) (d : BitVec 6) (h : BitVec 4) (x : BitVec 6) (s : BitVec 2)
  /-- R205. Atomic unsigned maximum. -/
  | amaxn (g : BitVec 4) (d : BitVec 6) (h : BitVec 4) (x : BitVec 6) (s : BitVec 2)
  /-- R205. Atomic swap. -/
  | aswp (g : BitVec 4) (d : BitVec 6) (h : BitVec 4) (x : BitVec 6) (s : BitVec 2)
  /-- R205. Atomic compare-and-swap. -/
  | acas (g : BitVec 4) (d : BitVec 6) (h : BitVec 4) (x : BitVec 6) (s : BitVec 2)
  /-- R205. Atomic f32 add. -/
  | afadd (g : BitVec 4) (d : BitVec 6) (h : BitVec 4) (x : BitVec 6) (s : BitVec 2)
  /-- R217. Bind or unbind a hatch to a region. -/
  | hbind (g : BitVec 4) (h : BitVec 4) (x : BitVec 6) (d : BitVec 6)
  /-- R218. Request an exclusive hatch holding. -/
  | hacqX (g : BitVec 4) (h : BitVec 4) (x : BitVec 6) (d : BitVec 6)
  /-- R218. Request a shared hatch holding. -/
  | hacqS (g : BitVec 4) (h : BitVec 4) (x : BitVec 6) (d : BitVec 6)
  /-- R219. Release a hatch holding, publishing writes when exclusive. -/
  | hrel (g : BitVec 4) (h : BitVec 4) (x : BitVec 6) (d : BitVec 6)
  /-- R222. Release fence at a scope. -/
  | fenceRel (g : BitVec 4) (s : BitVec 2)
  /-- R222. Acquire fence at a scope. -/
  | fenceAcq (g : BitVec 4) (s : BitVec 2)
  /-- R222. Release then acquire fence at a scope. -/
  | fenceAr (g : BitVec 4) (s : BitVec 2)
  /-- R300. Arrive at a barrier after a release, returning the phase. -/
  | bara (g : BitVec 4) (d : BitVec 6) (a : BitVec 6)
  /-- R300. Wait for a barrier phase to move, then acquire. -/
  | barw (g : BitVec 4) (a : BitVec 6) (b : BitVec 6)
  /-- R245. Wait for an engine context's timeline to reach a value. -/
  | tlwait (g : BitVec 4) (e : BitVec 3) (b : BitVec 6)
  /-- R246. Read an engine context's timeline counter. -/
  | tlrd (g : BitVec 4) (d : BitVec 6) (e : BitVec 3)
  /-- R246. Read an engine context's status word. -/
  | tlrdSt (g : BitVec 4) (d : BitVec 6) (e : BitVec 3)
  /-- R246. Read and clear an engine context's status word. -/
  | tlrdStc (g : BitVec 4) (d : BitVec 6) (e : BitVec 3)
  /-- R244. Wait until all masked arrival tags are set. -/
  | tagw (g : BitVec 4) (a : BitVec 6)
  /-- R244. Clear masked arrival tags. -/
  | tagffC (g : BitVec 4) (a : BitVec 6)
  /-- R244. Set masked arrival tags. -/
  | tagffS (g : BitVec 4) (a : BitVec 6)
  /-- R233. Read and check a copy descriptor and accept a copy-engine operation. -/
  | cpy (g : BitVec 4) (d : BitVec 6) (a : BitVec 6)
  /-- R248. Read and check an MVX descriptor and accept a matrix-vector operation. -/
  | mvx (g : BitVec 4) (d : BitVec 6) (a : BitVec 6)
  /-- R303. Release and push a value to a hardware queue. -/
  | qpush (g : BitVec 4) (d : BitVec 6) (a : BitVec 6) (b : BitVec 6)
  /-- R304. Pop a hardware-queue entry, waiting while empty. -/
  | qpop (g : BitVec 4) (d : BitVec 6) (a : BitVec 6)
  /-- R267. Open a speculative window from a descriptor. -/
  | wopen (g : BitVec 4) (d : BitVec 6) (h : BitVec 4) (x : BitVec 6)
  /-- R273. Commit the masked positions of a window and discard the rest. -/
  | wcommit (g : BitVec 4) (d : BitVec 6) (a : BitVec 6) (b : BitVec 6)
  /-- R275. Discard every position of a window and keep it open. -/
  | wabortK (g : BitVec 4) (a : BitVec 6)
  /-- R275. Discard every position of a window and close it. -/
  | wabortF (g : BitVec 4) (a : BitVec 6)
  /-- R263. Install a peephole entry from a descriptor. -/
  | pwatchI (g : BitVec 4) (d : BitVec 6) (h : BitVec 4) (x : BitVec 6)
  /-- R264. Re-arm a peephole entry, optionally with a new limit. -/
  | pwatchR (g : BitVec 4) (d : BitVec 6) (x : BitVec 6)
  /-- R264. Return a peephole entry's status word. -/
  | pwatchQ (g : BitVec 4) (d : BitVec 6) (x : BitVec 6)
  /-- R265. Free a peephole entry. -/
  | pdrop (g : BitVec 4) (d : BitVec 6) (x : BitVec 6)
  /-- R334. Release and queue a sampling job for a slot's stream. -/
  | smpq (g : BitVec 4) (d : BitVec 6) (a : BitVec 6) (b : BitVec 6)
  /-- R335. Test a slot's token-ready flag, acquiring when set. -/
  | tokrdy (g : BitVec 4) (p : BitVec 4) (a : BitVec 6)
  /-- R336. Post a sampling job's token to its slot and set RDY when no job remains. -/
  | tokrdyS (g : BitVec 4) (a : BitVec 6) (b : BitVec 6)
  /-- R380. Raise USER_TRAP after the bundle issues. -/
  | trap (g : BitVec 4) (a : BitVec 6) (n : BitVec 6)
  /-- R381. Read a system register. -/
  | mfs (g : BitVec 4) (d : BitVec 6) (r : BitVec 6)
  /-- R381. Write a writable system register. -/
  | mts (g : BitVec 4) (r : BitVec 6) (a : BitVec 6)
  /-- R407. Append a trace record to the core's FIFO. -/
  | trace (g : BitVec 4) (a : BitVec 6) (n : BitVec 6)
  /-- R408. Raise DEBUG when the breakpoint is armed and consented. -/
  | brkpt (g : BitVec 4) (n : BitVec 6)
  /-- R382. Wait until TIME reaches a value. -/
  | idle (g : BitVec 4) (a : BitVec 6)
  /-- R322. Return an energy item such as balance, grant or allowance. -/
  | budq (g : BitVec 4) (d : BitVec 6) (i : BitVec 6)
  /-- R322. Return the partition's cost of an energy class. -/
  | budqCcost (g : BitVec 4) (d : BitVec 6) (b : BitVec 6)
  /-- R323. Return the task's joule counter. -/
  | jrd (g : BitVec 4) (d : BitVec 6)
  /-- R323. Return the task's LPDDR-6 line count. -/
  | jrdL (g : BitVec 4) (d : BitVec 6)
  /-- R324. Return and clear THROT, acknowledging a pending clock reduction. -/
  | thack (g : BitVec 4) (d : BitVec 6)
  /-- R268. Set the current window and position and record its parent. -/
  | wpos (g : BitVec 4) (a : BitVec 6) (b : BitVec 6) (c : BitVec 6)
  /-- R272. Take a page from the window's list, tagged with the current position. -/
  | walloc (g : BitVec 4) (d : BitVec 6) (a : BitVec 6)
  /-- R329. Enter a batching-slot request and/or mark a stream boundary. -/
  | btset (g : BitVec 4) (d : BitVec 6) (a : BitVec 6) (b : BitVec 6)
  /-- R331. Read a word of a batching slot. -/
  | btrd (g : BitVec 4) (d : BitVec 6) (a : BitVec 6) (w : BitVec 2)
  /-- R339. Merge candidate paths into a de-duplicated node table. -/
  | strn (g : BitVec 4) (d : BitVec 6) (a : BitVec 6) (b : BitVec 6)
  /-- R340. Expand a node table into attention masks and query rows. -/
  | lexp (g : BitVec 4) (d : BitVec 6) (a : BitVec 6) (b : BitVec 6)
  /-- R337. Wait for a ready word or a deadline. -/
  | dlbar (g : BitVec 4) (p : BitVec 6) (h : BitVec 4) (b : BitVec 6)
  deriving DecidableEq, Repr

end Sys2Proof
end

