-- ==== Sys2Proof/Machine/State.lean ====
section
/-! DEFINITION. The state of the TLX-40 as plain data: everything the spec gives the machine, what an event or an
instruction can leave behind, and the machine right after module reset.

Numbers that software never shifts or masks as a word (counts, indexes, addresses once computed) are `Nat`; registers
are bit vectors. A map lists keys in rising order. -/

namespace Sys2Proof.Machine

/-! ### Registers, faults and results in flight -/

/-- A register that a result can be written to, or an operand read from. A predicate is named by its pair (R25). -/
inductive Reg where
  | s (n : Nat) | p (pair : Nat) | q (pair : Nat) | v (n : Nat) | k (n : Nat) | h (n : Nat)
  | tile (n : Nat) | cwq | none
  deriving DecidableEq, Repr

/-- A fault as its trap record will tell it (R367, R368): code, slot mask, AUX, virtual address, OBJ, the bundle it
names, and whether it was deferred. -/
structure Trap where
  code : Nat
  mask : Nat := 0
  aux : Nat := 0
  va : Nat := 0
  obj : Nat := 0
  pc : Nat := 0
  deferred : Bool := false
  deriving DecidableEq, Repr

/-- A fixed-latency result in flight (R58): where it lands, the bits of the register it writes, the flags it sets, the
cycles left (0 lands at the end of this cycle), its Q bit, and its place in issue order. -/
structure Flight where
  reg : Reg
  mask : BitVec 1024
  val : BitVec 1024
  fl : Nat
  left : Nat
  squash : Bool
  seq : Nat
  deriving DecidableEq, Repr

/-- A fault held with a load's destination until it is raised (R65, R197). -/
structure Deferred where
  seq : Nat
  reg : Reg
  squash : Bool
  trap : Trap
  deriving DecidableEq, Repr

/-- A handle register (R27, R184). `watched` and `rdup` are the leaf's marks, which the access needs (R190, R230);
`fault` is the code of a walk's fault held with it; `pending` says that its walk is in progress; a handle that a shutter
revoked is `revoked`, and `sought` once an access waits at it (R362). -/
structure Handle where
  valid : Bool := false
  pending : Bool := false
  perm : BitVec 2 := 0
  size : BitVec 2 := 0
  base : BitVec 48 := 0
  va : BitVec 57 := 0
  bind : BitVec 13 := 0
  gen : BitVec 8 := 0
  watched : Bool := false
  rdup : Bool := false
  fault : Nat := 0
  revoked : Bool := false
  sought : Bool := false
  deriving DecidableEq, Repr

/-- The outcome of a walk (R186, R357): a leaf, or the code of the fault it ends in. -/
structure Leaf where
  va : Nat
  frame : Nat
  size : Nat
  perm : Nat
  wel : Bool
  watched : Bool
  rdup : Bool
  deriving DecidableEq, Repr

/-- A handle that XLT will land (R60): its number, the cycles left, and the handle. -/
structure HandleFlight where
  h : Nat
  left : Nat
  handle : Handle
  deriving DecidableEq, Repr

/-! ### Variable-latency work -/

/-- The levels of R179 that are reached by interlocked accesses. -/
inductive Level where
  | cluster | chip
  deriving DecidableEq, Repr

/-- How loaded bytes become a register's value. -/
inductive LoadAs where
  | signed (n : Nat) | unsigned (n : Nat) | vector
  deriving DecidableEq, Repr

/-- The atomics of R205. -/
inductive AtomOp where
  | add | and | or | xor | min | max | minn | maxn | swp | cas | fadd
  deriving DecidableEq, Repr

/-- Agents' scopes (R209). -/
inductive Scope where
  | core | clu | dev | sys
  deriving DecidableEq, Repr

/-- Where a global access goes: its physical address, the virtual address a fault would name, the handle's index and
generation as a record's OBJ names them, its marks, the window binding it carries, the position the access was issued
at in that window, 64 meaning none, and the size code of the handle's page (R360). -/
structure Place where
  pa : Nat
  va : Nat
  z : Nat
  watched : Bool
  rdup : Bool
  bind : Nat
  cur : Nat
  size : Nat := 0
  deriving DecidableEq, Repr

/-- A unit operation whose result is interlocked: what the unit is asked, with the operands read at issue. -/
inductive UnitOp where
  | bara (barrier : Nat)
  | qpush (queue value : Nat)
  | qpop (queue : Nat) (got : Option Nat)
  | tlrd (e mode : Nat)
  | dlbar (ready : Bool)
  | hrel (p : Place) (exclusive : Bool)
  | wcommit (w mask : Nat)
  | pwatchR (e limit : Nat)
  | pwatchQ (e : Nat)
  | pdrop (e : Nat)
  | smpq (logits slot : Nat)
  | tokrdy (slot : Nat)
  | tokrdyS (slot token : Nat)
  | btset (slot req datum : Nat)
  | btrd (slot word : Nat)
  | strn (a b : Nat)
  | lexp (a b : Nat)
  | jrd (lines : Bool)
  | budq (item arg : Nat)
  | thack
  deriving DecidableEq, Repr

/-- What a piece of variable-latency work does when it is performed (R54, R57). -/
inductive WorkKind where
  /-- A value fixed at issue (R122). -/
  | value (v : BitVec 1024) (fl : Nat)
  /-- A value that lands `left` cycles on, whether or not its context owns issue (R233). -/
  | timed (v : BitVec 1024) (left : Nat)
  /-- A load whose fault is deferred: it brings no data (R65). -/
  | faulted
  | gload (p : Place) (as : LoadAs)
  | gstore (p : Place) (n v : Nat)
  | levelLoad (l : Level) (a : Nat)
  | levelStore (l : Level) (a v : Nat)
  | atomic (op : AtomOp) (sc : Scope) (p : Place) (operand cmp : Nat)
  | unit (u : UnitOp)
  deriving DecidableEq, Repr

/-- Variable-latency work of a context: its place in issue order, its destination (whose pending bit it holds, R57),
what it does, its Q bit, and the bundle and slot it came from. -/
structure Work where
  id : Nat
  reg : Reg
  kind : WorkKind
  squash : Bool
  pc : Nat
  slot : Nat
  deriving DecidableEq, Repr

/-! ### The matrix side of a context and a core -/

/-- The edge extents of R163 and R177; `kext` 0 means full. -/
structure Edge where
  rows : Nat := 32
  cols : Nat := 16
  kext : Nat := 0
  deriving DecidableEq, Repr

/-- The operation of a matrix-queue entry (R154). -/
inductive MOp where
  | mma (neg : Bool) | mlda | msta | mzero | mcommit
  deriving DecidableEq, Repr

/-- An entry of a matrix queue (R154): the context, operation, tile, operand addresses, format, planes, edge extents, the
batch that will cover it, the chain it belongs to and whether it opens it (with or without an accumulator input), and
the cycle it was issued in. -/
structure MEntry where
  ctx : Nat
  op : MOp
  tile : Nat
  a : Nat
  b : Nat
  fmt : Nat
  planes : Nat
  edge : Edge
  batch : Nat
  chain : Nat
  opens : Bool
  zero : Bool
  seq : Nat
  cycle : Nat
  deriving DecidableEq, Repr

/-- The exact accumulator of one tile element (R158): the sum of its finite terms, in units of 2^-320 for a float format
and of 1 for an integer one; whether it has a term and whether every term is a negative zero; the special terms met; and
whether the element is unmasked in some entry. -/
structure Acc where
  sum : Int := 0
  any : Bool := false
  allNeg : Bool := true
  nan : Bool := false
  bad : Bool := false
  pinf : Bool := false
  ninf : Bool := false
  live : Bool := false
  deriving DecidableEq, Repr

/-- A chain in the array (R155, R157): its context (partition * 8 + CTXID, for a chain stays parked across a swap), number,
tile, format and batch, the place of its last entry in issue order, its accumulators in row order, poison met, and whether
it is parked. -/
structure Chain where
  ctx : Nat
  id : Nat
  seq : Nat
  tile : Nat
  fmt : Nat
  batch : Nat
  accs : List Acc
  poison : Bool
  parked : Bool
  deriving DecidableEq, Repr

/-- The writing of a tile's rows, four a cycle (R156, R160): the rows already final, the cycles until it begins, the batch
and place in issue order, and the sticky bits set when it ends (R159). -/
structure TileWrite where
  ctx : Nat
  tile : Nat
  rows : Nat
  wait : Nat
  batch : Nat
  seq : Nat
  tof : Bool
  tnv : Bool
  deriving DecidableEq, Repr

/-- A drain in progress (R164). -/
structure Drain where
  tile : Nat
  pair : Bool
  next : Nat
  deriving DecidableEq, Repr

/-- An entry of the operand guard (R162): the work that holds it, its range, and whether it is a write range. -/
structure Guarded where
  seq : Nat
  lo : Nat
  size : Nat
  write : Bool
  deriving DecidableEq, Repr

/-- A lendable bank (R165): the region (partition * 4096 + region) whose pool it was taken from, the context it is granted
to (partition * 8 + CTXID), and whether it is in V mode. -/
structure Bank where
  region : Nat
  ctx : Nat
  vmode : Bool
  deriving DecidableEq, Repr

/-- The array of a core (R154–R156, R318, R319): the entry it runs, the cycles left of it and done, the context it serves,
the cycle after its last plane work, whether it was granted a start, whether it runs filler, and cycles spent parking. -/
structure Array where
  cur : Option MEntry := none
  left : Nat := 0
  done : Nat := 0
  serve : Nat := 0
  planeEnd : Nat := 0
  granted : Bool := false
  filler : Bool := false
  moving : Bool := false
  busy : Nat := 0
  deriving DecidableEq, Repr

/-! ### A context -/

/-- An active loop level (R28, R74); `links` are its stride links, each its number, register
and stride; `opener` is the PC of the
bundle that opened it (R409). A level that has closed below an active one keeps its place, marked `off` (R75). -/
structure Loop where
  count : Nat
  trip : Nat
  first : Nat
  last : Nat
  stages : Nat
  links : List (Nat × Nat × Nat)
  brk : Bool
  opener : Nat
  off : Bool := false
  deriving DecidableEq, Repr

/-- Whether a context runs (R52, R55, R71, R369, R371, R377, R411): `free` holds no task; `waiting` is held at a blocking
wait; `frozen` waits for its fault to be handled; `halted` for a debugger; `swapped` for its partition's turn; `stopped`
with its partition; `ending` has met END. A context that only lost issue stays `ready`. -/
inductive Status where
  | free | ready | waiting | frozen | halted | swapped | stopped | ending
  deriving DecidableEq, Repr

/-- What the bundles after a fence-like bundle wait for (R218, R219, R222, R304, R336, R245): the work of a fence of a kind
(0 release, 1 acquire, 2 both) and scope; the rest of a hatch acquisition; the record of an engine context; or a piece of
work of the context. -/
inductive Hold where
  | fence (kind : Nat) (scope : Scope)
  | hatch (p : Place) (exclusive : Bool)
  | tlwait (e n : Nat)
  | work (id : Nat)
  deriving DecidableEq, Repr

/-- What a waiting context waits for (R52). -/
inductive Wait where
  | mwaitb (n : Nat) | mwaitbId (n : Nat) | tlwait (e n : Nat) | tagw (mask : Nat) | barw (barrier phase : Nat)
  | qpop (queue : Nat) | hacq (p : Place) (exclusive : Bool) | dlbar (p : Place) (expect deadline : Nat)
  | dlbarDone (p : Place) (ready : Bool) | idle (t : Nat)
  deriving DecidableEq, Repr

/-- A yield point that a TRAP or breakpoint in its bundle put off until the context resumes (R380). -/
inductive Due where
  | none | yield | yieldC | stop
  deriving DecidableEq, Repr

/-- A hardware context (R24–R29). `p` and `q` hold the even members; the odd ones are their complements (R25). `batch`
numbers the batches a context has closed and never restarts; BATCH counts from `batch0`, modulo 2^32 (R161, R70). A branch target awaits its delay bundle in `branch`, with whether it
closes the levels it leaves (R66, R76). `cont` says that the context stands at a continuation point (R70); `giving` are the
banks it returns once its matrix work is complete (R165). `wreq` and `wack` are a window store held out and accepted (R269);
`stall` counts the cycles its bundle has stalled (R387), `preStall` those of a descriptor read (R234). `called` says of a
gang's context that its turn has come on its core and waits for the other ranks' (R53, R292). `iterEnd` says that its last bundle ended an iteration of level 0
(R411). -/
structure Ctx where
  status : Status := .free
  s : Map Word := []
  p : BitVec 6 := 0
  q : Map QWord := []
  v : Map VWord := []
  k : Map VWord := []
  h : Map Handle := []
  pc : BitVec 57 := 0
  branch : Option (BitVec 57 × Bool) := none
  cont : Bool := false
  giving : List Nat := []
  iterEnd : Bool := false
  loops : List Loop := []
  cwq : List Word := []
  batch : Nat := 0
  batch0 : Nat := 0
  fflags : BitVec 32 := 0
  mfmt : BitVec 5 := 0
  edge : Edge := {}
  drain : Option Drain := none
  latch : BitVec 1024 := 0
  latchRow : Nat := 0
  flights : List Flight := []
  snap : List Flight := []
  hflights : List HandleFlight := []
  works : List Work := []
  deferred : List Deferred := []
  hold : List Hold := []
  wait : Option Wait := none
  mq : List MEntry := []
  mopen : Option (Nat × Nat × Nat) := none
  trap : Map Word := []
  throt : BitVec 64 := 0
  curw : Option Nat := none
  curp : Nat := 0
  part : Nat := 0
  region : Nat := 0
  task : Nat := 0
  cr : Nat := 0
  spawned : Bool := false
  gang : Bool := false
  called : Bool := false
  stall : Nat := 0
  preStall : Nat := 0
  wreq : Bool := false
  wack : Bool := false
  due : Due := .none
  deriving DecidableEq, Repr

/-! ### A core -/

/-- A line of a line cache (R189): its bytes, with a valid and a dirty bit a byte, poison, and the task whose store made it
dirty last, to which its write-back is charged (R23, R315). -/
structure Line where
  val : BitVec 1024
  valid : QWord
  dirty : QWord
  poison : Bool
  task : Nat
  deriving DecidableEq, Repr

/-- A 4 KiB block of an instruction store (R290), tagged by partition and physical address; `maps` are the virtual block
addresses under which the core has fetched from it, each with the size code of its page (R360). -/
structure Block where
  part : Nat
  pa : Nat
  maps : List (Nat × Nat)
  bytes : Map Byte
  deriving DecidableEq, Repr

/-- An exclusive hatch holding (R214, R215): hatch, the region's physical range, the holder's tag, the write signature. -/
structure Holding where
  hatch : Nat
  lo : Nat
  len : Nat
  va : Nat
  tag : Nat
  sig : BitVec 512
  deriving DecidableEq, Repr

/-- A core's record of a hatch (R214). -/
structure HatchRec where
  hatch : Nat
  gen : Nat
  seq : Nat
  deriving DecidableEq, Repr

/-- A trace record (R409), as its four words. -/
structure Trace where
  w0 : Nat
  w1 : Nat
  w2 : Nat
  w3 : Nat
  deriving DecidableEq, Repr

/-- A debug block (R409–R411). `halts` are requests outstanding: context, cycle of the request. -/
structure Debug where
  fifo : List Trace := []
  ovf : Nat := 0
  brken : BitVec 64 := 0
  trgstart : BitVec 64 := 0
  trgstop : BitVec 64 := 0
  trgctl : BitVec 64 := 0
  halts : List (Nat × Nat × Nat) := []
  resumes : List Nat := []
  prof : Map Nat := []
  deriving DecidableEq, Repr

/-- The shadow store of a core (R378): the contexts of the partition swapped out, with its vector storage (tile banks), tags,
counts, guard and engine records. -/
structure Shadow where
  part : Nat
  ctxs : Map Ctx
  banks : Map Bank
  tiles : Map (BitVec 32)
  tof : List Nat
  tnv : List Nat
  badRows : List Nat
  tags : BitVec 64
  counts : Map Nat
  guard : List Guarded
  tlw : Map Nat
  deriving DecidableEq, Repr

/-- A core: tile cores 0–39 and, as 40–47, the sampler cores (R8, R15). `owner` is the context that holds issue (R52),
`rest` the cycles before another may issue (R53, R55), `held` those its last bundle is held (R181), `tnext` when its next cycle
begins; `vbusy` are the VLDB and VSTB accesses in flight, by bank with the cycles left (R165); `failed` the register entries
that fail their parity check, by context, and `residue` says that an arithmetic error has struck (R103, R383, R386). -/
structure Core where
  cycle : Nat := 0
  tnext : Nat := 0
  owner : Option Nat := none
  last : Nat := 7
  owned : Nat := 0
  rest : Nat := 0
  held : Nat := 0
  tags : BitVec 64 := 0
  counts : Map Nat := []
  scratch : Map Byte := []
  lane : Map Byte := []
  poison : List Nat := []
  banks : Map Bank := []
  vbusy : List (Nat × Nat) := []
  tiles : Map (BitVec 32) := []
  tof : List Nat := []
  tnv : List Nat := []
  badRows : List Nat := []
  chains : List Chain := []
  array : Array := {}
  writes : List TileWrite := []
  guard : List Guarded := []
  lines : Map Line := []
  tlb : Map Leaf := []
  blocks : List Block := []
  holdings : List Holding := []
  hrecs : List HatchRec := []
  tlw : Map Nat := []
  shadow : Option Shadow := none
  probe : Debug := {}
  fenced : Bool := false
  failed : List (Nat × Reg) := []
  residue : Bool := false
  deriving DecidableEq, Repr

/-! ### Memory, slices and the units beside them -/

/-- The agents of R208, as a store at a slice needs to know them (R256, R260, R315); `cache` is the line cache of a core,
whose write-backs keep no order but that of each line (R189, R211). -/
inductive Agent where
  | ctx (core ctx : Nat) | cache (core : Nat) | engine (cluster part e : Nat) | window | unit | control | host
  deriving DecidableEq, Repr

/-- A store on its way to its slice (R190, R229, R269): the bytes under a mask, its agent and the task charged; the
clusters whose replicas have yet to acknowledge; whether its bytes are poisoned (R385). -/
structure SliceStore where
  id : Nat
  pa : Nat
  n : Nat
  val : Nat
  mask : Nat
  agent : Agent
  task : Nat
  acks : List Nat
  bad : Bool := false
  deriving DecidableEq, Repr

/-- A line the system cache holds (R13, R191): the way of its superblock, whether it is dirty, and the task that last made it
so (R315). -/
structure SLine where
  way : Nat
  dirty : Bool
  task : Nat
  deriving DecidableEq, Repr

/-- A line a cluster's atomic unit holds (R224): its bytes, the mask of those updated, and the task that updated it last. -/
structure CluLine where
  cluster : Nat
  line : Nat
  val : Nat
  mask : Nat
  task : Nat
  deriving DecidableEq, Repr

/-- A virtually contiguous piece of a translated range. -/
structure Seg where
  va : Nat
  pa : Nat
  len : Nat
  deriving DecidableEq, Repr

/-- A task of a peephole entry that is held or undispatched (R257, R258): arguments, the time of its first trigger, the
lines its triggers wrote (R260), its ring slot if placed and pushed, and whether it is offered for dispatch. -/
structure PeepTask where
  va : Nat
  count : Nat
  host : Bool
  win : Bool
  first : Nat
  lines : List Nat
  slot : Option Nat
  offered : Bool
  deriving DecidableEq, Repr

/-- A peephole entry (R253–R264); FREE entries are absent. `peeps` holds entry e under e; an entry freed while its task stands
undispatched is kept for that task alone under e + 256 k, DISARMED (R265). -/
structure Peep where
  part : Nat
  region : Nat
  armed : Bool
  run : Bool
  range : List Seg
  payload : List Seg
  crt : Nat
  ring : Nat
  ringVa : Nat
  ringl : Nat
  limit : Nat
  cwin : Nat
  steepn : Nat
  next : Nat
  pend : Option PeepTask
  deriving DecidableEq, Repr

/-- An overlay line of one position (R269): bytes, those written, and those written in the recurrent-state region. -/
structure Overlay where
  val : BitVec 1024
  mask : QWord
  rs : QWord
  deriving DecidableEq, Repr

/-- A window (R266–R275). `overlay` is keyed by line * 64 + position. -/
structure Window where
  opened : Bool := false
  part : Nat := 0
  count : Nat := 0
  parents : Map Nat := []
  overlay : Map Overlay := []
  rsbase : Nat := 0
  rslen : Nat := 0
  pages : List Nat := []
  taken : List (Nat × Nat) := []
  ovl : Nat := 0
  closing : Bool := false
  deriving DecidableEq, Repr

/-- An operation of an engine context (R232): number, issuer, what it is (`mvx`), its descriptor's words and the handles
named at acceptance (source or x, destination or y, publish word, weights; an empty one where it names none), and whether it has
started; `begun` has a bit for every MVU that has taken up its part of an MVX (R355). `late` is what is left of one whose writes wait at their slices (R229): its tag, its publish word's address, and the footprints it will record. -/
structure EngineOp where
  n : Nat
  core : Nat
  ctx : Nat
  part : Nat
  task : Nat
  mvx : Bool
  desc : List Nat
  handles : List Handle
  started : Bool
  begun : Nat := 0
  late : Option (Option Nat × Option Nat × List (Nat × Nat)) := none
  deriving DecidableEq, Repr

/-- An engine context (R231, R232, R246): operations accepted, the timeline counter, the status word, operations not yet
complete, and the global destination footprints of the last 64 complete. -/
structure Engine where
  accepted : Nat := 0
  counter : Nat := 0
  status : Nat := 0
  ops : List EngineOp := []
  done : List (Nat × List (Nat × Nat)) := []
  deriving DecidableEq, Repr

/-- A hardware queue (R301). -/
structure Queue where
  part : Nat
  task : Bool
  scope : Scope
  home : Nat
  cap : Nat
  place : Nat := 0
  items : List Nat
  waiters : List (Nat × Nat)
  deriving DecidableEq, Repr

/-- A barrier (R299): the region (partition * 4096 + region) that owns it, phase and arrivals. -/
structure Barrier where
  region : Nat
  phase : Nat
  arrivals : Nat
  deriving DecidableEq, Repr

/-- A batching-table slot (R326): its words, the pending request with its datum, and whether it drains because its region was
cancelled (R343). -/
structure Slot where
  w0 : Nat := 0
  w1 : Nat := 0
  w2 : Nat := 0
  w3 : Nat := 0
  req : Nat := 0
  datum : Nat := 0
  cancelled : Bool := false
  deriving DecidableEq, Repr

/-- A sampling job (R333). -/
structure Job where
  logits : Nat
  slot : Nat
  param : Nat
  task : Nat
  part : Nat
  region : Nat
  deriving DecidableEq, Repr

/-! ### Regions, tasks, islands -/

/-- The effective fields of a region (R281) and what the dispatcher keeps for it; regions are keyed by
partition * 4096 + number. BUDREM is in nJ; `toClose` are the windows that close when LIVE reaches 0 (R343). -/
structure Region where
  rcb : Nat
  parent : Nat
  flags : Nat
  prio : Nat
  rts : Nat
  islands : Nat
  share : Nat
  contract : Nat
  budget : Nat
  faultcr : Nat
  pool : Nat
  bper : Nat
  carves : List (Nat × Nat)
  vpc : List Nat
  vcl : List Nat
  tq : Nat
  barc : Nat
  bard : Nat
  barown : Nat
  pinbase : Nat
  pinlen : Nat
  gskew : Nat
  budrem : Int
  joules : Nat
  exh : Nat
  cancel : Bool
  pinref : Bool
  eprio : Nat
  live : Nat
  ready : List Nat
  dirty : Bool
  toClose : List Nat
  deriving DecidableEq, Repr

/-- Where a task stands (R283). -/
inductive TaskState where
  | queued | running | parked | retired
  deriving DecidableEq, Repr

/-- A task (R283–R289, R312, R315): its CR, region, where it stands, the context that runs it, its energy cover and meter
in nJ without the LPDDR-6 charge, its lines moved, the islands it is held on with the time, the peephole entry or fault
report it came from, the physical ranges brought up to date when it is loaded (R260), the
hatches it holds shared, each with the core that took it (R333, R373), the CR of a task whose record firmware keeps (R372), the
TASK queue it was popped from (R375), and whether it has been loaded, so that its joule counter runs (R315). -/
structure Task where
  crVa : Nat
  crPa : Nat
  region : Nat
  state : TaskState
  cont : Bool
  variant : Nat
  cls : Nat
  aff : Nat
  core : Option Nat
  island : Nat
  cover : Int
  meter : Nat
  lines : Nat
  heldOn : Map Nat
  peep : Option Nat
  flush : List (Nat × Nat)
  domain : Bool
  kill : Bool
  shared : List (Nat × Nat)
  own : Option (List Nat)
  queue : Nat := 0
  ran : Bool := false
  deriving DecidableEq, Repr

/-- A pending clock reduction (R317). -/
structure Reduction where
  fnew : Nat
  due : Nat
  deriving DecidableEq, Repr

/-- An island's dispatcher, governor and limiter (R293–R296, R305–R320). Balance in nJ; `lines` are the LPDDR-6 lines of its
overhead in this steep (R315); `cur` is the partition it runs (R377); `reserved` is the task a reservation of each partition
holds there (R296); `due` says that a dispatch event is still to be served (R293); `persist` that the droop of the last episode has not cleared
(R320). -/
structure Island where
  deficits : Map Int := []
  served : Map Nat := []
  reserved : Map Nat := []
  due : Bool := false
  balance : Int := 0
  grant : Nat := 0
  lastGrant : Nat := 0
  ramp : List Nat := [1, 2, 2, 3, 3, 4, 4, 4]
  lam : Nat := 0
  active : Nat := 0
  capLow : Bool := false
  droopCap : Nat := 0
  filler : Nat := 0
  stretched : Nat := 0
  clk : Nat := 21
  reduce : Option Reduction := none
  episode : Nat := 0
  gap : Nat := 16
  persist : Bool := false
  episodes : Nat := 0
  gated : Bool := false
  idle : Nat := 0
  overhead : Nat := 0
  lines : Nat := 0
  slewAt : Nat := 0
  isActive : Bool := false
  cur : Option Nat := none
  deriving DecidableEq, Repr

/-- The governor (R305–R307); the thermal credit in nJ. `boundaryNs` is the TIME of
the next steep boundary; `lines` counts the LPDDR-6 lines host agents caused in this steep,
`moved` all of them (R307, R315). -/
structure Governor where
  pwrlim : Nat := 0
  therm : Nat := 0
  pwrlimNew : Nat := 0
  thermNew : Nat := 0
  credit : Int := 0
  allowance : Nat := 0
  burst : Bool := false
  steeps : Nat := 0
  boundaryNs : Nat := 50000
  overhead : Nat := 0
  energy : Nat := 0
  lines : Nat := 0
  moved : Nat := 0
  deriving DecidableEq, Repr

/-! ### The control complex, partitions and streams -/

/-- A fetched 64-byte block of a stream (R405): its level, virtual address, and the words of it that were covered. -/
structure Fetched where
  level : Nat
  va : Nat
  words : List Nat
  deriving DecidableEq, Repr

/-- An indirect buffer in execution (R405): address, length, offset of the next packet. -/
structure Buffer where
  base : Nat
  len : Nat
  pos : Nat
  deriving DecidableEq, Repr

/-- A LOOPP in progress (R405): its level, the body's offset and length, passes left, the words it fetched. -/
structure PLoop where
  level : Nat
  start : Nat
  len : Nat
  left : Nat
  words : List Nat
  deriving DecidableEq, Repr

/-- A Narenacy stream (R401–R405). `skip` packets remain to be skipped after a PRED; `wait` is the deadline of a WAITMEM in
progress, 0 for none; `created` and `reloaded` are what the packet has done so far (a region made or a store sent, an image
reloaded), and `pushing` that it waits for space in a queue. -/
structure Stream where
  base : Nat := 0
  size : Nat := 12
  en : Bool := false
  head : Nat := 0
  tail : Nat := 0
  off : Nat := 0
  lvl : Nat := 0
  reason : Nat := 0
  err : Nat := 0
  halt : Bool := false
  errva : Nat := 0
  fetched : List Fetched := []
  buffers : List Buffer := []
  loops : List PLoop := []
  skip : Nat := 0
  wait : Option Nat := none
  created : Bool := false
  reloaded : Bool := false
  pushing : Bool := false
  deriving DecidableEq, Repr

/-- A shutter in progress (R360): range, the agents whose acknowledgement is outstanding, the physical ranges of the
translations dropped, and the place in issue order up to which accesses are waited for. -/
structure ShutterRun where
  lo : Nat
  len : Nat
  all : Bool
  scrub : Bool
  agents : List Nat
  frames : List (Nat × Nat)
  cores : List Nat
  since : Nat
  deriving DecidableEq, Repr

/-- A hatch binding (R214, R217). -/
structure Binding where
  hatch : Nat
  va : Nat
  pa : Nat
  len : Nat
  deriving DecidableEq, Repr

/-- A partition (R353, R396–R399, R412). `rings` counts the reports written in each report ring (R372), by its address. -/
structure Part where
  islands : Nat
  dom : Nat
  ptroot : Nat
  carves : List (Nat × Nat)
  ways : Nat
  pins : Nat
  windows : Nat
  peeps : Nat
  slots : Nat
  streamMask : Nat
  mvuShare : Nat
  overlay : Nat
  barc : Nat
  bard : Nat
  slice : Nat
  replica : Nat × Nat
  costs : List Nat
  costsNew : Option (List Nat) := none
  stopped : Bool := false
  consent : Nat
  fsvc : Bool := false
  shva : Nat := 0
  shlen : Nat := 0
  shflags : Nat := 0
  shlost : Bool := false
  shseq : Nat := 0
  shutter : Option ShutterRun := none
  pinned : List (Nat × Nat × Nat) := []
  rings : Map Nat := []
  bindings : Map Binding := []
  refused : Nat := 0
  transient : Nat := 0
  lasting : Nat := 0
  faults : Nat := 0
  deadJoules : Nat := 0
  deriving DecidableEq, Repr

/-- Where a fault waiting for firmware stands (R371–R373). `pushed` is one whose report is written and whose fault-domain task
stands in its TASK queue: the address pushed, and the record that firmware keeps there. -/
inductive FaultStage where
  | fresh
  | driver (seq : Nat)
  | answered (resolved : Bool)
  | domain
  | pushed (report : Nat) (cr : Nat) (record : List Nat)
  | reported (report : Nat) (task : Nat)
  deriving DecidableEq, Repr

/-- A fault before firmware (R371–R375): the context frozen on it, if any, its region and record; `kettle` is the domain whose empty
kettle its walk met (R363). -/
structure FaultItem where
  core : Option Nat
  ctx : Nat
  part : Nat
  region : Nat
  code : Nat
  record : List Nat
  args : List Nat
  stage : FaultStage
  kettle : Option Nat := none
  deriving DecidableEq, Repr

/-- The stages of bring-up (R393). -/
inductive MState where
  | reset | fwwait | fwcheck | negotiate | ready | failed
  deriving DecidableEq, Repr

/-- The power states (R413). -/
inductive Power where
  | d0 | d3hot | d3cold
  deriving DecidableEq, Repr

/-- The global block and the control complex (R393–R400); `hdmbase` is the base of the HDM decoder (R392), `hostRead` what the
last HOST_LOAD returned, its first byte lowest (R365), and `hostBad` whether it carried the link's poison mark (R385). -/
structure Control where
  mstate : MState := .reset
  fail : Nat := 0
  wid : Nat := 0
  enable : Nat := 0
  fwaddr : Nat := 0
  fwlen : Nat := 0
  ovlpool : Nat := 0
  fcmd : Option (Nat × Nat) := none
  fcmdarg : Nat := 0
  fcmdres : Nat := 0
  evbase : Nat := 0
  evctl : Nat := 0
  evhead : Nat := 0
  evtail : Nat := 0
  evlost : Nat := 0
  evseq : Nat := 0
  evheld : List (List Nat) := []
  msix : List Nat := []
  hdmbase : Nat := 0
  hostRead : Nat := 0
  hostBad : Bool := false
  power : Power := .d0
  deriving DecidableEq, Repr

/-- A swap on an island (R378): the partition going out and the one coming in. -/
structure Swap where
  outgoing : Nat
  incoming : Nat
  deriving DecidableEq, Repr

/-- The header word and slot of the bundle that a slot instruction issues in (R36–R38); part of the model, not of the
spec: log entry 2. -/
structure Latch where
  slot : Nat := 0
  hdr : Option (BitVec 32) := none
  deriving DecidableEq, Repr

/-! ### The machine -/

/-- The whole machine. Model fields (log entries 1 to 3): `agenda` is the environment's choices of what happens next,
`focus` the core on which a slot instruction issues, `latch` its bundle, `free` and `seq` counters, `mvuCredit` what each
partition has left of its turn at the MVUs (R355; log entry 73). Contexts are keyed by
core * 8 + context and are absent while free. Memories are lists of cells in canonical form. -/
structure State where
  time : Nat
  agenda : List Instr
  focus : Nat
  latch : Latch
  free : Nat
  seq : Nat
  cores : Map Core
  ctxs : Map Ctx
  mem : List Host.Cell
  chip : List Host.Cell
  cluster : Map (List Host.Cell)
  badLines : List Nat
  badChip : List Nat
  badCluster : List Nat
  slices : Map SLine
  stores : List SliceStore
  cluLines : List CluLine
  replicas : List (Nat × Nat)
  owners : Map Nat
  kettles : Map (List Nat)
  retiredFrames : List Nat
  mmio : List (Nat × Nat × Nat)
  hatchq : List (Nat × Nat × Nat × Nat)
  peeps : Map Peep
  windows : Map Window
  engines : Map Engine
  mvuCredit : Map Int
  queues : Map Queue
  barriers : Map Barrier
  slots : Map Slot
  jobs : Map (List Job)
  regions : Map Region
  tasks : Map Task
  islands : Map Island
  gov : Governor
  control : Control
  parts : Map Part
  streams : Map Stream
  faults : List FaultItem
  swaps : Map Swap
  deriving DecidableEq, Repr

/-- Why the machine stops: for no reason. Every fault of the spec freezes a context, stops a partition or stops the module,
and each of these is a next state (R369, R371). No step raises one. -/
inductive Fault where
  deriving DecidableEq, Repr

/-- Why an instruction is refused. -/
inductive Refusal where
  /-- Raised by an arm of exec whose instruction has no meaning yet. Safe: nothing is claimed of it. -/
  | notModelled (mnemonic : String)
  deriving DecidableEq, Repr

/-- The machine right after module reset (R394): no partition, no region, no context; the governor's and islands' values
of R305–R320; every memory with nothing listed (log entry 5). -/
def State.reset : State where
  time := 0
  agenda := []
  focus := 0
  latch := {}
  free := 0
  seq := 0
  cores := []
  ctxs := []
  mem := []
  chip := []
  cluster := []
  badLines := []
  badChip := []
  badCluster := []
  slices := []
  stores := []
  cluLines := []
  replicas := []
  owners := []
  kettles := []
  retiredFrames := []
  mmio := []
  hatchq := []
  peeps := []
  windows := []
  engines := []
  mvuCredit := []
  queues := []
  barriers := []
  slots := []
  jobs := []
  regions := []
  tasks := []
  islands := []
  gov := {}
  control := {}
  parts := []
  streams := []
  faults := []
  swaps := []

end Sys2Proof.Machine
end

