-- ==== Sys2Proof/Machine/Ops.lean ====
section
/-! DEFINITION. The named operations over the state: access to its parts, registers, results in flight and their landing,
taking a fault and returning from one. -/

namespace Sys2Proof.Machine

/-! ### Parts of the state -/

/-- Core `c`. -/
def getCore (s : State) (c : Nat) : Core := mget s.cores c {}
/-- The state with core `c` changed. -/
def modCore (s : State) (c : Nat) (f : Core → Core) : State := { s with cores := mset s.cores c (f (getCore s c)) }
/-- Context `x` of core `c`; one that is absent is free. -/
def getCtx (s : State) (c x : Nat) : Ctx := mget s.ctxs (c * 8 + x) {}
/-- The state with a context replaced. -/
def putCtx (s : State) (c x : Nat) (k : Ctx) : State := { s with ctxs := mset s.ctxs (c * 8 + x) k }
/-- The state with a context changed. -/
def modCtx (s : State) (c x : Nat) (f : Ctx → Ctx) : State := putCtx s c x (f (getCtx s c x))
/-- The state with a context free. -/
def dropCtx (s : State) (c x : Nat) : State := { s with ctxs := mdel s.ctxs (c * 8 + x) }
/-- Island `i`. -/
def getIsland (s : State) (i : Nat) : Island := mget s.islands i {}
/-- The state with an island changed. -/
def modIsland (s : State) (i : Nat) (f : Island → Island) : State :=
  { s with islands := mset s.islands i (f (getIsland s i)) }

/-- Sampler cores are numbered from 40 in the model (R15). -/
def isSampler (c : Nat) : Bool := 40 ≤ c
/-- The island, and cluster, of a tile core (R9). -/
def islandOf (c : Nat) : Nat := c / 4

/-- A region that does not exist: no carve, no variant. -/
def noRegion : Region where
  rcb := 0
  parent := 65535
  flags := 0
  prio := 7
  rts := 0
  islands := 0
  share := 0
  contract := 0
  budget := 0
  faultcr := 0
  pool := 0
  bper := 0
  carves := []
  vpc := []
  vcl := []
  tq := 0
  barc := 0
  bard := 0
  barown := 0
  pinbase := 0
  pinlen := 0
  gskew := 0
  budrem := 0
  joules := 0
  exh := 0
  cancel := false
  pinref := false
  eprio := 7
  live := 0
  ready := []
  dirty := false
  toClose := []

/-- The key of a region: its partition and number. -/
def regionKey (part region : Nat) : Nat := part * 4096 + region
/-- A region by its key. -/
def getRegion (s : State) (k : Nat) : Region := mget s.regions k noRegion
/-- The state with a region changed, if it exists. -/
def modRegion (s : State) (k : Nat) (f : Region → Region) : State :=
  match mfind s.regions k with
  | some r => { s with regions := mset s.regions k (f r) }
  | none => s
/-- The region of a context. -/
def ctxRegion (s : State) (k : Ctx) : Region := getRegion s (regionKey k.part k.region)
/-- The state with a task changed, if it exists. -/
def modTask (s : State) (t : Nat) (f : Task → Task) : State :=
  match mfind s.tasks t with
  | some r => { s with tasks := mset s.tasks t (f r) }
  | none => s
/-- The state with a partition changed, if it exists. -/
def modPart (s : State) (p : Nat) (f : Part → Part) : State :=
  match mfind s.parts p with
  | some r => { s with parts := mset s.parts p (f r) }
  | none => s
/-- The free value counter advanced (log entry 3). -/
def bumpFree (s : State) : State := { s with free := s.free + 1 }

/-! ### Time (R2, R29, R320) -/

/-- Units of the model's clock in one nanosecond: a common multiple of 1 to 28, so that every island's period is whole. -/
def unitsPerNs : Nat := 80313433200
/-- The period of the clock 0.35 + 0.05 k GHz (R317). -/
def periodOf (k : Nat) : Nat := 20 * unitsPerNs / (7 + k)
/-- TIME in nanoseconds. -/
def timeNs (s : State) : Nat := s.time / unitsPerNs
/-- The length of the coming cycle of a core: a stretched cycle lasts 1.25 periods (R320); sampler cores run at 1.40 GHz
(R332). -/
def cycleLen (s : State) (c : Nat) : Nat :=
  if isSampler c then periodOf 21
  else
    let i := getIsland s (islandOf c)
    if i.episode = 0 then periodOf i.clk else periodOf i.clk + periodOf i.clk / 4

/-- The cycles after rank 0 in which a context of a core issues its bundles: GSKEW of its rank in a gang (R291). -/
def skewOf (s : State) (c x : Nat) : Nat :=
  let k := getCtx s c x
  if k.gang = true ∧ c % 4 ≠ 0 then bitsOf (ctxRegion s k).gskew (4 * (c % 4 - 1)) 4 else 0
/-- The cycle of its core in which a context's bundle issues. -/
def cycleOn (s : State) (c x : Nat) : Nat := (getCore s c).cycle + skewOf s c x
/-- TIME as that cycle begins. -/
def issueNs (s : State) (c x : Nat) : Nat :=
  (max s.time (getCore s c).tnext + ((getCore s c).held + skewOf s c x) * cycleLen s c) / unitsPerNs

/-! ### Registers (R24–R26, R77, R164) -/

/-- A scalar register; s0 reads zero. -/
def readS (k : Ctx) (n : Nat) : Word := if n = 0 then 0 else mget k.s n 0
/-- A scalar register written; a write of s0 is ignored. -/
def writeS (k : Ctx) (n : Nat) (v : Word) : Ctx := if n = 0 then k else { k with s := mput k.s n v 0 }
/-- The innermost active loop level. -/
def innermost (k : Ctx) : Option Loop := k.loops.getLast?
/-- p12: the first iteration of the innermost active level (R77). -/
def firstIter (k : Ctx) : Bool := match innermost k with | some l => l.count = 0 | none => false
/-- p13: its last iteration, or after an LBRK for it (R77, R80). -/
def lastIter (k : Ctx) : Bool := match innermost k with | some l => l.count + 1 = l.trip ∨ l.brk | none => false
/-- A predicate (R25, R32). -/
def readP (k : Ctx) (i : Nat) : Bool :=
  if i < 12 then k.p.getLsbD (i / 2) != (i % 2 = 1)
  else if i = 12 then firstIter k else if i = 13 then lastIter k else i = 15
/-- A lane predicate (R25, R32). -/
def readQ (k : Ctx) (i : Nat) : QWord :=
  if i < 12 then (if i % 2 = 0 then mget k.q (i / 2) 0 else ~~~ mget k.q (i / 2) 0)
  else if i = 12 then (if firstIter k then BitVec.allOnes 128 else 0)
  else if i = 13 then (if lastIter k then BitVec.allOnes 128 else 0)
  else if i = 15 then BitVec.allOnes 128 else 0
/-- A vector register; 63 names the drain latch, which reads zero when no drain is active (R26, R164). -/
def readV (k : Ctx) (n : Nat) : VWord :=
  if n = 63 then (if k.drain.isSome then k.latch else 0) else mget k.v n 0
/-- A handle register. -/
def readH (k : Ctx) (n : Nat) : Handle := mget k.h n {}
/-- A handle register written. -/
def writeH (k : Ctx) (n : Nat) (h : Handle) : Ctx := { k with h := mset k.h n h }
/-- An empty handle with a changed generation (R27, R187). -/
def emptyHandle (h : Handle) : Handle := { gen := h.gen + 1 }

/-- Bits of a register under a mask replaced. -/
def blend {n : Nat} (mask new old : BitVec n) : BitVec n := (new &&& mask) ||| (old &&& ~~~ mask)

/-- A result written to its register, and its flags set (R58, R101, R102). -/
def landReg (k : Ctx) (r : Reg) (mask val : BitVec 1024) : Ctx :=
  match r with
  | .s n => writeS k n (val.setWidth 64)
  | .p i => { k with p := blend (BitVec.twoPow 6 i) (if val.getLsbD 0 then BitVec.allOnes 6 else 0) k.p }
  | .q i => { k with q := mput k.q i (blend (mask.setWidth 128) (val.setWidth 128) (mget k.q i 0)) 0 }
  | .v n => { k with v := mput k.v n (blend mask val (mget k.v n 0)) 0 }
  | .k n => { k with k := mput k.k n val 0 }
  | .cwq => { k with cwq := k.cwq ++ [val.setWidth 64] }
  | _ => k

/-- FFLAGS bits set (R101). -/
def orFlags (k : Ctx) (fl : Nat) : Ctx := { k with fflags := k.fflags ||| BitVec.ofNat 32 fl }

/-- A result lands (R58, R102). -/
def landFlight (k : Ctx) (f : Flight) : Ctx := orFlags (landReg k f.reg f.mask f.val) f.fl

/-- The results of a context whose last cycle this is land, in issue order, so that the later-issued one is kept (R59);
the others come one cycle nearer. -/
def tickFlights (k : Ctx) : Ctx :=
  let due := k.flights.filter (fun f => f.left ≤ 1)
  let rest := k.flights.filter (fun f => ¬ f.left ≤ 1)
  due.foldl landFlight { k with flights := rest.map (fun f => { f with left := f.left - 1 }) }

/-- The handles XLT wrote come one cycle nearer, and land (R60, R186). -/
def tickHandles (k : Ctx) : Ctx :=
  let due := k.hflights.filter (fun f => f.left ≤ 1)
  let rest := k.hflights.filter (fun f => ¬ f.left ≤ 1)
  due.foldl (fun k f => writeH k f.h { f.handle with gen := (readH k f.h).gen + 1 })
    { k with hflights := rest.map (fun f => { f with left := f.left - 1 }) }

/-- Work that lands at a fixed time comes one cycle nearer, and lands (R233). -/
def tickWork (k : Ctx) (w : Work) : Ctx :=
  match w.kind with
  | .timed v n =>
    if n ≤ 1 then landReg { k with works := k.works.filter (fun u => u.id ≠ w.id) } w.reg (BitVec.allOnes 1024) v
    else { k with works := k.works.map (fun u => if u.id = w.id then { u with kind := .timed v (n - 1) } else u) }
  | _ => k
/-- Every such work of a context. -/
def tickWorks (k : Ctx) : Ctx := k.works.foldl tickWork k

/-- Whether a context has work that lands at a fixed time. -/
def timedWork (k : Ctx) : Bool := k.works.any (fun w => match w.kind with | .timed _ _ => true | _ => false)

/-! ### Pending registers (R57) -/

/-- Whether a register has its pending bit set: some variable-latency work, or on a sampler core any result or handle in
flight, is to write it (R15, R58, R60). -/
def isPending (c : Nat) (k : Ctx) (r : Reg) : Bool :=
  r ≠ .none && (k.works.any (fun w => w.reg = r) ||
    (isSampler c && (k.flights.any (fun f => f.reg = r) || k.hflights.any (fun f => Reg.h f.h = r))))

/-! ### Status -/

/-- A context occupied in the sense of R72. -/
def occupied (s : State) (c x : Nat) : Bool :=
  (mfind s.ctxs (c * 8 + x)).isSome ||
  (match (getCore s c).shadow with | some sh => (mfind sh.ctxs x).isSome | none => false)

/-- The effective priority class of a context's region (R24, R53, R297). -/
def prioOf (s : State) (c x : Nat) : Nat := (ctxRegion s (getCtx s c x)).eprio

/-- Whether a context stands at a continuation point past which it is not resumed on its core: its region has CANCEL set
(R288, R343), or the core is fenced (R386). -/
def staysPut (s : State) (c x : Nat) : Bool :=
  (getCtx s c x).cont && ((ctxRegion s (getCtx s c x)).cancel || (getCore s c).fenced)

/-- Whether a context could own issue. -/
def canIssue (s : State) (c x : Nat) : Bool := (getCtx s c x).status = .ready && !staysPut s c x

/-- The contexts of a core that are ready, and may go on. -/
def readyCtxs (s : State) (c : Nat) : List Nat := (upTo 8).filter (canIssue s c)

/-! ### Trap constructors (R367) -/

/-- A fault of a slot, named by its code. -/
def trapOf (code : Nat) (va : Nat := 0) (obj : Nat := 0) : Trap := { code := code, va := va, obj := obj }

def codeIllegalBundle : Nat := 0x01
def codeIllegalSlot : Nat := 0x02
def codePageFault : Nat := 0x10
/-- The PAGE_FAULT of a walk that met the empty kettle of a domain (R363): the code that a record shows is its low byte. -/
def codeNoFrame (dom : Nat) : Nat := codePageFault + 2 ^ 8 * (dom + 1)
/-- The domain whose empty kettle a code tells of. -/
def kettleOf (code : Nat) : Option Nat := if code < 2 ^ 8 then none else some (code / 2 ^ 8 - 1)
def codePerm : Nat := 0x11
def codeHandleBound : Nat := 0x12
def codeCarve : Nat := 0x13
def codeScope : Nat := 0x14
def codeBankBusy : Nat := 0x20
def codeBankGrant : Nat := 0x21
def codeSpawnBusy : Nat := 0x22
def codeLoopNest : Nat := 0x23
def codeDescriptor : Nat := 0x24
def codeHatchState : Nat := 0x30
def codeWindowState : Nat := 0x31
def codeWindowFull : Nat := 0x32
def codeRunaway : Nat := 0x33
def codePoison : Nat := 0x40
def codeWatchdog : Nat := 0x41
def codeDebug : Nat := 0x50
def codeUserTrap : Nat := 0x51

/-! ### Losing issue, taking a fault, resuming (R53–R56, R368–R373) -/

/-- The core gives up issue: the next context's first bundle issues `rest` cycles after the coming boundary (R53, R55). -/
def releaseIssue (s : State) (c x rest : Nat) : State :=
  modCore s c fun k =>
    if k.owner = some x then { k with owner := none, last := x, owned := 0, rest := k.held + rest, held := 0 } else k

/-- The cycles a core waits, after this one, for a yielding context's results to land: its longest result in flight lands
`n` cycles from now, and the next context issues at the later of t + 1 and f (R53). -/
def landWait (k : Ctx) : Nat := (k.flights.foldl (fun n f => max n f.left) 0) - 1

/-- A freeze (R55, R56): every fixed-latency result in flight moves into the snapshot with its cycles left, a descriptor read
begun by its next bundle is made again (R234), and the core passes issue on 24 cycles after the last cycle in which the context
held it. -/
def freezeCtx (s : State) (c x : Nat) : State :=
  releaseIssue (modCtx s c x fun k => { k with snap := k.snap ++ k.flights, flights := [], stall := 0, preStall := 0 }) c x 23

/-- A frozen context takes issue again: the snapshot's results run on from their cycles left (R56). -/
def unfreeze (k : Ctx) : Ctx := { k with flights := k.snap ++ k.flights, snap := [] }

/-- The trap-record words of a fault (R368); the freeze stands at the boundary before the context's next cycle. -/
def trapWords (s : State) (c x : Nat) (t : Trap) : List Nat :=
  let k := getCtx s c x
  let snp := if k.flights = [] then 0 else 2 ^ 37
  let info := snp + natOf t.deferred * 2 ^ 36 + t.mask % 16 * 2 ^ 32 + t.aux % 2 ^ 16 * 2 ^ 16 + t.code % 256
  let id := x % 8 + natOf (isSampler c) * 8 + (if isSampler c then c - 40 else c) * 2 ^ 8 + k.part * 2 ^ 16
    + k.region % 4096 * 2 ^ 32
  let va := if t.code = 0x51 then t.va % 2 ^ 64 else t.va % 2 ^ 57
  [info, t.pc, k.pc.toNat, va, t.obj % 2 ^ 16, id, issueNs s c x, k.cr]

/-- Numbers as an eight-word trap record, in canonical form. -/
def trapMap (ws : List Nat) : Map Word :=
  ws.zipIdx.foldl (fun m w => mput m w.2 (BitVec.ofNat 64 w.1) 0) []

/-- Whether more than the configuration space and the global block answers (R391). -/
def answering (s : State) : Bool := s.control.mstate ≠ .failed

/-- The ranks of a gang that freeze with one of them (R292), or the context alone. -/
def gangCores (s : State) (c x : Nat) : List Nat :=
  if (getCtx s c x).gang then (upTo 4).map (fun r => c / 4 * 4 + r) else [c]

/-- The job of a sampler core that faults is abandoned: its slot, if it is still the job's, loses one outstanding job and
takes JERR (R333). -/
def abandonJob (s : State) (n : Nat) : State :=
  match mget s.jobs n [] with
  | [] => s
  | j :: _ =>
    let i := j.slot % 4096
    let sl := mget s.slots i {}
    if bitOf sl.w3 63 ∧ bitsOf sl.w3 56 3 = j.part ∧ bitsOf sl.w0 40 8 = bitsOf j.slot 16 8 then
      let oj := bitsOf sl.w0 32 8
      let w0 := if oj = 0 then sl.w0 else sl.w0 - 2 ^ 32
      let w1 := if bitOf sl.w1 42 then sl.w1 else sl.w1 + 2 ^ 42
      { s with slots := mset s.slots i { sl with w0 := w0, w1 := w1 } }
    else s

/-- A context's requests at hatches and pops at queues withdrawn (R218, R304). -/
def leaveQueues (s : State) (c x part : Nat) : State :=
  { s with
    hatchq := s.hatchq.filter (fun r => r.2 ≠ (c, x, part))
    queues := s.queues.map (fun e =>
      if e.2.part = part then (e.1, { e.2 with waiters := e.2.waiters.filter (fun w => w ≠ (c, x)) }) else e) }

/-- A context gone: it stands in no queue, and nothing that the debugger asked of it is kept (R218, R304, R411). -/
def goneCtx (s : State) (c x : Nat) : State :=
  let part := (getCtx s c x).part
  let drop := fun (d : Debug) =>
    { d with halts := d.halts.filter (fun h => ¬ (h.1 = x ∧ h.2.1 = part)), resumes := d.resumes.filter (· ≠ x) }
  dropCtx (modCore (leaveQueues s c x part) c fun k => { k with probe := drop k.probe }) c x

/-- Taking a fault (R368, R369): the record is written, every rank freezes, the context stops being ready, and the fault
waits for firmware (R371). A bundle that faults asks for nothing: what it asked while it waited is withdrawn; a halt leaves its
context's place in a queue as it is (R218, R304; log entry 98). -/
def takeFault (s : State) (c x : Nat) (t : Trap) : State :=
  let ws := trapWords s c x t
  let k := getCtx s c x
  let s := (gangCores s c x).foldl
    (fun s r => freezeCtx (modCtx s r x fun k => { k with status := .frozen, wait := none }) r x) s
  let s := if t.code = codeDebug then s else (gangCores s c x).foldl (fun s r => leaveQueues s r x k.part) s
  let s := modCtx s c x fun k => { k with trap := trapMap ws }
  let s := if isSampler c ∧ t.code ≠ codeDebug then abandonJob s (c - 40) else s
  let s := modPart s k.part fun p => { p with faults := p.faults + 1 }
  { s with faults := s.faults ++ [{
      core := some c, ctx := x, part := k.part, region := k.region, code := t.code % 2 ^ 8, kettle := kettleOf t.code, record := ws,
      args := (upTo 6).map (fun i => (readS k (i + 1)).toNat), stage := .fresh }] }

/-- The status of a context of core `c` that could run again: while its partition is stopped it stays frozen with it (R371),
and once its partition is ordered off its island it goes with it (R378). -/
def runStatus (s : State) (c part : Nat) : Status :=
  if (match mfind s.parts part with | some p => p.stopped | none => false) then .stopped
  else match mfind s.swaps (c / 4) with
    | some w => if w.outgoing = part then .swapped else .ready
    | none => .ready

/-- Returning from a fault by RESUME (R373): every rank is ready again at FPC, and its snapshot runs on when it next issues
(R56). -/
def resumeCtx (s : State) (c x : Nat) : State :=
  (gangCores s c x).foldl
    (fun s r => modCtx s r x fun k => if k.status = .frozen then { k with status := runStatus s r k.part } else k) s

end Sys2Proof.Machine
end

