-- ==== Sys2Proof/Machine/Operands.lean ====
section
/-! DEFINITION. What a slot is to the bundle it stands in: the registers it names, the resources it uses, and the effect
it has; and the operand forms the classes share. -/

namespace Sys2Proof.Machine

/-! ### What a header adds (R36–R38) -/

/-- The extension of a slot: whether the bundle holds a header, whether L joins 27 bits into this slot's, and the field. -/
structure Ext where
  hdr : Bool := false
  long : Bool := false
  x : Nat := 0
  deriving DecidableEq, Repr

/-- The extension that a header word gives slot `n` (R36, R37). -/
def extOf (hdr : Option (BitVec 32)) (n : Nat) : Ext :=
  match hdr with
  | none => {}
  | some w =>
    let w := w.toNat
    let long := bitOf w 27
    if n = 1 then (if long then ⟨true, true, w % 2 ^ 27⟩ else ⟨true, false, bitsOf w 18 9⟩)
    else if long then ⟨true, false, 0⟩
    else if n = 2 then ⟨true, false, bitsOf w 9 9⟩
    else if n = 3 then ⟨true, false, w % 2 ^ 9⟩
    else ⟨true, false, 0⟩

/-- An immediate or offset of `n` bits of the slot with the header's bits above it, signed from its top bit (R38): with a
header the joined value, without one the slot's bits alone. -/
def joined (e : Ext) (n : Nat) (bits : Nat) : Int :=
  if e.hdr then signed (n + (if e.long then 27 else 9)) (bits + e.x * 2 ^ n) else signed n bits

/-! ### Where a slot stands, and what it does -/

/-- Where a slot executes: core, context, slot number, its bundle's address, the core whose registers steer the stream (its
own, or rank 0's in a gang, R292), its extension, its Q bit, and its lane guard. -/
structure Port where
  core : Nat
  ctx : Nat
  pos : Nat
  pc : Nat
  lead : Nat
  ext : Ext
  squash : Bool
  lanes : QWord
  deriving DecidableEq, Repr

/-- A fixed-latency result (R58): the bits it writes, the flags it sets when it lands, whether it is a scratchpad load
(which a bank conflict delays, R181), whether it is a post-increment or link (which no branch kills, R65), and a fault that travels with it (R65, R197). A faulted one brings no data unless it
is poison. -/
structure Out where
  reg : Reg
  val : Nat
  lat : Nat
  mask : Nat := 2 ^ 1024 - 1
  fl : Nat := 0
  spad : Bool := false
  keep : Bool := false
  fault : Option Trap := none
  deriving DecidableEq, Repr

/-- Variable-latency work put in hand at issue (R57), and a fault that travels with it. -/
structure NewWork where
  reg : Reg
  kind : WorkKind
  fault : Option Trap := none
  deriving DecidableEq, Repr

/-- What a slot does to the bundle stream. -/
inductive Ctl where
  | none
  | jump (target : Nat) (closes : Bool)
  | skip (target : Nat)
  | yield | yieldC | stop
  | after (t : Trap)
  deriving DecidableEq, Repr

/-- The effect of a slot that issues: its results, its work, the scratchpad words it needs and the cycles it holds issue at least (R181, R203),
its effect on the stream, the number of a TRACE (R407), and its effect on the rest of the state; whether that is what the
slots that meet a unit after it find done, and the operand guard entries it takes (R162). -/
structure Effect where
  outs : List Out := []
  works : List NewWork := []
  words : List Nat := []
  heldMore : Nat := 0
  ctl : Ctl := .none
  trace : Option Nat := none
  act : State → State := id
  turn : Bool := false
  guards : Nat := 0

/-- What a true-guarded slot answers when its bundle is to issue: its effect; a fault; a stall (R57), with the request it leaves at its unit if it leaves one; `prep` when it is one
of the counted cycles of a descriptor read (R234); or a blocking wait whose condition is not met, with the request it
leaves at its unit (R52). -/
inductive SlotRes where
  | go (e : Effect)
  | trap (t : Trap)
  | stall
  | stallAsk (ask : State → State)
  | prep (n : Nat)
  | wait (w : Wait) (ask : State → State)

/-- The resource a slot uses (R43). -/
inductive Resource where
  | control | sequencer | matrix | memory | scalar | system
  | vector (width base : Nat)
  deriving DecidableEq, Repr

/-- A guard (R31, R32): a scalar predicate, or a lane predicate over elements of `e` bytes in bytes `lo` to
`lo + n - 1`, followed by `fill` bytes that are no elements and have each its own bit (R124). -/
inductive Guard where
  | scalar (i : Nat)
  | lane (i lo n e : Nat) (fill : Nat := 0)
  deriving DecidableEq, Repr

/-- A slot as its bundle sees it: whether its encoding is legal on its own (R45.2) and in the bundle (R38), its resource,
guard and Q bit, the registers it reads and writes (a post-incremented address register among them), those that
variable-latency work writes (R57), of a slot that steers a gang's stream those that each rank reads of its own (R292), whether a sampler core accepts it (R15, R332), whether it meets a unit in its turn, after the slots
before it, and what it does. -/
structure SlotInfo where
  legal : Bool := true
  extLegal : Bool := true
  res : Resource
  guard : Guard
  squash : Bool := false
  reads : List Reg := []
  ownReads : List Reg := []
  writes : List Reg := []
  varWrites : List Reg := []
  sampler : Bool := true
  samplerOnly : Bool := false
  inTurn : Bool := false
  run : Port → State → SlotRes

/-- An operation: what it is to the bundle, given what a header adds. -/
abbrev Op := Ext → SlotInfo

/-! ### Registers as operands -/

/-- The register operand `s[n]`; s0 is never pending. -/
def sReg (n : Nat) : Reg := if n = 0 then .none else .s n
/-- A predicate operand: p12 to p15 are no registers that a result can be written to. -/
def pReg (i : Nat) : Reg := if i < 12 then .p (i / 2) else .none
/-- A lane-predicate operand. -/
def qReg (i : Nat) : Reg := if i < 12 then .q (i / 2) else .none
/-- A vector operand; v63 is the drain latch. -/
def vReg (n : Nat) : Reg := if n = 63 then .none else .v n

/-- R25: a predicate destination names an even member 0 to 10. -/
def evenPred (n : Nat) : Bool := n % 2 = 0 && n ≤ 10

/-- The context a slot executes in. -/
def Port.reads (p : Port) (s : State) : Ctx := getCtx s p.core p.ctx
/-- The context whose registers steer the stream (R292). -/
def Port.steers (p : Port) (s : State) : Ctx := getCtx s p.lead p.ctx

/-- The guard's own register (R57). -/
def Guard.reg : Guard → Reg
  | .scalar i => pReg i
  | .lane i _ _ _ _ => qReg i

/-- The bits of the lowest bytes of the elements of `e` bytes in bytes `lo` to `lo + n - 1`. -/
def elemLanes (lo n e : Nat) : Nat :=
  ((List.range (n / e)).foldl (fun acc i => acc + 2 ^ (lo + i * e)) 0)

/-- Whether a guard is true: for a lane guard, in at least one element or byte of the fill (R32, R63, R124). -/
def Guard.holds (k : Ctx) : Guard → Bool
  | .scalar i => readP k i
  | .lane i lo n e fill => (readQ k i &&& BitVec.ofNat 128 (elemLanes lo n e + elemLanes (lo + n) fill 1)) ≠ 0

/-- The lane guard itself, all lanes where the guard is scalar. -/
def Guard.lanes (k : Ctx) : Guard → QWord
  | .scalar _ => BitVec.allOnes 128
  | .lane i _ _ _ _ => readQ k i

end Sys2Proof.Machine
end

