-- ==== Sys2Proof/Machine/Slice.lean ====
section
/-! DEFINITION. Where stores and loads take effect: the system-cache slices with the peephole unit beside them, the line
caches, the cluster atomic units, the overlay of a window, and the scratchpad levels. -/

namespace Sys2Proof.Machine

/-! ### The physical address map (R356) -/

/-- LPDDR-6. -/
def isLpddr (pa : Nat) : Bool := pa < 2 ^ 37
/-- Host memory through the link. -/
def isHostMem (pa : Nat) : Bool := 2 ^ 46 ≤ pa && pa < 2 ^ 47
/-- The host MMIO aperture, uncached (R190). -/
def isMmio (pa : Nat) : Bool := 2 ^ 47 ≤ pa && pa < 2 ^ 48
/-- The range that reaches nothing. -/
def isNowhere (pa : Nat) : Bool := 2 ^ 37 ≤ pa && pa < 2 ^ 46

/-! ### Lines at a slice (R13, R191, R315, R354, R364) -/

/-- The number that stands for no task of a partition where a task is named: for its streams and page tables, whose accesses no
task makes (log entry 40). -/
def forPart (part : Nat) : Nat := 2 ^ 60 + part * 16
/-- The number that stands for an island's dispatcher, and for a task of a partition that has retired, by the island where it
last ran (R314, R315). -/
def forIsland (part i : Nat) : Nat := forPart part + i + 1
/-- The island whose overhead the lines of such a number are. -/
def payIsland (task : Nat) : Option Nat := if 2 ^ 60 ≤ task ∧ task % 16 ≠ 0 then some (task % 16 - 1) else none
/-- The partition of a task, or of such a number. -/
def taskPart (s : State) (task : Nat) : Option Nat :=
  match mfind s.tasks task with
  | some t => some (t.region / 4096)
  | none => if 2 ^ 60 ≤ task then some ((task - 2 ^ 60) / 16) else none
/-- What stands for a task's lines once it has retired (R315). -/
def afterTask (t : Task) : Nat := forIsland (t.region / 4096) t.island

/-- Lines of LPDDR-6 moved for a task, or as an island's overhead (R314, R315); the others are module overhead (R307). -/
def chargeLines (s : State) (task n : Nat) : State :=
  match mfind s.tasks task, payIsland task with
  | some t, _ => { s with
      gov := { s.gov with moved := s.gov.moved + n }
      tasks := mset s.tasks task { t with lines := t.lines + n } }
  | none, some i => { s with
      gov := { s.gov with moved := s.gov.moved + n }
      islands := (modIsland s i fun isl => { isl with lines := isl.lines + n }).islands }
  | none, none => { s with gov := { s.gov with moved := s.gov.moved + n, lines := s.gov.lines + n } }

/-- A line that leaves the system cache: a dirty one is written back, a line moved for the task that last made it dirty, or
overhead of the island where that task last ran, if it has retired (R315). -/
def lineOut (s : State) (l : SLine) : State :=
  if ¬ l.dirty then s
  else
    let pay := match mfind s.tasks l.task with
      | some t => if t.state = .retired then afterTask t else l.task
      | none => l.task
    chargeLines s pay 1

/-- The superblock of four lines that one tag covers (R13). -/
def superOf (line : Nat) : Nat := line / 4
/-- Whether two superblocks fall in one set (R13: the hash is not architectural). -/
def sameSet (a b : Nat) : Bool := Config.cacheSet a == Config.cacheSet b
/-- The ways into which allocations may go: those of the partition that a task, or what stands for one, belongs to; an agent of
no partition uses the ways that firmware gives the host (R354; log entry 77). -/
def wayMask (s : State) (task : Nat) : Nat :=
  match (taskPart s task).bind (mfind s.parts) with
  | some p => p.ways
  | none => Config.hostWays.toNat
/-- The way in which some region has pinned a superblock (R364). -/
def pinWay (s : State) (sb : Nat) : Option Nat :=
  s.parts.findSome? fun e => (e.2.pinned.find? (fun p => p.2.1 = sb)).map (fun p => p.2.2)
/-- Whether another superblock of the set is pinned in a way. -/
def wayPinned (s : State) (sb w : Nat) : Bool :=
  s.parts.any fun e => e.2.pinned.any fun p => p.2.2 = w && p.2.1 ≠ sb && sameSet p.2.1 sb
/-- Whether a line stands in a way of a superblock's set for another superblock. -/
def inWay (sb w : Nat) (e : Nat × SLine) : Bool := e.2.way = w && superOf e.1 ≠ sb && sameSet (superOf e.1) sb

/-- The way a superblock's lines stand in: its own, where one is held or it is pinned; else one of the ways allowed that
holds no pin, a way with nothing in it before one whose superblock is replaced, in an order that is not architectural. -/
def wayFor (s : State) (task sb : Nat) : Option Nat :=
  match s.slices.find? (fun e => superOf e.1 = sb) with
  | some e => some e.2.way
  | none => match pinWay s sb with
    | some w => some w
    | none =>
      let may := (upTo 16).filter fun w => bitOf (wayMask s task) w && !wayPinned s sb w
      match may.find? (fun w => !s.slices.any (fun e => e.2.way = w)) with
      | some w => some w
      | none => match may.find? (fun w => !s.slices.any (inWay sb w)) with
        | some w => some w
        | none => may[(Config.cacheVictim s.free).toNat % may.length]?

/-- A line allocated in the system cache, not dirty, the superblock that stood in its way leaving it. With no way to go to
it is not kept. -/
def sliceRoom (s : State) (task line : Nat) : State :=
  let sb := superOf line
  let way := wayFor s task sb
  let out := match way with | some w => s.slices.filter (inWay sb w) | none => []
  let t := (out.map (fun e => e.2)).foldl lineOut s
  { s with
    gov := t.gov, tasks := t.tasks, islands := t.islands, free := s.free + min 1 out.length
    slices := match mfind s.slices line, way with
      | none, some w => mset (s.slices.filter (fun e => !inWay sb w e)) line { way := w, dirty := false, task := task }
      | _, _ => s.slices }

/-- A line of LPDDR-6 that the system cache does not hold is fetched, and counts for the task that caused it. -/
def sliceFetch (s : State) (task line : Nat) : State :=
  if ¬ isLpddr (line * 128) then s
  else
    let held := (mfind s.slices line).isSome
    let t := sliceRoom (chargeLines s task 1) task line
    { s with
      gov := if held then s.gov else t.gov
      tasks := if held then s.tasks else t.tasks
      islands := if held then s.islands else t.islands
      free := if held then s.free else t.free
      slices := if held then s.slices else t.slices }

/-- A line of LPDDR-6 made dirty at its slice by a task. One that found no way is written back at once. -/
def sliceDirty (s : State) (task line : Nat) : State :=
  let t := lineOut s { way := 0, dirty := true, task := task }
  let held := (mfind s.slices line).isSome
  { s with
    gov := if held then s.gov else t.gov
    tasks := if held then s.tasks else t.tasks
    islands := if held then s.islands else t.islands
    slices := match mfind s.slices line with
      | some l => mset s.slices line { l with dirty := true, task := task }
      | none => s.slices }

/-- Every line that `n` bytes touch is fetched. -/
def sliceFetchAll (s : State) (task pa n : Nat) : State :=
  (List.range ((pa + n - 1) / 128 + 1 - pa / 128)).foldl (fun s i => sliceFetch s task (pa / 128 + i)) s

/-- `n` bytes read at their slices. -/
def sliceRead (s : State) (task pa n : Nat) : State × Nat := (sliceFetchAll s task pa n, readNat s.mem pa n)

/-- Whether a line is poisoned in memory (R385). -/
def linePoison (s : State) (line : Nat) : Bool := s.badLines.contains line

/-! ### The peephole unit (R255–R261) -/

/-- The virtual address at which an entry or binding knows a physical address. -/
def segVa (segs : List Seg) (pa : Nat) : Option Nat :=
  match segs.find? (fun g => g.pa ≤ pa && pa < g.pa + g.len) with
  | some g => some (g.va + (pa - g.pa))
  | none => none

/-- A fault with no frozen context (R261, R375). -/
def faultNoCtx (s : State) (part region code va obj : Nat) : State :=
  let s := modPart s part fun p => { p with faults := p.faults + 1 }
  { s with faults := s.faults ++ [{
      core := none, ctx := 0, part := part, region := region, code := code,
      record := [code, 0, 0, va, obj, part * 2 ^ 16 + region * 2 ^ 32, timeNs s, 0],
      args := [0, 0, 0, 0, 0, 0], stage := .fresh }] }

/-- One trigger of an entry: a runaway one disarms it (R261); the others fold into the held or undispatched task, or make
a task, held until it is placed (R257, R258). -/
def triggerEntry (s : State) (e va : Nat) (lines : List Nat) (host win : Bool) : State :=
  match mfind s.peeps e with
  | none => s
  | some p =>
    if ¬ p.armed then s
    else if p.limit < p.steepn + 1 then
      faultNoCtx { s with peeps := mset s.peeps e { p with armed := false, run := true } } p.part p.region codeRunaway va e
    else
      let t : PeepTask := match p.pend with
        | some t => { t with
            va := min t.va va, count := min 65535 (t.count + 1), host := t.host || host, win := t.win || win,
            lines := (t.lines ++ lines).eraseDups }
        | none => { va := va, count := 1, host := host, win := win, first := timeNs s, lines := lines, slot := none,
                    offered := false }
      { s with peeps := mset s.peeps e { p with steepn := p.steepn + 1, pend := some t } }

/-- The lowest of a list of numbers. -/
def least : List Nat → Option Nat
  | [] => none
  | x :: t => match least t with | some y => some (min x y) | none => some x

/-- A store that changed the 8-byte words at these physical addresses triggers each entry whose range holds one, once
(R256, R274). -/
def triggerAll (s : State) (words lines : List Nat) (host win : Bool) : State :=
  s.peeps.foldl (fun s e =>
    match least (words.filterMap (segVa e.2.range)) with
    | some va => triggerEntry s e.1 va lines host win
    | none => s) s

/-- The aligned 8-byte words among the `n` bytes from `pa` that differ between two memories. -/
def changedWords (old new : Map Byte) (pa n : Nat) : List Nat :=
  ((List.range ((pa + n - 1) / 8 + 1 - pa / 8)).map (fun i => (pa / 8 + i) * 8)).filter
    (fun a => readNat old a 8 ≠ readNat new a 8)

/-! ### Stores at a slice (R13, R191, R211, R256) -/

/-- Whether a mask names every byte of a whole line. -/
def wholeLine (pa n mask : Nat) : Bool := pa % 128 = 0 && n = 128 && mask % 2 ^ 128 = 2 ^ 128 - 1

/-- A store performed at its slice, without its triggers: the line is allocated, fetched unless wholly written, and made
dirty; a whole line written clears its poison (R385). R191 does not fetch for a store of all 128 bytes and fetches for any
store of fewer; a line cache's write-back of all 128 bytes is taken as the former (log entry 78). -/
def slicePut (s : State) (task pa n val mask : Nat) : State :=
  let line := pa / 128
  let whole := wholeLine pa n mask
  let s := if ¬ isLpddr pa then s else if whole then sliceRoom s task line else sliceFetch s task line
  let s := { s with mem := writeMasked s.mem pa n val mask }
  let s := if isLpddr pa then sliceDirty s task line else s
  if whole then { s with badLines := s.badLines.filter (· ≠ line) } else s

/-- A store performed at its slice, and its triggers. -/
def sliceStore (s : State) (agent : Agent) (task pa n val mask : Nat) : State :=
  let t := slicePut s task pa n val mask
  triggerAll t (changedWords s.mem t.mem pa n) [pa / 128] (agent = .host) (agent = .window)

/-- The clusters that hold a replica of the 128 KiB piece of an address (R229). -/
def replicasOf (s : State) (pa : Nat) : List Nat :=
  (s.replicas.filter (fun r => r.2 = pa / 2 ^ 17)).map (fun r => r.1)

/-- A store queued on its way to its slice. -/
def queueStore (s : State) (agent : Agent) (task pa n val mask : Nat) (acks : List Nat) (bad : Bool := false) : State :=
  { s with
    seq := s.seq + 1
    stores := s.stores ++ [{ id := s.seq, pa := pa, n := n, val := val, mask := mask, agent := agent, task := task,
                             acks := acks, bad := bad }] }

/-- A line marked as poisoned, where the bytes stored to it are (R385). -/
def markBad (s : State) (line : Nat) (bad : Bool) : State :=
  if bad then { s with badLines := (s.badLines ++ [line]).eraseDups } else s

/-- Whether an agent's stores are performed in the order in which it made them (R190, R227, R242, R260): not those of a unit
or the write-backs of a line cache, whose lines have no order among them (R211). -/
def Agent.inOrder : Agent → Bool
  | .unit => false
  | .cache _ => false
  | _ => true

/-- Whether a store to a line is on its way to it. -/
def lineBusy (s : State) (line : Nat) : Bool := s.stores.any (fun w => w.pa / 128 = line)

/-- Whether a store arriving at its slice is held there: until every replica of its page has acknowledged invalidation
(R229), behind a held store to its line, or behind one of the same agent. -/
def storeHeld (s : State) (agent : Agent) (pa : Nat) : Bool :=
  replicasOf s pa ≠ [] || lineBusy s (pa / 128) || (agent.inOrder && s.stores.any (fun w => w.agent = agent))

/-- A store arriving at its slice: held, or performed. -/
def storeAt (s : State) (agent : Agent) (task pa n val mask : Nat) (bad : Bool := false) : State :=
  if storeHeld s agent pa then queueStore s agent task pa n val mask (replicasOf s pa) bad
  else markBad (sliceStore s agent task pa n val mask) (pa / 128) bad

/-- A store of any length, line by line. -/
def storeLines (s : State) (agent : Agent) (task pa : Nat) (val : Nat) : (n fuel : Nat) → State
  | _, 0 => s
  | n, fuel + 1 =>
    if n = 0 then s
    else
      let k := min n (128 - pa % 128)
      storeLines (storeAt s agent task pa k (val % 2 ^ (8 * k)) (ones k)) agent task (pa + k) (val / 2 ^ (8 * k)) (n - k)
        fuel

/-- SLICE_STORE_PERFORM (R13, R190): the store is performed once no earlier store of its agent, or to its line, is on its way
and every replica has acknowledged. -/
def performStore (s : State) (id : Nat) : State :=
  match s.stores.find? (fun w => w.id = id) with
  | none => s
  | some w =>
    if w.acks ≠ [] ∨ (s.stores.takeWhile (fun u => u.id ≠ id)).any (fun u =>
        u.pa / 128 = w.pa / 128 || (w.agent.inOrder && u.agent = w.agent)) then s
    else
      let s := sliceStore { s with stores := s.stores.filter (fun u => u.id ≠ id) } w.agent w.task w.pa w.n w.val w.mask
      markBad s (w.pa / 128) w.bad

/-- REPLICA_INVALIDATE_ACK (R229). -/
def replicaAck (s : State) (id cluster : Nat) : State :=
  match s.stores.find? (fun w => w.id = id) with
  | none => s
  | some w =>
    if ¬ w.acks.contains cluster then s
    else
      let piece := w.pa / 2 ^ 17
      let drop := fun (u : SliceStore) => if u.pa / 2 ^ 17 = piece then { u with acks := u.acks.filter (· ≠ cluster) } else u
      let s := { s with replicas := s.replicas.filter (fun r => r ≠ (cluster, piece)), stores := s.stores.map drop }
      performStore s id

/-! ### The cluster atomic units (R206, R224) -/

/-- A line as a cluster's unit holds it. -/
def cluFind (s : State) (cluster line : Nat) : Option CluLine :=
  s.cluLines.find? (fun e => e.cluster = cluster ∧ e.line = line)

/-- The unit's copy of a line dropped. -/
def cluDrop (s : State) (cluster line : Nat) : State :=
  { s with cluLines := s.cluLines.filter (fun e => ¬ (e.cluster = cluster ∧ e.line = line)) }

/-- The unit's updated words of a line written back, an ordinary write at the slice for the task that updated it last, and
the line given up (R224). -/
def cluWriteBack (s : State) (cluster line : Nat) : State :=
  match cluFind s cluster line with
  | none => s
  | some e =>
    let s := cluDrop s cluster line
    if e.mask = 0 then s else storeAt s .unit e.task (line * 128) 128 e.val e.mask

/-- Every unit's copy of a line recalled by a .dev or .sys atomic (R224). -/
def cluRecall (s : State) (line : Nat) : State :=
  (s.cluLines.filter (fun e => e.line = line)).foldl (fun s e => cluWriteBack s e.cluster line) s

/-- Every line a cluster's unit holds written back (R222). -/
def cluFlush (s : State) (cluster : Nat) : State :=
  (s.cluLines.filter (fun e => e.cluster = cluster)).foldl (fun s e => cluWriteBack s cluster e.line) s

/-! ### The line caches (R189) -/

/-- A line with nothing valid. -/
def emptyLine : Line := { val := 0, valid := 0, dirty := 0, poison := false, task := 0 }

/-- A byte mask of a line as a mask of its bits. -/
def byteMask (m : Nat) : Nat → Nat
  | 0 => 0
  | n + 1 => (if m % 2 = 1 then 255 else 0) + 256 * byteMask (m / 2) n

/-- `n` bytes of a line from byte `o` replaced by a task's store. -/
def lineBlend (l : Line) (task o n val : Nat) (dirty : Bool) : Line :=
  let bytes : QWord := BitVec.ofNat 128 (ones n * 2 ^ o)
  let bits : VWord := BitVec.ofNat 1024 (ones (8 * n) * 2 ^ (8 * o))
  { val := blend bits (BitVec.ofNat 1024 (val % 2 ^ (8 * n) * 2 ^ (8 * o))) l.val
    valid := l.valid ||| bytes
    dirty := if dirty then l.dirty ||| bytes else l.dirty &&& ~~~ bytes
    poison := l.poison && n ≠ 128
    task := task }

/-- The write signatures of a core's exclusive holdings whose region a store meets (R215). -/
def trackStore (s : State) (c pa : Nat) : State :=
  modCore s c fun k => { k with holdings := k.holdings.map fun h =>
    if h.lo ≤ pa ∧ pa < h.lo + h.len then
      let l := (pa - h.lo) / 128
      { h with sig := h.sig ||| BitVec.twoPow 512 ((l ^^^ l / 512) % 512) }
    else h }

/-- The cluster a core's accesses belong to; a sampler core has none. -/
def clusterOf (c : Nat) : Nat := if isSampler c then 10 else c / 4

/-- The dirty bytes of one line written back (R189), for the task whose store made it dirty last. The cluster's atomic unit
gives up the line first, as it may at any time (R224), so that its next atomic meets these bytes (R182, R206). A poisoned line's
mark goes with them (R385). -/
def lineWriteBack (s : State) (c line : Nat) : State :=
  match mfind (getCore s c).lines line with
  | none => s
  | some l =>
    if l.dirty = 0 then s
    else
      let s := cluWriteBack s (clusterOf c) line
      let s := modCore s c fun k => { k with lines := mset k.lines line { l with dirty := 0 } }
      storeAt s (.cache c) l.task (line * 128) 128 l.val.toNat l.dirty.toNat l.poison

/-- One line written back, then invalidated. -/
def lineFlush (s : State) (c line : Nat) : State :=
  modCore (lineWriteBack s c line) c fun k => { k with lines := mdel k.lines line }

/-- Room for a line in its set of 8 ways (R189): where the set is full one of its lines is replaced, in an order that is not
architectural (log entry 26). -/
def lineRoom (s : State) (c line : Nat) : State :=
  let lines := (getCore s c).lines
  if lines.length < 8 ∨ (mfind lines line).isSome = true then s
  else
    let set := (lines.map (fun e => e.1)).filter (fun l => Config.lineSet l == Config.lineSet line)
    if set.length < 8 then s
    else match set[(Config.lineVictim s.free).toNat]? with
      | some l => lineFlush (bumpFree s) c l
      | none => s

/-- A store performed in the line cache of core `c` (R189): allocated without fetching; not dirty when it is also sent to
its slice (R190). -/
def lineStore (s : State) (c task pa n val : Nat) (dirty : Bool) : State :=
  trackStore (modCore (lineRoom s c (pa / 128)) c fun k => { k with
    lines := mset k.lines (pa / 128) (lineBlend (mget k.lines (pa / 128) emptyLine) task (pa % 128) n val dirty) }) c pa

/-- The lines of a core's line cache that meet a physical range. -/
def linesIn (s : State) (c lo len : Nat) : List Nat :=
  ((getCore s c).lines.map (fun e => e.1)).filter (fun l => lo < l * 128 + 128 ∧ l * 128 < lo + len)

/-- Every dirty byte of the lines that meet a range written back. -/
def writeBackRange (s : State) (c lo len : Nat) : State :=
  (linesIn s c lo len).foldl (fun s l => lineWriteBack s c l) s

/-- The lines that meet a range written back, then invalidated. -/
def flushRange (s : State) (c lo len : Nat) : State :=
  (linesIn s c lo len).foldl (fun s l => lineFlush s c l) s

/-- The whole line cache written back. -/
def writeBackAll (s : State) (c : Nat) : State := writeBackRange s c 0 (2 ^ 48)
/-- The whole line cache written back, then invalidated. -/
def flushAll (s : State) (c : Nat) : State := flushRange s c 0 (2 ^ 48)

/-- Whether write-backs of a core's line cache into a range are on their way to their slices. -/
def cacheOut (s : State) (c lo len : Nat) : Bool :=
  s.stores.any (fun w => w.agent = .cache c && w.pa < lo + len && lo < w.pa + w.n)
/-- Whether a line of a core's line cache has dirty bytes. -/
def lineDirty (s : State) (c line : Nat) : Bool :=
  match mfind (getCore s c).lines line with | some l => l.dirty ≠ 0 | none => false

/-- The line fetched from the system cache and merged under its dirty bytes (R189); a mark of poison on either stays (R385). -/
def lineFill (s : State) (c task line : Nat) : State :=
  let r := sliceRead (lineRoom s c line) task (line * 128) 128
  let bad := linePoison r.1 line
  modCore r.1 c fun k =>
    let l := mget k.lines line emptyLine
    let filled := { l with
      val := blend (BitVec.ofNat 1024 (byteMask l.dirty.toNat 128)) l.val (BitVec.ofNat 1024 r.2)
      valid := BitVec.allOnes 128
      poison := l.poison || bad }
    { k with lines := mset k.lines line filled }

/-- Whether every byte of an access is valid in the line cache. -/
def lineHit (s : State) (c pa n : Nat) : Bool :=
  match mfind (getCore s c).lines (pa / 128) with
  | some l => bitsOf l.valid.toNat (pa % 128) n = ones n
  | none => false

/-- A load at the line cache, which fetches the line unless all its bytes are valid there (R189): the state, the bytes, and
whether the line is poisoned. -/
def lineLoad (s : State) (c task pa n : Nat) : State × Nat × Bool :=
  let s := if lineHit s c pa n then s else lineFill s c task (pa / 128)
  let l := mget (getCore s c).lines (pa / 128) emptyLine
  (s, bitsOf l.val.toNat (8 * (pa % 128)) (8 * n), l.poison)

/-! ### Scratchpad levels (R179, R200, R385) -/

/-- The key of a lane-private byte: group and address. -/
def laneKey (g a : Nat) : Nat := g * 65536 + a
/-- The poison key of a word of lane-private memory. -/
def lanePoison (g a : Nat) : Nat := 2 ^ 32 + (g * 65536 + a) / 32
/-- The core-scratchpad words `n` bytes meet. -/
def spadWords (a n : Nat) : List Nat := (List.range ((a + n - 1) / 32 + 1 - a / 32)).map (fun i => a / 32 + i)

/-- A write of `n` bytes clears the poison of each whole word it writes. -/
def clearPoison (bad : List Nat) (a n : Nat) : List Nat :=
  bad.filter (fun w => ¬ (w < 2 ^ 32 ∧ a ≤ w * 32 ∧ w * 32 + 32 ≤ a + n))

/-- A store to the core scratchpad. -/
def spadStore (s : State) (c a n val : Nat) : State :=
  modCore s c fun k => { k with scratch := writeNat k.scratch a n val, poison := clearPoison k.poison a n }

/-- Bytes of the core scratchpad. -/
def spadLoad (s : State) (c a n : Nat) : Nat := readNat (getCore s c).scratch a n
/-- Whether any of them is poisoned. -/
def spadBad (s : State) (c a n : Nat) : Bool := (spadWords a n).any (fun w => (getCore s c).poison.contains w)

/-- A store of 32 bytes, or of an element, to a lane group's memory. -/
def laneStore (s : State) (c g a n val : Nat) : State :=
  modCore s c fun k => { k with
    lane := writeNat k.lane (laneKey g a) n val
    poison := if n = 32 then k.poison.filter (· ≠ lanePoison g a) else k.poison }
/-- Bytes of a lane group's memory. -/
def laneLoad (s : State) (c g a n : Nat) : Nat := readNat (getCore s c).lane (laneKey g a) n
/-- Whether the word they lie in is poisoned. -/
def laneBad (s : State) (c g a : Nat) : Bool := (getCore s c).poison.contains (lanePoison g a)

/-- The key of a word of cluster-shared memory. -/
def cluKey (q a : Nat) : Nat := q * 2 ^ 20 + a / 32
/-- A store to cluster-shared memory or the chip scratchpad. -/
def levelStore (s : State) (q : Nat) (l : Level) (a n val : Nat) : State :=
  match l with
  | .cluster =>
    { s with
      cluster := mset s.cluster q (writeNat (mget s.cluster q []) a n val)
      badCluster := s.badCluster.filter (fun w => ¬ (a ≤ (w - q * 2 ^ 20) * 32 ∧ q * 2 ^ 20 ≤ w ∧
        (w - q * 2 ^ 20) * 32 + 32 ≤ a + n)) }
  | .chip =>
    { s with
      chip := writeNat s.chip a n val
      badChip := s.badChip.filter (fun w => ¬ (a ≤ w * 32 ∧ w * 32 + 32 ≤ a + n)) }
/-- Bytes of cluster-shared memory or the chip scratchpad, and whether a word of them is poisoned. -/
def levelLoad (s : State) (q : Nat) (l : Level) (a n : Nat) : Nat × Bool :=
  match l with
  | .cluster => (readNat (mget s.cluster q []) a n, (spadWords a n).any (fun w => s.badCluster.contains (q * 2 ^ 20 + w)))
  | .chip => (readNat s.chip a n, (spadWords a n).any s.badChip.contains)

/-! ### The overlay of a window (R269–R271) -/

/-- The key of a physical line at a position. -/
def ovlKey (line pos : Nat) : Nat := line * 64 + pos
/-- The parent of a position; 64 is ROOT. -/
def parentOf (w : Window) (p : Nat) : Nat := mget w.parents p 64
/-- A position and its ancestors, nearest first. -/
def chainOf (w : Window) (p : Nat) : Nat → List Nat
  | 0 => []
  | fuel + 1 => if 64 ≤ p then [] else p :: chainOf w (parentOf w p) fuel
/-- Whether a virtual address lies in the recurrent-state region. -/
def inRs (w : Window) (va : Nat) : Bool := w.rsbase ≤ va && va < w.rsbase + w.rslen

/-- A store performed at the window unit at a position: its bytes, marked where they lie in the recurrent-state region. -/
def ovlStore (w : Window) (pos pa va n val : Nat) : Window :=
  let key := ovlKey (pa / 128) pos
  let o := mget w.overlay key { val := 0, mask := 0, rs := 0 }
  let at' := pa % 128
  let bytes : QWord := BitVec.ofNat 128 (ones n * 2 ^ at')
  let rs : QWord := BitVec.ofNat 128
    (((List.range n).filter (fun i => inRs w (va + i))).foldl (fun acc i => acc + 2 ^ (at' + i)) 0)
  let o : Overlay := {
    val := blend (BitVec.ofNat 1024 (ones (8 * n) * 2 ^ (8 * at')))
      (BitVec.ofNat 1024 (val % 2 ^ (8 * n) * 2 ^ (8 * at'))) o.val
    mask := o.mask ||| bytes
    rs := (o.rs &&& ~~~ bytes) ||| rs }
  { w with overlay := mset w.overlay key o }

/-- The byte that a position wrote at a physical address, if it did. -/
def ovlByte (w : Window) (pos pa : Nat) : Option Nat :=
  match mfind w.overlay (ovlKey (pa / 128) pos) with
  | some o => if o.mask.getLsbD (pa % 128) then some (elem 8 o.val.toNat (pa % 128)) else none
  | none => none

/-- The write of the member of a list of positions that comes first in it. -/
def firstWrite (w : Window) (pa : Nat) (ps : List Nat) : Option Nat := ps.findSome? (fun p => ovlByte w p pa)

/-- A byte as a load through the window reads it, at the current position if one is given (R270, R271). -/
def windowByte (s : State) (w : Window) (cur : Option Nat) (pa va : Nat) : Nat :=
  let committed := (mget s.mem pa 0).toNat
  let along := match cur with | some p => chainOf w p 64 | none => []
  match firstWrite w pa along with
  | some b => b
  | none => if inRs w va then committed else (firstWrite w pa ((upTo 64).reverse)).getD committed

/-- Whether some of `n` bytes as a load through the window reads them is committed data. -/
def windowReaches (w : Window) (cur : Option Nat) (pa va n : Nat) : Bool :=
  (List.range n).any fun i =>
    (firstWrite w (pa + i) (match cur with | some p => chainOf w p 64 | none => [])).isNone &&
    (inRs w (va + i) || (firstWrite w (pa + i) (upTo 64)).isNone)

/-- `n` bytes through a window. -/
def windowRead (s : State) (w : Window) (cur : Option Nat) (pa va : Nat) : Nat → Nat
  | 0 => 0
  | n + 1 => windowByte s w cur pa va + 256 * windowRead s w cur (pa + 1) (va + 1) n

end Sys2Proof.Machine
end

