-- ==== Sys2Proof/Machine/Translate.lean ====
section
/-! DEFINITION. Translation: the page walk with first touch, the translation cache, window checks, and the checks of a global
access (R184–R188, R195, R356–R363). -/

namespace Sys2Proof.Machine

/-! ### The walk (R356–R358, R363) -/

/-- The low bits of a page of a size code (R27). -/
def pageBits : Nat → Nat
  | 0 => 17 | 1 => 27 | _ => 37

/-- How a walk ends: a leaf, or the code of a fault; or, within it, the next table. -/
inductive WalkEnd where
  | leaf (l : Leaf) (dom : Nat)
  | fault (code : Nat)
  | next (table : Nat)
  | touch (entry dom : Nat)
  deriving DecidableEq, Repr

/-- One entry at level `n`, as R357 reads it for an address, with the features enabled (R395): without HOSTMEM nothing is
reached from 2^46 up, and without RDUP no page is duplicated. FT is ignored in a valid entry (R363). -/
def readEntry (enable n e va : Nat) : WalkEnd :=
  let isLeaf := n = 3 || (bitOf e 6 && 1 ≤ n)
  let frame := e / 2 ^ 17 % 2 ^ 31 * 2 ^ 17
  let table := e / 2 ^ 13 % 2 ^ 35 * 2 ^ 13
  let size := 3 - n
  let reserved := bitsOf e 48 16 ≠ 0 || bitsOf e 11 2 ≠ 0
  if ¬ bitOf e 0 then (if n = 3 ∧ bitOf e 3 then .touch e (bitsOf e 8 3) else .fault codePageFault)
  else if n = 0 ∧ bitOf e 6 then .fault codePageFault
  else if reserved then .fault codePageFault
  else if isLeaf then
    if frame % 2 ^ pageBits size ≠ 0 ∨ isNowhere frame ∨ (bitOf enable 0 = false ∧ 2 ^ 46 ≤ frame) then .fault codePageFault
    else .leaf { va := alignDown va (pageBits size), frame := frame, size := size, perm := bitsOf e 1 2,
                 wel := bitOf e 5, watched := bitOf e 4, rdup := bitOf e 7 && !bitOf e 2 && bitOf enable 5 } (bitsOf e 8 3)
  else if bitsOf e 7 4 ≠ 0 ∨ bitsOf e 1 2 ≠ 0 ∨ bitsOf e 4 2 ≠ 0 ∨ ¬ isLpddr table then .fault codePageFault
  else .next table

/-- Whether every 128 KiB frame of a page is owned by a domain (R358); unlisted frames belong to domain 0, and
a retired one (R386) to none. -/
def framesOwned (s : State) (frame size dom : Nat) : Bool :=
  let lo := frame / 2 ^ 17
  let n := 2 ^ (pageBits size - 17)
  let mine := s.owners.filter (fun e => lo ≤ e.1 && e.1 < lo + n)
  mine.all (fun e => e.2 = dom) && (dom = 0 || mine.length = n) &&
    !s.retiredFrames.any (fun f => lo ≤ f && f < lo + n)

/-- A partition's encryption domain; 0 where there is no partition. -/
def domainOf (s : State) (part : Nat) : Nat := match mfind s.parts part with | some p => p.dom | none => 0

/-- Whether a leaf's domain is allowed the partition and is its frames' owner (R358). -/
def domainOk (s : State) (part : Nat) (l : Leaf) (dom : Nat) : Bool :=
  (dom = 0 || dom = domainOf s part) &&
  (if isLpddr l.frame then framesOwned s l.frame l.size dom else dom = 0)

/-- Every replica of the page of an address invalidated at once (R229). -/
def dropReplicas (s : State) (pa : Nat) : State :=
  let here := fun (a : Nat) => a / 2 ^ 17 = pa / 2 ^ 17
  { s with
    replicas := s.replicas.filter (fun r => r.2 ≠ pa / 2 ^ 17)
    stores := s.stores.map (fun w => if here w.pa then { w with acks := [] } else w) }

/-- First touch (R363): a frame of the kettle of the entry's domain is written into the entry at its slice, indivisibly with
the walk's read of it, so that the compare never fails; the frame is then owned by the partition's domain. An empty kettle ends
the walk in PAGE_FAULT. -/
def firstTouch (s : State) (part task pa e dom : Nat) : State × Option Nat :=
  match mget s.kettles dom [] with
  | [] => (s, none)
  | f :: rest =>
    let e := e - e / 2 ^ 17 % 2 ^ 31 * 2 ^ 17 + f * 2 ^ 17 - 8 + 1
    let s := { s with kettles := mset s.kettles dom rest, owners := mput s.owners f (domainOf s part) 0 }
    (sliceStore (dropReplicas s pa) .unit task pa 8 e (ones 8), some e)

/-- The walk over the levels left, from a table (R356). -/
def walkFrom (s : State) (part task va : Nat) (table : Nat) : (levels : List Nat) → State × WalkEnd
  | [] => (s, .fault codePageFault)
  | n :: rest =>
    let pa := table + va / 2 ^ (47 - 10 * n) % 1024 * 8
    let (s, e) := sliceRead s task pa 8
    match readEntry s.control.enable n e va with
    | .next t => walkFrom s part task va t rest
    | .touch e dom =>
      match firstTouch s part task pa e dom with
      | (s, none) => (s, .fault (codeNoFrame dom))
      | (s, some e) =>
        match readEntry s.control.enable n e va with
        | .leaf l d => (s, if domainOk s part l d then .leaf l d else .fault codePerm)
        | w => (s, w)
    | .leaf l d => (s, if domainOk s part l d then .leaf l d else .fault codePerm)
    | w => (s, w)

/-- A page walk of a partition (R356): a leaf or the code of a fault. -/
def walk (s : State) (part task va : Nat) : State × (Leaf ⊕ Nat) :=
  match mfind s.parts part with
  | none => (s, .inr codePageFault)
  | some p =>
    match walkFrom s part task va p.ptroot [0, 1, 2, 3] with
    | (s, .leaf l _) => (s, .inl l)
    | (s, .fault c) => (s, .inr c)
    | (s, _) => (s, .inr codePageFault)

/-! ### The translation cache (R186, R359) -/

/-- The key of a translation. -/
def tlbKey (part va : Nat) : Nat := part * 2 ^ 57 + va
/-- A lookup: the leaf whose page holds the address. -/
def tlbLookup (s : State) (c part va : Nat) : Option Leaf :=
  [0, 1, 2].findSome? fun z =>
    match mfind (getCore s c).tlb (tlbKey part (alignDown va (pageBits z))) with
    | some l => if l.size = z then some l else none
    | none => none
/-- A leaf kept; past 1,024 entries the first is replaced. -/
def tlbFill (s : State) (c part : Nat) (l : Leaf) : State :=
  modCore s c fun k => { k with
    tlb := mset (if 1024 ≤ k.tlb.length then k.tlb.drop 1 else k.tlb) (tlbKey part l.va) l }

/-- A translation as XLT makes it: from the cache, or by a walk that fills it. -/
def translate (s : State) (c part task va : Nat) : State × (Leaf ⊕ Nat) :=
  match tlbLookup s c part va with
  | some l => (s, .inl l)
  | none =>
    match walk s part task va with
    | (s, .inl l) => (tlbFill s c part l, .inl l)
    | (s, .inr e) => (s, .inr e)

/-- The physical address of an address in a leaf's page. -/
def leafPa (l : Leaf) (va : Nat) : Nat := l.frame + va % 2 ^ pageBits l.size

/-- A range translated as XLT would, page by page, into segments; the code of the first fault and its address otherwise.
Addresses are of 57 bits, as in XLT. -/
def translateRange (s : State) (c part task : Nat) (va len : Nat) : (fuel : Nat) → State × (List (Seg × Leaf) ⊕ (Nat × Nat))
  | 0 => (s, .inl [])
  | fuel + 1 =>
    if len = 0 then (s, .inl [])
    else
      let va := va % 2 ^ 57
      match translate s c part task va with
      | (s, .inr e) => (s, .inr (e, va))
      | (s, .inl l) =>
        let k := min len (2 ^ pageBits l.size - va % 2 ^ pageBits l.size)
        match translateRange s c part task (va + k) (len - k) fuel with
        | (s, .inr e) => (s, .inr e)
        | (s, .inl rest) => (s, .inl (({ va := va, pa := leafPa l va, len := k }, l) :: rest))

/-! ### Windows a handle may be bound to (R186, R266, R275) -/

/-- A window. -/
def getWindow (s : State) (w : Nat) : Window := mget s.windows w {}
/-- Whether a window is open in a partition. -/
def windowOpen (s : State) (part w : Nat) : Bool := (getWindow s w).opened && (getWindow s w).part = part
/-- The window a binding names. -/
def bindWindow (b : Nat) : Nat := bitsOf b 8 4
/-- Whether a bound handle may still be used (R275). -/
def bindUsable (s : State) (part b : Nat) : Bool :=
  let w := getWindow s (bindWindow b)
  windowOpen s part (bindWindow b) && !w.closing && w.count % 256 = b % 256
/-- The binding XLT.W records: the window and its open count (R27). -/
def bindOf (s : State) (w : Nat) : Nat := 2 ^ 12 + w * 2 ^ 8 + (getWindow s w).count % 256

/-- The handle a leaf gives, or the one holding a fault (R184, R186). -/
def handleOf (l : Leaf) (va bind : Nat) (gen : BitVec 8) : Handle where
  valid := true
  perm := BitVec.ofNat 2 l.perm
  size := BitVec.ofNat 2 l.size
  base := BitVec.ofNat 48 l.frame
  va := BitVec.ofNat 57 va
  bind := BitVec.ofNat 13 bind
  gen := gen
  watched := l.watched
  rdup := l.rdup
/-- A handle holding a walk's fault. -/
def handleFault (code va bind : Nat) (gen : BitVec 8) : Handle where
  va := BitVec.ofNat 57 va
  bind := BitVec.ofNat 13 bind
  gen := gen
  fault := code
/-- A handle whose walk is in progress. -/
def handlePending (va bind : Nat) (gen : BitVec 8) : Handle where
  pending := true
  va := BitVec.ofNat 57 va
  bind := BitVec.ofNat 13 bind
  gen := gen

/-- A leaf with the window checks of R186 made. -/
def leafHandle (s : State) (part : Nat) (l : Leaf) (va bind : Nat) (gen : BitVec 8) : Handle :=
  if 2 ^ 12 ≤ bind ∧ ¬ (l.wel ∧ windowOpen s part (bindWindow bind)) then handleFault codePerm va bind gen
  else handleOf l va bind gen

/-- Whether a partition's shutter has yet to be acknowledged by a core: the walks of its pending handles are restarted then,
and end only after it (R360). -/
def shutPends (s : State) (part c : Nat) : Bool :=
  match (mfind s.parts part).bind (fun p => p.shutter) with | some r => r.agents.contains c | none => false

/-- TRANSLATION_WALK_COMPLETE (R186): the walk of a pending handle ends. -/
def walkHandle (s : State) (c x h : Nat) : State :=
  let k := getCtx s c x
  let hd := readH k h
  if ¬ hd.pending ∨ shutPends s k.part c = true then s
  else
    let va := hd.va.toNat
    match walk s k.part k.task va with
    | (s, .inl l) =>
      let s := tlbFill s c k.part l
      modCtx s c x fun k => writeH k h (leafHandle s k.part l va hd.bind.toNat hd.gen)
    | (s, .inr e) => modCtx s c x fun k => writeH k h (handleFault e va hd.bind.toNat hd.gen)

/-- A handle the shutter revoked (R184). -/
def isRevoked (h : Handle) : Bool := h.revoked && !h.valid && !h.pending
/-- An access of a stalled bundle waits at a handle: if it is revoked, it is to be translated anew (R362). -/
def seekHandle (h : Nat) (k : Ctx) : Ctx :=
  if isRevoked (readH k h) then writeH k h { readH k h with sought := true } else k

/-- A context's requests at the hatches of a frame that its handle no longer reaches, withdrawn: it asks anew (R218, R362). -/
def leaveFrame (s : State) (c x : Nat) (old new : Handle) : State :=
  let part := (getCtx s c x).part
  if old.base = new.base then s
  else { s with hatchq := s.hatchq.filter fun r =>
    ¬ (r.2 = (c, x, part) ∧ old.base.toNat ≤ r.1 ∧ r.1 < old.base.toNat + 2 ^ pageBits old.size.toNat) }

/-- HANDLE_RETRANSLATE (R362): a revoked handle at which an access waits is translated anew from its virtual address, keeping
its binding and generation. -/
def retranslate (s : State) (c x h : Nat) : State :=
  let k := getCtx s c x
  let hd := readH k h
  if ¬ isRevoked hd ∨ hd.sought = false ∨ k.stall = 0 then s
  else
    let va := hd.va.toNat
    match translate s c k.part k.task va with
    | (s, .inl l) =>
      let hd' := if 2 ^ 12 ≤ hd.bind.toNat ∧ ¬ l.wel then handleFault codePerm va hd.bind.toNat hd.gen
        else handleOf l va hd.bind.toNat hd.gen
      modCtx (leaveFrame s c x hd hd') c x fun k => writeH k h hd'
    | (s, .inr e) => modCtx s c x fun k => writeH k h (handleFault e va hd.bind.toNat hd.gen)

/-! ### The checks of a global access (R185, R188, R195) -/

/-- What a global access may not do beyond R195 (R207, R216): go through a bound handle, reach an uncached page, or leave
LPDDR-6. -/
structure Bars where
  bound : Bool := false
  uncached : Bool := false
  notLpddr : Bool := false
  deriving DecidableEq, Repr

/-- The answer of the checks. -/
inductive Checked where
  | ok (p : Place)
  | stall
  | fault (t : Trap)
  deriving DecidableEq, Repr

/-- An access of `z` bytes at offset `off` through handle `h`, checked in the order of R195. The further PERM cases of R207 and R216
have no place in that order: of a valid handle they come first here (log entry 96). -/
def checkGlobal (s : State) (k : Ctx) (h : Nat) (off : Int) (z : Nat) (wantR wantW : Bool) (bars : Bars) : Checked :=
  let hd := readH k h
  let obj := h + hd.gen.toNat * 256
  let va := narrow 57 ((hd.va.toNat + off) / (z : Int) * z)
  let pg := 2 ^ pageBits hd.size.toNat
  let o := ((hd.va.toNat % pg : Nat) + off) / (z : Int) * z
  let base := hd.base.toNat
  let bound := 2 ^ 12 ≤ hd.bind.toNat
  if ¬ hd.valid ∧ ¬ hd.pending ∧ ¬ hd.revoked ∧ hd.fault = 0 then .fault (trapOf codePerm 0 obj)
  else if hd.valid ∧ (bars.bound && bound || bars.uncached && isMmio base || bars.notLpddr && !isLpddr base) then
    .fault (trapOf codePerm va obj)
  else if hd.pending then .stall
  else if hd.fault ≠ 0 then .fault (trapOf hd.fault va obj)
  else if ¬ hd.valid then .stall
  else if bound ∧ ¬ bindUsable s k.part hd.bind.toNat then .fault (trapOf codePerm va obj)
  else if o < 0 ∨ pg < o + z then .fault (trapOf codeHandleBound va obj)
  else if (wantR ∧ ¬ hd.perm.getLsbD 0) ∨ (wantW ∧ ¬ hd.perm.getLsbD 1) then .fault (trapOf codePerm va obj)
  else .ok { pa := base + o.toNat, va := va, z := obj, watched := hd.watched, rdup := hd.rdup,
             bind := if bound then hd.bind.toNat else 0,
             cur := if bound ∧ k.curw = some (bindWindow hd.bind.toNat) then k.curp else 64, size := hd.size.toNat }

/-! ### Carves (R180) and the operand guard (R162) -/

/-- The sizes of the levels: core, cluster, chip, lane-private (R179). -/
def levelSize (l : Nat) : Nat := nth [12 * 2 ^ 20, 16 * 2 ^ 20, 156 * 2 ^ 20, 2 ^ 16] l 0
/-- Whether `n` bytes at an address lie in the region's carve of a level. -/
def inCarve (s : State) (k : Ctx) (l a n : Nat) : Bool :=
  let r := nth (ctxRegion s k).carves l (0, 0)
  r.1 ≤ a && a + n ≤ r.1 + r.2 && a + n ≤ levelSize l
/-- The fault of an access outside it: the level address and the level. -/
def carveTrap (l a : Nat) : Trap := trapOf codeCarve (a % 2 ^ 57) l

/-- Whether `n` bytes meet a guarded range that this access waits for: a read range holds back stores, a write range every
access. -/
def guardMeets (s : State) (c a n : Nat) (store : Bool) : Bool :=
  (getCore s c).guard.any (fun g => (g.write || store) && g.lo < a + n && a < g.lo + g.size)

end Sys2Proof.Machine
end

