-- ==== Sys2Proof/Machine/Access.lean ====
section
/-! DEFINITION. Class A, memory access, and the atomics of class B (R178–R207). Each definition is one instruction's
meaning; the shapes they share come first. Loads from scratchpad levels have fixed latencies and read as their bundle
issues; other loads, atomics, and stores beyond the core are work performed at an INTERLOCKED_COMPLETE. -/

namespace Sys2Proof.Machine

/-! ### Performing an access (R182, R189, R190, R206) -/

/-- The bytes a load of a kind takes. -/
def LoadAs.bytes : LoadAs → Nat
  | .signed n => n
  | .unsigned n => n
  | .vector => 128

/-- A load's register value. -/
def LoadAs.extend (as : LoadAs) (v : Nat) : Nat :=
  match as with
  | .signed n => narrow 64 (Machine.signed (8 * n) v)
  | .unsigned _ => v
  | .vector => v

/-- The newest piece of work of a slot given its kind: a unit's answer worked out as the bundle issues. -/
def setWork (s : State) (p : Port) (kind : WorkKind) : State :=
  modCtx s p.core p.ctx fun k =>
    match k.works.reverse.find? (fun w => w.pc = p.pc ∧ w.slot = p.pos) with
    | some n => { k with works := k.works.map fun w => if w.id = n.id then { w with kind := kind } else w }
    | none => k
/-- The same, for a signed 64-bit status. -/
def setStatus (s : State) (p : Port) (v : Int) : State := setWork s p (.value (BitVec.ofNat 1024 (narrow 64 v)) 0)

/-- Work put in hand outside a slot's own list: a store that must wait for an earlier access (R182). -/
def pushWork (s : State) (p : Port) (r : Reg) (kind : WorkKind) : State :=
  let w : Work := { id := s.seq, reg := r, kind := kind, squash := false, pc := p.pc, slot := p.pos }
  modCtx { s with seq := s.seq + 1 } p.core p.ctx fun k => { k with works := k.works ++ [w] }

/-- A piece of work gone from its context, its result written and its flags set (R57, R102); a hold on it is gone too. Work
whose load faulted brings no data (R65). -/
def landWork (w : Work) (v fl : Nat) (k : Ctx) : Ctx :=
  let k := { k with works := k.works.filter (fun u => u.id ≠ w.id), hold := k.hold.filter (· ≠ .work w.id) }
  if w.kind = .faulted then k else orFlags (landReg k w.reg (BitVec.allOnes 1024) (BitVec.ofNat 1024 v)) fl

/-- The fault held with poison that a piece of work met (R197). -/
def poisonOf (w : Work) (va : Nat) : Deferred where
  seq := w.id
  reg := w.reg
  squash := w.squash
  trap := { trapOf codePoison va with pc := w.pc, deferred := true, mask := 2 ^ w.slot }
/-- Poison that a piece of work met (R197): its register is written, and the fault is held with it. -/
def landPoison (s : State) (c x : Nat) (w : Work) (va : Nat) : State :=
  let v := (Config.poisonData s.free).toNat
  modCtx (bumpFree s) c x fun k => let k := landWork w v 0 k; { k with deferred := k.deferred ++ [poisonOf w va] }

/-- The bytes a piece of work touches: the space (0 global, 1 cluster-shared, 2 the chip scratchpad), address, length. -/
def footprint : WorkKind → Option (Nat × Nat × Nat)
  | .gload p as => some (0, p.pa, as.bytes)
  | .gstore p n _ => some (0, p.pa, n)
  | .levelLoad l a => some (if l = .cluster then 1 else 2, a, 128)
  | .levelStore l a _ => some (if l = .cluster then 1 else 2, a, 128)
  | .atomic op _ p _ _ => some (0, p.pa, if op = .fadd then 4 else 8)
  | _ => none

/-- Whether two footprints share a byte. -/
def overlaps (a b : Nat × Nat × Nat) : Bool := a.1 = b.1 && a.2.1 < b.2.1 + b.2.2 && b.2.1 < a.2.1 + a.2.2

/-- Whether some work of a list meets a footprint. -/
def worksMeet (ws : List Work) (f : Nat × Nat × Nat) : Bool :=
  ws.any (fun w => match footprint w.kind with | some g => overlaps f g | none => false)

/-- Whether a store of this context or core to these bytes is still on its way to its slice. -/
def storesMeet (s : State) (c : Nat) (pa n : Nat) : Bool :=
  s.stores.any (fun w => (match w.agent with | .ctx d _ => d = c | .cache d => d = c | _ => false) && w.pa < pa + n && pa < w.pa + w.n)

/-- The replica of a read-duplicated page's piece made on first read, if the area has a free piece (R230); replicas are
keyed by partition * 16 + cluster. None is made while a store to the piece is on its way, whose acknowledgements are being
gathered (R229). Making it changes no count of lines moved: duplication changes only timing and cluster-shared energy. -/
def replicaFill (s : State) (c part : Nat) (pa : Nat) : State :=
  if isSampler c then s
  else
    let key := part * 16 + clusterOf c
    let piece := pa / 2 ^ 17
    match mfind s.parts part with
    | none => s
    | some p =>
      if s.replicas.contains (key, piece) ∨ s.stores.any (fun w => w.pa / 2 ^ 17 = piece) = true then s
      else if countIf (fun r => r.1 = key) s.replicas < p.replica.2 / 2 ^ 17 then
        { s with replicas := s.replicas ++ [(key, piece)] }
      else s

/-- A global load performed (R189, R190, R270): its bytes, and whether one is poisoned. -/
def globalLoad (s : State) (c x : Nat) (p : Place) (n : Nat) : State × Nat × Bool :=
  let k := getCtx s c x
  if p.bind ≠ 0 then
    let s := sliceFetchAll s k.task p.pa n
    let w := getWindow s (bindWindow p.bind)
    let cur := if p.cur < 64 then some p.cur else none
    (s, windowRead s w cur p.pa p.va n, linePoison s (p.pa / 128) && windowReaches w cur p.pa p.va n)
  else if isMmio p.pa then
    (bumpFree s, bitsOf (Config.mmioRead s.free).toNat 0 (8 * n), false)
  else
    let s := if p.rdup && isLpddr p.pa then replicaFill s c k.part p.pa else s
    lineLoad s c k.task p.pa n

/-- A global store performed (R189, R190, R215, R269). -/
def globalStore (s : State) (c x : Nat) (p : Place) (n v : Nat) : State :=
  let k := getCtx s c x
  if p.bind ≠ 0 then
    let w := bindWindow p.bind
    { s with windows := mset s.windows w (ovlStore (getWindow s w) p.cur p.pa p.va n v) }
  else if isMmio p.pa then trackStore { s with mmio := s.mmio ++ [(p.pa, n, v % 2 ^ (8 * n))] } c p.pa
  else if p.watched then
    let s := lineStore (cluWriteBack s (clusterOf c) (p.pa / 128)) c k.task p.pa n v false
    queueStore s (.ctx c x) k.task p.pa n (v % 2 ^ (8 * n)) (ones n) (replicasOf s p.pa)
  else lineStore s c k.task p.pa n v true

/-- Whether work writes a watched page, a store or an atomic: a context's reach their slices in issue order (R190, R260). -/
def workWatched (w : Work) : Bool :=
  match w.kind with
  | .gstore p _ _ => p.watched
  | .atomic _ _ p _ _ => p.watched
  | _ => false

/-- Whether a store must wait for the context's earlier accesses (R182, R190): to the same bytes, to an uncached page, or
to a watched page after one that waits itself. -/
def storeWaits (k : Ctx) (p : Place) (n : Nat) : Bool :=
  isMmio p.pa || worksMeet k.works (0, p.pa, n) || (p.watched && k.works.any workWatched)

/-- Whether a piece of work is a load through a window of bytes that an access meets. -/
def windowLoad (p : Place) (n : Nat) (w : Work) : Bool :=
  match w.kind with
  | .gload q as => q.bind ≠ 0 && bindWindow q.bind = bindWindow p.bind && overlaps (0, p.pa, n) (0, q.pa, as.bytes)
  | _ => false

/-- A load through a window performed at its unit at once, before a store of its own bundle to its bytes (R182, R270): its value
is fixed, and it lands later. Poison is held with it (R197). -/
def fixLoad (c x : Nat) (s : State) (w : Work) : State :=
  match w.kind with
  | .gload q as =>
    let r := globalLoad s c x q as.bytes
    let set := fun (v : Nat) (k : Ctx) =>
      { k with works := k.works.map fun u => if u.id = w.id then { u with kind := .value (BitVec.ofNat 1024 v) 0 } else u }
    if r.2.2 then
      modCtx (bumpFree r.1) c x fun k =>
        let k := set (Config.poisonData r.1.free).toNat k
        { k with deferred := k.deferred ++ [poisonOf w q.va] }
    else modCtx r.1 c x (set (as.extend r.2.1))
  | _ => s

/-- A store slot's effect: performed at once, or put in hand. A store through a window was accepted before its bundle issued, and
is performed at once (R269). -/
def storeNow (port : Port) (p : Place) (n v : Nat) (s : State) : State :=
  let k := getCtx s port.core port.ctx
  if p.bind ≠ 0 then
    globalStore ((k.works.filter (windowLoad p n)).foldl (fixLoad port.core port.ctx) s) port.core port.ctx p n v
  else if storeWaits k p n then pushWork s port .none (.gstore p n (v % 2 ^ (8 * n)))
  else globalStore s port.core port.ctx p n v

/-- The word an atomic computes, from the old word, the operand and the compare value (R205); `none` writes nothing. -/
def atomicNew (op : AtomOp) (old a cmp : Nat) : Option Nat × Nat :=
  let w : Word := BitVec.ofNat 64 old
  let b : Word := BitVec.ofNat 64 a
  match op with
  | .add => (some (w + b).toNat, 0)
  | .and => (some (w &&& b).toNat, 0)
  | .or => (some (w ||| b).toNat, 0)
  | .xor => (some (w ^^^ b).toNat, 0)
  | .min => (some (if w.slt b then w else b).toNat, 0)
  | .max => (some (if w.slt b then b else w).toNat, 0)
  | .minn => (some (if w.ult b then w else b).toNat, 0)
  | .maxn => (some (if w.ult b then b else w).toNat, 0)
  | .swp => (some a, 0)
  | .cas => (if old = a then some cmp else none, 0)
  | .fadd =>
    let r := finish fmtF32 (addV (decodeF fmtF32 old) (decodeF fmtF32 (a % 2 ^ 32)))
    (some r.bits, r.fl)

/-- An atomic's home (R206): on a sampler core .clu acts as .dev (R209); a watched page's atomics are performed at the slice
whatever their scope (R207). -/
def atomicHome (c : Nat) (sc : Scope) (p : Place) : Scope :=
  if p.watched then .dev else if isSampler c && sc = .clu then .dev else sc

/-- An atomic performed (R205, R206): the old word, the flags, and whether the word is poisoned, in which case nothing is
written (R385); or nothing yet, while a store to its line is on the way to the slice. An atomic so performed counts for the
core's write signatures whether or not it writes (R215). -/
def atomicPerform (s : State) (c x : Nat) (op : AtomOp) (sc : Scope) (p : Place) (a cmp : Nat) :
    State × Option (Nat × Nat × Bool) :=
  let n := if op = .fadd then 4 else 8
  let task := (getCtx s c x).task
  let line := p.pa / 128
  match atomicHome c sc p with
  | .core =>
    let (s, old, bad) := lineLoad s c task p.pa n
    let (new, fl) := atomicNew op old a cmp
    if bad then (s, some (old, 0, true))
    else
      let s := match new with | some v => lineStore s c task p.pa n v true | none => s
      (trackStore s c p.pa, some (old, fl, false))
  | .clu =>
    let s := lineFlush s c line
    if lineBusy s line then (s, none)
    else
      let cl := clusterOf c
      let (s, e) := match cluFind s cl line with
        | some e => (s, e)
        | none =>
          let (s, v) := sliceRead s task (line * 128) 128
          (s, { cluster := cl, line := line, val := v, mask := 0, task := task })
      let put := fun (s : State) (e : CluLine) => { s with cluLines := (cluDrop s cl line).cluLines ++ [e] }
      let at_ := p.pa % 128
      let old := bitsOf e.val (8 * at_) (8 * n)
      let (new, fl) := atomicNew op old a cmp
      if linePoison s line then (put s e, some (old, 0, true))
      else
        let e := match new with
          | some w => { e with
              val := e.val - old * 2 ^ (8 * at_) + w % 2 ^ (8 * n) * 2 ^ (8 * at_)
              mask := e.mask ||| ones n * 2 ^ at_
              task := task }
          | none => e
        (trackStore (put s e) c p.pa, some (old, fl, false))
  | _ =>
    let s := cluRecall (lineFlush s c line) line
    if lineBusy s line then (s, none)
    else
      let (s, old) := sliceRead s task p.pa n
      let (new, fl) := atomicNew op old a cmp
      if linePoison s line then (s, some (old, 0, true))
      else
        let s := match new with
          | some w =>
            let v := w % 2 ^ (8 * n)
            if replicasOf s p.pa = [] then sliceStore s (.ctx c x) task p.pa n v (ones n)
            else queueStore s (.ctx c x) task p.pa n v (ones n) (replicasOf s p.pa)
          | none => s
        (trackStore s c p.pa, some (old, fl, false))

/-! ### Slots of class A -/

/-- A load's register, scalar or vector. -/
def loadReg (as : LoadAs) (d : BitVec 6) : Reg := match as with | .vector => .v d.toNat | _ => sReg d.toNat

/-- The post-increment of M2 (R194): the address register, when it is written. -/
def postReg (m : BitVec 2) (x : BitVec 6) : List Reg := if m = 0 then [] else [sReg x.toNat]
/-- The registers a post-increment mode reads: the address register, and for M2 = 10 the next one. -/
def postReads (m : BitVec 2) (x : BitVec 6) : List Reg :=
  sReg x.toNat :: (if m = 2 then [sReg (x.toNat + 1)] else [])
/-- The post-increment itself, of latency 1. -/
def postOut (k : Ctx) (m : BitVec 2) (x : BitVec 6) (size : Nat) : List Out :=
  let v := readS k x.toNat
  let w := BitVec.ofNat 64 size
  let out := fun (r : Word) => [({ reg := sReg x.toNat, val := r.toNat, lat := 1, keep := true } : Out)]
  if m = 0 then [] else if m = 1 then out (v + w) else if m = 2 then out (v + readS k (x.toNat + 1)) else out (v - w)

/-- M2 is in rule for its address register (R40). -/
def postOk (m : BitVec 2) (x : BitVec 6) : Bool := !(m == 2 && x == 63)

/-- The offset of a global form: s[x] + sext(X) * z (R185). -/
def globalOff (e : Ext) (k : Ctx) (x : BitVec 6) (z : Nat) : Int := (readS k x.toNat).toInt + signed 9 e.x * z

/-- A memory slot (R192): every class A slot has a scalar guard and uses a memory port. -/
def memSlot (g : BitVec 4) (ok : Bool) (reads writes var : List Reg) (sampler : Bool) (run : Port → State → SlotRes) :
    SlotInfo where
  legal := ok
  res := .memory
  guard := .scalar g.toNat
  reads := reads
  writes := writes
  varWrites := var
  sampler := sampler
  run := run

/-- A load through a handle (R198): its fault travels with it when Q = 1 (R65). -/
def globalLoadOp (as : LoadAs) (g : BitVec 4) (q : BitVec 1) (d : BitVec 6) (h : BitVec 4) (x : BitVec 6) (m : BitVec 2) :
    Op := fun e =>
  let r := loadReg as d
  let z := as.bytes
  let isV := as = .vector
  { memSlot g (postOk m x && !(m != 0 && !isV && d == x) && !(isV && d == 63)) (postReads m x ++ [.h h.toNat])
      (r :: postReg m x) [r] true (fun p s =>
        let k := p.reads s
        let post := postOut k m x z
        match checkGlobal s k h.toNat (globalOff e k x z) z true false { uncached := q = 1 } with
        | .ok pl => .go { outs := post, works := [{ reg := r, kind := .gload pl as }] }
        | .stall => .stall
        | .fault t =>
          if q = 1 then .go { outs := post, works := [{ reg := r, kind := .faulted, fault := some t }] } else .trap t)
    with squash := q = 1 }

/-- Whether work is a store into a window. -/
def intoWindow (w : Nat) (u : Work) : Bool :=
  match u.kind with | .gstore p _ _ => p.bind ≠ 0 && bindWindow p.bind = w | _ => false

/-- The overlay lines a window holds, with those that accepted stores still in hand will take (R269). -/
def ovlClaimed (s : State) (w : Nat) : List Nat :=
  ((getWindow s w).overlay.map (fun e => e.1) ++ s.ctxs.flatMap (fun e => (e.2.works.filter (intoWindow w)).filterMap
    (fun u => match u.kind with | .gstore p _ _ => some (ovlKey (p.pa / 128) p.cur) | _ => none))).eraseDups

/-- Whether a store through a window handle may be performed (R269): its fault, or none. -/
def windowStoreFault (s : State) (pl : Place) : Option Trap :=
  let w := bindWindow pl.bind
  if 64 ≤ pl.cur then some (trapOf codeWindowState 0 w)
  else if ¬ (ovlClaimed s w).contains (ovlKey (pl.pa / 128) pl.cur) ∧ (getWindow s w).ovl ≤ (ovlClaimed s w).length then
    some (trapOf codeWindowFull pl.va w)
  else none

/-- Whether a commit of this context to a window is under way: its later operations on the window wait for it (R273). -/
def committing (k : Ctx) (w : Nat) : Bool :=
  k.works.any (fun u => match u.kind with | .unit (.wcommit v _) => v = w | _ => false)

/-- A store through a handle (R198, R269): one through a window waits for the context's earlier accesses to its bytes (R182) and
for its core's stores to their line on their way,
and then to be accepted by the window unit, so that it is in the overlay once its bundle has issued. -/
def globalStoreOp (z : Nat) (isV : Bool) (g : BitVec 4) (d : BitVec 6) (h : BitVec 4) (x : BitVec 6) (m : BitVec 2) : Op :=
  fun e =>
  let r := if isV then vReg d.toNat else sReg d.toNat
  { memSlot g (postOk m x) (r :: postReads m x ++ [.h h.toNat]) (postReg m x) [] true (fun p s =>
      let k := p.reads s
      match checkGlobal s k h.toNat (globalOff e k x z) z false true {} with
      | .stall => .stall
      | .fault t => .trap t
      | .ok pl =>
        let v := if isV then (readV k d.toNat).toNat else (readS k d.toNat).toNat
        let go : Effect := { outs := postOut k m x z, act := storeNow p pl z v }
        if pl.bind = 0 then .go go
        else if committing k (bindWindow pl.bind) || worksMeet k.works (0, pl.pa, z) ||
            storesMeet s p.core (pl.pa / 128 * 128) 128 then .stall
        else match windowStoreFault s pl with
          | some t => .trap t
          | none =>
            if k.wack then
              .go { go with act := fun s => modCtx (go.act s) p.core p.ctx fun k => { k with wack := false }, turn := true }
            else .stallAsk fun s => modCtx s p.core p.ctx fun k => { k with wreq := true })
    with inTurn := true }

/-- The scratchpad address of R193: s[x] + o * u, its low bits taken as zero. The sum is taken modulo 2^64, which reads s[x]
as signed wherever the sum lies in a level; R193 does not say which (log entry 79). -/
def spadAddr (e : Ext) (k : Ctx) (o : BitVec 4) (x : BitVec 6) (u : Nat) : Nat :=
  let off : Int := if e.hdr then signed 13 (o.toNat + e.x * 16) else signed 4 o.toNat
  (readS k x.toNat + wordOfInt (off * u)).toNat / u * u

/-- A load of `n` bytes from the core scratchpad (R199). -/
def spadLoadOp (n : Nat) (as : LoadAs) (g : BitVec 4) (q : BitVec 1) (d : BitVec 6) (o : BitVec 4) (x : BitVec 6)
    (m : BitVec 2) : Op := fun e =>
  let r := loadReg as d
  let isV := as = .vector
  { memSlot g (postOk m x && !(m != 0 && !isV && d == x) && !(isV && d == 63)) (postReads m x) (r :: postReg m x) [] false
      (fun p s =>
        let k := p.reads s
        let a := spadAddr e k o x n
        let post := postOut k m x n
        if guardMeets s p.core a n false then .stall
        else if ¬ inCarve s k 0 a n then
          if q = 1 then .go { outs := { reg := r, val := 0, lat := 8, fault := some (carveTrap 0 a) } :: post }
          else .trap (carveTrap 0 a)
        else if spadBad s p.core a n then
          .go { outs := { reg := r, val := (Config.poisonData s.free).toNat, lat := 8, spad := true,
                          fault := some (trapOf codePoison (a % 2 ^ 57)) } :: post
                words := spadWords a n, act := bumpFree }
        else .go { outs := { reg := r, val := spadLoad s p.core a n, lat := 8, spad := true } :: post
                   words := spadWords a n })
    with squash := q = 1 }

/-- A store of `n` bytes to the core scratchpad (R199). -/
def spadStoreOp (n : Nat) (isV : Bool) (g : BitVec 4) (d : BitVec 6) (o : BitVec 4) (x : BitVec 6) (m : BitVec 2) : Op :=
  fun e =>
  let r := if isV then vReg d.toNat else sReg d.toNat
  memSlot g (postOk m x) (r :: postReads m x) (postReg m x) [] false fun p s =>
    let k := p.reads s
    let a := spadAddr e k o x n
    let v := if isV then (readV k d.toNat).toNat else (readS k d.toNat).toNat
    if guardMeets s p.core a n true then .stall
    else if ¬ inCarve s k 0 a n then .trap (carveTrap 0 a)
    else .go { outs := postOut k m x n, words := spadWords a n, act := fun s => spadStore s p.core a n v }

/-- The carve index of a level. -/
def Level.index : Level → Nat
  | .cluster => 1
  | .chip => 2

/-- A vector load from cluster-shared memory or the chip scratchpad, interlocked (R199). -/
def levelLoadOp (l : Level) (sampler : Bool) (g : BitVec 4) (q : BitVec 1) (d : BitVec 6) (o : BitVec 4) (x : BitVec 6)
    (m : BitVec 2) : Op := fun e =>
  let r : Reg := .v d.toNat
  { memSlot g (postOk m x && d != 63) (postReads m x) (r :: postReg m x) [r] sampler (fun p s =>
        let k := p.reads s
        let a := spadAddr e k o x 128
        let post := postOut k m x 128
        if inCarve s k l.index a 128 then .go { outs := post, works := [{ reg := r, kind := .levelLoad l a }] }
        else
          let t := carveTrap l.index a
          if q = 1 then .go { outs := post, works := [{ reg := r, kind := .faulted, fault := some t }] } else .trap t)
    with squash := q = 1 }

/-- A vector store to cluster-shared memory or the chip scratchpad. -/
def levelStoreOp (l : Level) (sampler : Bool) (g : BitVec 4) (d : BitVec 6) (o : BitVec 4) (x : BitVec 6) (m : BitVec 2) :
    Op := fun e =>
  memSlot g (postOk m x) (vReg d.toNat :: postReads m x) (postReg m x) [] sampler fun p s =>
    let k := p.reads s
    let a := spadAddr e k o x 128
    if inCarve s k l.index a 128 then
      .go { outs := postOut k m x 128
            works := [{ reg := .none, kind := .levelStore l a (readV k d.toNat).toNat }] }
    else .trap (carveTrap l.index a)

/-- One element of a gather or scatter: its index in the register, and its address. -/
structure GatherElem where
  i : Nat
  a : Nat
  deriving DecidableEq, Repr

/-- A gather's address as a number; one below zero lies beyond every level. -/
def gatherAddr (a : Int) : Nat := if a < 0 then narrow 64 a else a.toNat

/-- The active elements of a gather or scatter of elements of `z` bytes (R201). The index counts as unsigned and the sum is
not cut (R6); s[x] is taken as signed, as in `spadAddr` (log entry 79). -/
def gatherElems (e : Ext) (k : Ctx) (i : BitVec 4) (x : BitVec 6) (z : Nat) : List GatherElem :=
  ((elems (8 * z) (readV k i.toNat).toNat (128 / z)).zipIdx.filter (fun p => p.1 ≠ ones (8 * z))).map fun p =>
    { i := p.2, a := gatherAddr ((readS k x.toNat).toInt + (signed 9 e.x + p.1) * z) / z * z }

/-- The element size of M2 (R201). -/
def elemSize (e : BitVec 2) : Nat := 2 ^ e.toNat

/-- The first active element outside the carve, as a fault. -/
def gatherFault (s : State) (k : Ctx) (l z : Nat) (es : List GatherElem) : Option Trap :=
  (es.find? (fun g => ¬ inCarve s k l g.a z)).map (fun g => carveTrap l g.a)

/-- A gather (R201): each active element read from the core scratchpad or its lane group's memory. -/
def gatherOp (lane : Bool) (g : BitVec 4) (q : BitVec 1) (d : BitVec 6) (i : BitVec 4) (x : BitVec 6) (m : BitVec 2) :
    Op := fun e =>
  let z := elemSize m
  let l := if lane then 3 else 0
  let lat := if lane then 6 else 10
  { memSlot g (d != 63) [sReg x.toNat, .v i.toNat] [.v d.toNat] [] false (fun p s =>
        let k := p.reads s
        let es := gatherElems e k i x z
        let grp := fun (n : Nat) => n * 8 * z / 256
        if ¬ lane ∧ es.any (fun n => guardMeets s p.core n.a z false) then .stall
        else match gatherFault s k l z es with
        | some t =>
          if q = 1 then .go { outs := [{ reg := .v d.toNat, val := 0, lat := lat, fault := some t }] } else .trap t
        | none =>
          let read := fun (n : GatherElem) => if lane then laneLoad s p.core (grp n.i) n.a z else spadLoad s p.core n.a z
          let bad := es.find? fun n => if lane then laneBad s p.core (grp n.i) n.a else spadBad s p.core n.a z
          let at_ := fun (n : GatherElem) => 2 ^ (8 * z * n.i)
          let mask := nsum (es.map (fun n => ones (8 * z) * at_ n))
          let val := match bad with
            | some _ => (Config.poisonData s.free).toNat
            | none => nsum (es.map (fun n => read n * at_ n))
          .go { outs := [{ reg := .v d.toNat, mask := mask, val := val, lat := lat, spad := !lane,
                           fault := bad.map (fun n => trapOf codePoison (n.a % 2 ^ 57)) }]
                words := if lane then [] else (es.map (fun n => n.a / 32))
                act := if bad.isSome then bumpFree else id })
    with squash := q = 1 }

/-- A scatter (R201), in increasing element order. -/
def scatterOp (lane : Bool) (g : BitVec 4) (d : BitVec 6) (i : BitVec 4) (x : BitVec 6) (m : BitVec 2) : Op := fun e =>
  let z := elemSize m
  let l := if lane then 3 else 0
  memSlot g true [vReg d.toNat, sReg x.toNat, .v i.toNat] [] [] false fun p s =>
    let k := p.reads s
    let es := gatherElems e k i x z
    let v := (readV k d.toNat).toNat
    if ¬ lane ∧ es.any (fun n => guardMeets s p.core n.a z true) then .stall
    else match gatherFault s k l z es with
    | some t => .trap t
    | none => .go {
        words := if lane then [] else es.map (fun n => n.a / 32)
        act := fun s => es.foldl (fun s n =>
          let b := elem (8 * z) v n.i
          if lane then laneStore s p.core (n.i * 8 * z / 256) n.a z b else spadStore s p.core n.a z b) s }

/-- An atomic (R204, R205): a `d` of 63 is illegal for ACAS. -/
def atomicOp (op : AtomOp) (g : BitVec 4) (d : BitVec 6) (h : BitVec 4) (x : BitVec 6) (sc : BitVec 2) : Op := fun e =>
  let z := if op = .fadd then 4 else 8
  let r := sReg d.toNat
  let cas := op = .cas
  let scope : Scope := if sc = 0 then .core else if sc = 1 then .clu else if sc = 2 then .dev else .sys
  memSlot g (!(cas && d == 63)) ([r, sReg x.toNat, .h h.toNat] ++ (if cas then [sReg (d.toNat + 1)] else [])) [r] [r] true
    fun p s =>
      let k := p.reads s
      match checkGlobal s k h.toNat (globalOff e k x z) z true true { bound := true, uncached := true } with
      | .stall => .stall
      | .fault t => .trap t
      | .ok pl => .go { works := [{
          reg := r
          kind := .atomic op scope pl (readS k d.toNat).toNat (if cas then (readS k (d.toNat + 1)).toNat else 0) }] }

/-! ### The instructions of class A -/

/-- R198: a signed byte. -/
def opLdgB (g : BitVec 4) (q : BitVec 1) (d : BitVec 6) (h : BitVec 4) (x : BitVec 6) (m : BitVec 2) : Op :=
  globalLoadOp (.signed 1) g q d h x m
/-- R198: an unsigned byte. -/
def opLdgBn (g : BitVec 4) (q : BitVec 1) (d : BitVec 6) (h : BitVec 4) (x : BitVec 6) (m : BitVec 2) : Op :=
  globalLoadOp (.unsigned 1) g q d h x m
/-- R198: two bytes, signed. -/
def opLdgH (g : BitVec 4) (q : BitVec 1) (d : BitVec 6) (h : BitVec 4) (x : BitVec 6) (m : BitVec 2) : Op :=
  globalLoadOp (.signed 2) g q d h x m
/-- R198: two bytes, unsigned. -/
def opLdgHn (g : BitVec 4) (q : BitVec 1) (d : BitVec 6) (h : BitVec 4) (x : BitVec 6) (m : BitVec 2) : Op :=
  globalLoadOp (.unsigned 2) g q d h x m
/-- R198: four bytes, signed. -/
def opLdgW (g : BitVec 4) (q : BitVec 1) (d : BitVec 6) (h : BitVec 4) (x : BitVec 6) (m : BitVec 2) : Op :=
  globalLoadOp (.signed 4) g q d h x m
/-- R198: four bytes, unsigned. -/
def opLdgWn (g : BitVec 4) (q : BitVec 1) (d : BitVec 6) (h : BitVec 4) (x : BitVec 6) (m : BitVec 2) : Op :=
  globalLoadOp (.unsigned 4) g q d h x m
/-- R198: eight bytes. -/
def opLdgD (g : BitVec 4) (q : BitVec 1) (d : BitVec 6) (h : BitVec 4) (x : BitVec 6) (m : BitVec 2) : Op :=
  globalLoadOp (.unsigned 8) g q d h x m
/-- R198: one byte stored. -/
def opStgB (g : BitVec 4) (d : BitVec 6) (h : BitVec 4) (x : BitVec 6) (m : BitVec 2) : Op :=
  globalStoreOp 1 false g d h x m
/-- R198: two bytes stored. -/
def opStgH (g : BitVec 4) (d : BitVec 6) (h : BitVec 4) (x : BitVec 6) (m : BitVec 2) : Op :=
  globalStoreOp 2 false g d h x m
/-- R198: four bytes stored. -/
def opStgW (g : BitVec 4) (d : BitVec 6) (h : BitVec 4) (x : BitVec 6) (m : BitVec 2) : Op :=
  globalStoreOp 4 false g d h x m
/-- R198: eight bytes stored. -/
def opStgD (g : BitVec 4) (d : BitVec 6) (h : BitVec 4) (x : BitVec 6) (m : BitVec 2) : Op :=
  globalStoreOp 8 false g d h x m
/-- R198: a whole vector register loaded. -/
def opVldg (g : BitVec 4) (q : BitVec 1) (d : BitVec 6) (h : BitVec 4) (x : BitVec 6) (m : BitVec 2) : Op :=
  globalLoadOp .vector g q d h x m
/-- R198: a whole vector register stored. -/
def opVstg (g : BitVec 4) (d : BitVec 6) (h : BitVec 4) (x : BitVec 6) (m : BitVec 2) : Op :=
  globalStoreOp 128 true g d h x m
/-- R199. -/
def opLdS (g : BitVec 4) (q : BitVec 1) (d : BitVec 6) (o : BitVec 4) (x : BitVec 6) (m : BitVec 2) : Op :=
  spadLoadOp 8 (.unsigned 8) g q d o x m
/-- R199. -/
def opStS (g : BitVec 4) (d : BitVec 6) (o : BitVec 4) (x : BitVec 6) (m : BitVec 2) : Op := spadStoreOp 8 false g d o x m
/-- R199. -/
def opVldS (g : BitVec 4) (q : BitVec 1) (d : BitVec 6) (o : BitVec 4) (x : BitVec 6) (m : BitVec 2) : Op :=
  spadLoadOp 128 .vector g q d o x m
/-- R199. -/
def opVstS (g : BitVec 4) (d : BitVec 6) (o : BitVec 4) (x : BitVec 6) (m : BitVec 2) : Op := spadStoreOp 128 true g d o x m
/-- R199. -/
def opVldC (g : BitVec 4) (q : BitVec 1) (d : BitVec 6) (o : BitVec 4) (x : BitVec 6) (m : BitVec 2) : Op :=
  levelLoadOp .cluster false g q d o x m
/-- R199. -/
def opVstC (g : BitVec 4) (d : BitVec 6) (o : BitVec 4) (x : BitVec 6) (m : BitVec 2) : Op :=
  levelStoreOp .cluster false g d o x m
/-- R199. -/
def opVldX (g : BitVec 4) (q : BitVec 1) (d : BitVec 6) (o : BitVec 4) (x : BitVec 6) (m : BitVec 2) : Op :=
  levelLoadOp .chip true g q d o x m
/-- R199. -/
def opVstX (g : BitVec 4) (d : BitVec 6) (o : BitVec 4) (x : BitVec 6) (m : BitVec 2) : Op :=
  levelStoreOp .chip true g d o x m

/-- R200: 256 bits from each lane group, all at one address. -/
def opVldL (g : BitVec 4) (q : BitVec 1) (d : BitVec 6) (o : BitVec 4) (x : BitVec 6) (m : BitVec 2) : Op := fun e =>
  { memSlot g (postOk m x && d != 63) (postReads m x) (.v d.toNat :: postReg m x) [] false (fun p s =>
        let k := p.reads s
        let a := spadAddr e k o x 32
        let post := postOut k m x 32
        if ¬ inCarve s k 3 a 32 then
          if q = 1 then .go { outs := { reg := .v d.toNat, val := 0, lat := 4, fault := some (carveTrap 3 a) } :: post }
          else .trap (carveTrap 3 a)
        else if (upTo 4).any (fun n => laneBad s p.core n a) then
          .go { outs := { reg := .v d.toNat, val := (Config.poisonData s.free).toNat, lat := 4,
                          fault := some (trapOf codePoison (a % 2 ^ 57)) } :: post
                act := bumpFree }
        else .go { outs := { reg := .v d.toNat, val := ofElems 256 ((upTo 4).map (fun n => laneLoad s p.core n a 32)),
                             lat := 4 } :: post })
    with squash := q = 1 }

/-- R200. -/
def opVstL (g : BitVec 4) (d : BitVec 6) (o : BitVec 4) (x : BitVec 6) (m : BitVec 2) : Op := fun e =>
  memSlot g (postOk m x) (vReg d.toNat :: postReads m x) (postReg m x) [] false fun p s =>
    let k := p.reads s
    let a := spadAddr e k o x 32
    let v := (readV k d.toNat).toNat
    if inCarve s k 3 a 32 then
      .go { outs := postOut k m x 32
            act := fun s => (upTo 4).foldl (fun s n => laneStore s p.core n a 32 (elem 256 v n)) s }
    else .trap (carveTrap 3 a)

/-- R201. -/
def opVgthS (g : BitVec 4) (q : BitVec 1) (d : BitVec 6) (i : BitVec 4) (x : BitVec 6) (e : BitVec 2) : Op :=
  gatherOp false g q d i x e
/-- R201. -/
def opVsctS (g : BitVec 4) (d : BitVec 6) (i : BitVec 4) (x : BitVec 6) (e : BitVec 2) : Op := scatterOp false g d i x e
/-- R201. -/
def opVgthL (g : BitVec 4) (q : BitVec 1) (d : BitVec 6) (i : BitVec 4) (x : BitVec 6) (e : BitVec 2) : Op :=
  gatherOp true g q d i x e
/-- R201. -/
def opVsctL (g : BitVec 4) (d : BitVec 6) (i : BitVec 4) (x : BitVec 6) (e : BitVec 2) : Op := scatterOp true g d i x e

/-- The key under which a core's banks and array know a context: they outlast a swap. -/
def chainKey (k : Ctx) (x : Nat) : Nat := k.part * 8 + x

/-- Where VLDB and VSTB reach (R202): the first word of a 128-byte row of a bank, or BANK_GRANT. -/
def bankRow (s : State) (c x a : Nat) : Nat ⊕ Trap :=
  let b := bitsOf a 13 6
  if 2 ^ 19 ≤ a ∨ 39 < b then .inr (trapOf codeBankGrant 0 255)
  else match mfind (getCore s c).banks b with
    | some k => if k.ctx = chainKey (getCtx s c x) x ∧ k.vmode then .inl (b * 2048 + bitsOf a 7 6 * 32) else .inr (trapOf codeBankGrant 0 b)
    | none => .inr (trapOf codeBankGrant 0 b)

/-- Words of the tile banks from one on, `n` of them. -/
def tileWords (t : Map (BitVec 32)) (w : Nat) (n : Nat) : Nat := ofElems 32 ((upTo n).map (fun i => (mget t (w + i) 0).toNat))
/-- Words of the tile banks written from a number. -/
def tileWrite (t : Map (BitVec 32)) (w n v : Nat) : Map (BitVec 32) :=
  (upTo n).foldl (fun t i => mput t (w + i) (BitVec.ofNat 32 (elem 32 v i)) 0) t

/-- Whether a row of the array that a bank row overlays is poisoned (R385). -/
def bankBad (core : Core) (w : Nat) : Bool := core.badRows.contains (w / 16) || core.badRows.contains (w / 16 + 1)

/-- R202: a row of a lendable bank in V mode; the bank is busy until the result lands. A row that fails its parity check, or is
poisoned, freezes the bundle with POISON, as for a drain (R164, R383; log entry 74). -/
def opVldb (g : BitVec 4) (q : BitVec 1) (d : BitVec 6) (o : BitVec 4) (x : BitVec 6) (m : BitVec 2) : Op := fun e =>
  { memSlot g (postOk m x && d != 63) (postReads m x) (.v d.toNat :: postReg m x) [] false (fun p s =>
        let k := p.reads s
        let post := postOut k m x 128
        let a := spadAddr e k o x 128
        match bankRow s p.core p.ctx a with
        | .inr t =>
          if q = 1 then .go { outs := { reg := .v d.toNat, val := 0, lat := 6, fault := some t } :: post } else .trap t
        | .inl w =>
          let busy := fun s => modCore s p.core fun k => { k with vbusy := k.vbusy ++ [(w / 2048, 6)] }
          if bankBad (getCore s p.core) w then
            .trap (trapOf codePoison)
          else
            .go { outs := { reg := .v d.toNat, val := tileWords (getCore s p.core).tiles w 32, lat := 6 } :: post
                  act := busy })
    with squash := q = 1 }

/-- R202: the row written whole is no longer poisoned (R385). -/
def opVstb (g : BitVec 4) (d : BitVec 6) (o : BitVec 4) (x : BitVec 6) (m : BitVec 2) : Op := fun e =>
  memSlot g (postOk m x) (vReg d.toNat :: postReads m x) (postReg m x) [] false fun p s =>
    let k := p.reads s
    let v := (readV k d.toNat).toNat
    match bankRow s p.core p.ctx (spadAddr e k o x 128) with
    | .inr t => .trap t
    | .inl w => .go {
        outs := postOut k m x 128
        act := fun s => modCore s p.core fun k => { k with
          tiles := tileWrite k.tiles w 32 v, badRows := k.badRows.filter (fun r => r ≠ w / 16 ∧ r ≠ w / 16 + 1) } }

/-- R186: the lookup at issue, or a walk; the handle lands 16 cycles after. A hit whose window checks fail lands holding
PERM. -/
def opXlt (g : BitVec 4) (w : BitVec 1) (h : BitVec 4) (x : BitVec 6) : Op := fun e =>
  memSlot g (e.x == 0) [sReg x.toNat] [.h h.toNat] [] true fun p s =>
    let k := p.reads s
    let a := (readS k x.toNat).toNat
    let va := a % 2 ^ 57
    let bind := if w = 1 then bindOf s (bitsOf a 57 4) else 0
    let hd := match tlbLookup s p.core k.part va with
      | some l => leafHandle s k.part l va bind 0
      | none => handlePending va bind 0
    .go { act := fun s => modCtx s p.core p.ctx fun k => { k with
            hflights := k.hflights ++ [{ h := h.toNat, left := 16, handle := hd }] } }

/-- R187: the handle is empty from the end of the cycle. -/
def opHdrop (g : BitVec 4) (h : BitVec 4) : Op := fun e =>
  memSlot g (e.x == 0) [] [.h h.toNat] [] true fun p _ =>
    .go { act := fun s => modCtx s p.core p.ctx fun k => { k with
            hflights := k.hflights ++ [{ h := h.toNat, left := 1, handle := {} }] } }

/-! ### Atomics (R205) -/

/-- R205. -/
def opAadd (g : BitVec 4) (d : BitVec 6) (h : BitVec 4) (x : BitVec 6) (s : BitVec 2) : Op := atomicOp .add g d h x s
/-- R205. -/
def opAand (g : BitVec 4) (d : BitVec 6) (h : BitVec 4) (x : BitVec 6) (s : BitVec 2) : Op := atomicOp .and g d h x s
/-- R205. -/
def opAor (g : BitVec 4) (d : BitVec 6) (h : BitVec 4) (x : BitVec 6) (s : BitVec 2) : Op := atomicOp .or g d h x s
/-- R205. -/
def opAxor (g : BitVec 4) (d : BitVec 6) (h : BitVec 4) (x : BitVec 6) (s : BitVec 2) : Op := atomicOp .xor g d h x s
/-- R205. -/
def opAmin (g : BitVec 4) (d : BitVec 6) (h : BitVec 4) (x : BitVec 6) (s : BitVec 2) : Op := atomicOp .min g d h x s
/-- R205. -/
def opAmax (g : BitVec 4) (d : BitVec 6) (h : BitVec 4) (x : BitVec 6) (s : BitVec 2) : Op := atomicOp .max g d h x s
/-- R205. -/
def opAminn (g : BitVec 4) (d : BitVec 6) (h : BitVec 4) (x : BitVec 6) (s : BitVec 2) : Op := atomicOp .minn g d h x s
/-- R205. -/
def opAmaxn (g : BitVec 4) (d : BitVec 6) (h : BitVec 4) (x : BitVec 6) (s : BitVec 2) : Op := atomicOp .maxn g d h x s
/-- R205. -/
def opAswp (g : BitVec 4) (d : BitVec 6) (h : BitVec 4) (x : BitVec 6) (s : BitVec 2) : Op := atomicOp .swp g d h x s
/-- R205. -/
def opAcas (g : BitVec 4) (d : BitVec 6) (h : BitVec 4) (x : BitVec 6) (s : BitVec 2) : Op := atomicOp .cas g d h x s
/-- R205. -/
def opAfadd (g : BitVec 4) (d : BitVec 6) (h : BitVec 4) (x : BitVec 6) (s : BitVec 2) : Op := atomicOp .fadd g d h x s

end Sys2Proof.Machine
end

