-- ==== Sys2Proof/Machine/Control.lean ====
section
/-! DEFINITION. Class 0, control, and class C, the loop sequencer (R66–R81). In a gang the guards, targets and register
operands of both classes are those of rank 0 (R292), which a slot reads through its port's lead. -/

namespace Sys2Proof.Machine

/-! ### A context at dispatch (R24, R72, R286) -/

/-- THROT as a context loaded on a core's island receives it (R317). -/
def throtAt (s : State) (c : Nat) : BitVec 64 :=
  if isSampler c then 0
  else match (getIsland s (islandOf c)).reduce with
    | some r => BitVec.ofNat 64 (r.due % 2 ^ 32 * 2 ^ 32 + r.fnew * 2 ^ 21 + 1)
    | none => 0

/-- The frame top (R24, R286): one byte past the context's eighth of the core-scratchpad carve; 0 on a sampler core
(R332). -/
def frameTop (s : State) (c x part region : Nat) : Nat :=
  if isSampler c then 0
  else
    let r := nth (getRegion s (regionKey part region)).carves 0 (0, 0)
    r.1 + (x + 1) * r.2 / 8

/-- The state at dispatch (R24): everything zero or empty but the arguments, s7, the frame top and the PC. -/
def freshCtx (s : State) (c x part region task cr : Nat) (pc : Nat) (args : List Nat) (s7 : Nat) : Ctx :=
  let regs := args.zipIdx.map (fun a => (a.2 + 1, a.1)) ++ [(7, s7), (63, frameTop s c x part region)]
  let k : Ctx := {
    status := .ready, pc := BitVec.ofNat 57 (pc / 16 * 16), part := part, region := region, task := task, cr := cr,
    throt := throtAt s c }
  regs.foldl (fun k r => writeS k r.1 (BitVec.ofNat 64 r.2)) k

/-! ### Shapes -/

/-- A class 0 slot (R67): only the relative transfers take a header. -/
def ctlSlot (g : BitVec 4) (ok : Bool) (reads writes : List Reg) (run : Port → State → SlotRes) : SlotInfo where
  legal := ok
  res := .control
  guard := .scalar g.toNat
  reads := reads
  writes := writes
  run := run

/-- A class C slot (R73): not on a sampler core, and with no header extension. -/
def seqSlot (g : BitVec 4) (ok : Bool) (e : Ext) (reads writes : List Reg) (run : Port → State → SlotRes) : SlotInfo where
  legal := ok && e.x == 0
  res := .sequencer
  guard := .scalar g.toNat
  reads := reads
  writes := writes
  sampler := false
  run := run

/-- pc + 16 * sext(offset) (R68). That the sum wraps at the 57 bits of a virtual address is the model's choice (log entry 94). -/
def relTarget (pc : Nat) (off : Int) : Nat := narrow 57 ((pc : Int) + 16 * off)
/-- A register's value as a bundle address: R68 clears bits 3:0. That bits 63:57 are dropped is the model's choice (log entry 94). -/
def regTarget (v : Word) : Nat := v.toNat % 2 ^ 57 / 16 * 16

/-- Whether a context has a hatch release under way, which END, YIELD.C, FENCE and HACQ wait for (R219). -/
def releasing (k : Ctx) : Bool := k.works.any (fun w => match w.kind with | .unit (.hrel _ _) => true | _ => false)

/-! ### Class 0 -/

/-- R67. -/
def opNop (g : BitVec 4) : Op := fun e => ctlSlot g (e.x == 0) [] [] fun _ _ => .go {}

/-- R68. -/
def opBr (g : BitVec 4) (o : BitVec 18) : Op := fun e =>
  ctlSlot g true [] [] fun p _ => .go { ctl := .jump (relTarget p.pc (joined e 18 o.toNat)) true }

/-- R68. -/
def opBrs (g : BitVec 4) (a : BitVec 6) : Op := fun e =>
  ctlSlot g (e.x == 0) [sReg a.toNat] [] fun p s => .go { ctl := .jump (regTarget (readS (p.steers s) a.toNat)) true }

/-- R68: the link lands with latency 1. -/
def opCall (g : BitVec 4) (o : BitVec 18) : Op := fun e =>
  ctlSlot g true [] [.s 62] fun p _ =>
    .go { outs := [{ reg := .s 62, val := p.pc + 32, lat := 1 }]
          ctl := .jump (relTarget p.pc (joined e 18 o.toNat)) false }

/-- R68. -/
def opRet (g : BitVec 4) : Op := fun e =>
  ctlSlot g (e.x == 0) [.s 62] [] fun p s => .go { ctl := .jump (regTarget (readS (p.steers s) 62)) false }

/-- R69. -/
def opYield (g : BitVec 4) : Op := fun e => ctlSlot g (e.x == 0) [] [] fun _ _ => .go { ctl := .yield }

/-- R70; in a context started by SPAWN it has the effect of YIELD (R72). It waits for a hatch release under way (R219). -/
def opYieldC (g : BitVec 4) : Op := fun e =>
  ctlSlot g (e.x == 0) [] [] fun p s =>
    let k := p.reads s
    if releasing k then .stall else .go { ctl := if k.spawned then .yield else .yieldC }

/-- Whether a context goes on with its task: it holds one and has not met END. -/
def goesOn (k : Ctx) : Bool := k.status ≠ .free && k.status ≠ .ending && k.due ≠ .stop

/-- The exclusive holding that END would abandon (R221): every other context of its task on the core is free or past its
END. Only holdings of END's own core are looked at, as a task that holds a hatch stays on its core; of a sampler job, whose task
runs on a tile core too, those taken on the sampler core (log entry 99). -/
def heldAtEnd (s : State) (c x : Nat) : Option Holding :=
  let k := getCtx s c x
  let others := (upTo 8).any (fun y => y ≠ x && goesOn (getCtx s c y) && (getCtx s c y).task = k.task)
  if others then none else (getCore s c).holdings.find? (fun h => h.tag = k.cr)

/-- R71; HATCH_STATE when it would free the last context of a task that holds a hatch exclusively (R221). -/
def opEndTask (g : BitVec 4) : Op := fun e =>
  ctlSlot g (e.x == 0) [] [] fun p s =>
    if releasing (p.reads s) then .stall
    else match heldAtEnd s p.core p.ctx with
      | some h => .trap (trapOf codeHatchState h.va 0)
      | none => .go { ctl := .stop }

/-- R72. A sampler core has one context (R332), so that no other is free there (log entry 85). -/
def opSpawn (g : BitVec 4) (a b : BitVec 6) (c : BitVec 3) : Op := fun e =>
  let args := (upTo 6).map fun i => sReg (b.toNat + i)
  let o := ctlSlot g (e.x == 0 && b.toNat ≤ 58) (sReg a.toNat :: args) [] fun p s =>
    let k := p.reads s
    if isSampler p.core || occupied s p.core c.toNat then .trap (trapOf codeSpawnBusy 0 c.toNat)
    else
      let pc := regTarget (readS (p.steers s) a.toNat)
      let args := (upTo 6).map (fun i => (readS k (b.toNat + i)).toNat)
      .go { act := fun s =>
        let n := freshCtx s p.core c.toNat k.part k.region k.task k.cr pc args 0
        putCtx s p.core c.toNat { n with spawned := true, gang := k.gang } }
  { o with ownReads := args }

/-! ### Class C -/

/-- The key of a profile counter (R409, R410): its offset in the debug block's counters, in words. -/
def profKey (x l cls kind : Nat) : Nat := 16 * (6 * x + l) + 3 * cls + kind
/-- The profile counters of a level of a context reset (R410). -/
def clearLevel (d : Debug) (x l : Nat) : Debug := { d with prof := d.prof.filter (fun e => e.1 / 16 ≠ 6 * x + l) }

/-- Opening level `l` (R74): the levels below it active and it and those above it not, and its body within the enclosing
one; a trip count of 0 skips the body. The level's profile counters reset (R410). -/
def openLoop (p : Port) (k : Ctx) (l len trip stages : Nat) : SlotRes :=
  let first := p.pc + 16
  let last := p.pc + 16 * len
  let inside := match k.loops.getLast? with
    | some m => m.first ≤ first && last ≤ m.last
    | none => true
  if k.loops.length ≠ l ∨ k.loops.any (fun m => m.off) = true ∨ ¬ inside = true then .trap (trapOf codeLoopNest 0 l)
  else if trip = 0 then .go { ctl := .skip (last + 16) }
  else
    let m : Loop := { count := 0, trip := trip, first := first, last := last, stages := stages, links := [], brk := false,
                      opener := p.pc }
    .go { act := fun s =>
      let s := modCtx s p.core p.ctx fun k => { k with loops := k.loops ++ [m] }
      modCore s p.core fun k => { k with probe := clearLevel k.probe p.ctx l } }

/-- R74: trip count and stages from sN, N = 8 + tsel. -/
def opLoop (g : BitVec 4) (l : BitVec 3) (s : BitVec 3) (n : BitVec 12) : Op := fun e =>
  seqSlot g (l.toNat ≤ 5) e [sReg (8 + s.toNat)] [] fun p st =>
    let v := (readS (p.steers st) (8 + s.toNat)).toNat
    openLoop p (p.reads st) l.toNat (n.toNat + 1) (v % 2 ^ 32) (bitsOf v 32 4 + 1)

/-- R74. -/
def opLoopi (g : BitVec 4) (l : BitVec 3) (t : BitVec 6) (n : BitVec 9) : Op := fun e =>
  seqSlot g (l.toNat ≤ 5) e [] [] fun p st => openLoop p (p.reads st) l.toNat (n.toNat + 1) (t.toNat + 1) 1

/-- Whether a level is active. -/
def levelOn (k : Ctx) (l : Nat) : Bool := match k.loops[l]? with | some m => !m.off | none => false

/-- A stride link of a level set, or cleared by register 0 (R79). Where two links of a level name one register, R75 does not
say which write is kept: the model keeps that of the link set last (log entry 81). -/
def setLink (m : Loop) (k reg stride : Nat) : Loop :=
  let rest := m.links.filter (fun e => e.1 ≠ k)
  { m with links := if reg = 0 then rest else rest ++ [(k, reg, stride)] }

/-- R79. -/
def opLstr (g : BitVec 4) (l : BitVec 3) (k : BitVec 2) (a b : BitVec 6) : Op := fun e =>
  seqSlot g (l.toNat ≤ 5) e [sReg b.toNat] [] fun p st =>
    if levelOn (p.reads st) l.toNat = false then .trap (trapOf codeLoopNest 0 l.toNat)
    else
      let v := (readS (p.steers st) b.toNat).toNat % 2 ^ 32
      .go { act := fun s => modCtx s p.core p.ctx fun c =>
        { c with loops := c.loops.zipIdx.map (fun e => if e.2 = l.toNat then setLink e.1 k.toNat a.toNat v else e.1) } }

/-- R80. -/
def opLbrk (g : BitVec 4) (l : BitVec 3) : Op := fun e =>
  seqSlot g (l.toNat ≤ 5) e [] [] fun p _ =>
    .go { act := fun s => modCtx s p.core p.ctx fun c =>
      { c with loops := c.loops.zipIdx.map (fun e => if e.2 = l.toNat then { e.1 with brk := true } else e.1) } }

/-- R81: a bit of the oldest word, which plain LCW pops. -/
def opLcw (g : BitVec 4) (d : BitVec 4) (i : BitVec 6) (x : BitVec 1) : Op := fun e =>
  seqSlot g (evenPred d.toNat) e [] [.p (d.toNat / 2), .cwq] fun p st =>
    let k := p.steers st
    match k.cwq with
    | [] =>
      if k.flights.any (fun f => f.reg = .cwq) then .stall
      else .go { outs := [{ reg := .p (d.toNat / 2), val := 0, lat := 1 }] }
    | w :: _ =>
      .go { outs := [{ reg := .p (d.toNat / 2), val := natOf (w.getLsbD i.toNat), lat := 1 }]
            act := fun s => if x = 1 then modCtx s p.core p.ctx fun k => { k with cwq := k.cwq.drop 1 } else s }

end Sys2Proof.Machine
end

