-- ==== Sys2Proof/Machine/Scalar.lean ====
section
/-! DEFINITION. Classes 1, 2 and 3: scalar integer, address and floating instructions (R103–R122). Each definition is one
instruction's meaning; the shapes they share come first. -/

namespace Sys2Proof.Machine

/-! ### Shapes -/

/-- A scalar slot with one fixed-latency result (R103, R106): guard, Q bit, whether its fields are legal, the registers it
reads, its destination, its latency (R58), and its result and flags from the context. Classes 1 and 2 take no header
extension. -/
def scalarOp (g : BitVec 4) (q : BitVec 1) (ok : Bool) (reads : List Reg) (d : Reg) (lat : Nat)
    (f : Ctx → Nat × Nat) : Op := fun e =>
  { legal := ok && e.x == 0
    res := .scalar
    guard := .scalar g.toNat
    squash := q = 1
    reads := reads
    writes := [d]
    run := fun p s =>
      let r := f (p.reads s)
      .go { outs := [{ reg := d, val := r.1, lat := lat, fl := r.2 }] } }

/-- A scalar slot whose result is interlocked, its value fixed by the operands read at issue (R122). -/
def scalarLong (g : BitVec 4) (q : BitVec 1) (reads : List Reg) (d : Reg) (f : Ctx → Nat × Nat) : Op := fun e =>
  { legal := e.x == 0
    res := .scalar
    guard := .scalar g.toNat
    squash := q = 1
    reads := reads
    writes := [d]
    varWrites := [d]
    run := fun p s =>
      let r := f (p.reads s)
      .go { works := [{ reg := d, kind := .value (BitVec.ofNat 1024 r.1) r.2 }] } }

/-- Two registers to a register. -/
def alu (lat : Nat) (f : Word → Word → Word) (g : BitVec 4) (q : BitVec 1) (d a b : BitVec 6) : Op :=
  scalarOp g q true [sReg a.toNat, sReg b.toNat] (sReg d.toNat) lat
    fun k => ((f (readS k a.toNat) (readS k b.toNat)).toNat, 0)

/-- One register to a register. -/
def alu1 (f : Word → Word) (g : BitVec 4) (q : BitVec 1) (d a : BitVec 6) : Op :=
  scalarOp g q true [sReg a.toNat] (sReg d.toNat) 1 fun k => ((f (readS k a.toNat)).toNat, 0)

/-- Two registers to a register, interlocked. -/
def aluLong (f : Word → Word → Word) (g : BitVec 4) (q : BitVec 1) (d a b : BitVec 6) : Op :=
  scalarLong g q [sReg a.toNat, sReg b.toNat] (sReg d.toNat)
    fun k => ((f (readS k a.toNat) (readS k b.toNat)).toNat, 0)

/-- A compare of two registers into a predicate pair (R105, R113). -/
def cmp (f : Word → Word → Bool) (g : BitVec 4) (q : BitVec 1) (p a b : BitVec 6) : Op :=
  scalarOp g q (evenPred p.toNat) [sReg a.toNat, sReg b.toNat] (.p (p.toNat / 2)) 1
    fun k => (natOf (f (readS k a.toNat) (readS k b.toNat)), 0)

/-- The f32 operand in a scalar register's low half (R104). -/
def fOperand (k : Ctx) (n : Nat) : Nat := (readS k n).toNat % 2 ^ 32

/-- Two f32 operands to an f32 result in the low half (R104). -/
def falu (lat : Nat) (f : Nat → Nat → FRes) (g : BitVec 4) (q : BitVec 1) (d a b : BitVec 6) : Op :=
  scalarOp g q true [sReg a.toNat, sReg b.toNat] (sReg d.toNat) lat
    fun k => let r := f (fOperand k a.toNat) (fOperand k b.toNat); (r.bits, r.fl)

/-- One f32 operand to an f32 result. -/
def falu1 (lat : Nat) (f : Nat → FRes) (g : BitVec 4) (q : BitVec 1) (d a : BitVec 6) : Op :=
  scalarOp g q true [sReg a.toNat] (sReg d.toNat) lat
    fun k => let r := f (fOperand k a.toNat); (r.bits, r.fl)

/-- A compare of two f32 operands into a predicate pair (R119): `none` where they are unordered. -/
def fcmp (f : Option Int → Bool) (g : BitVec 4) (q : BitVec 1) (p a b : BitVec 6) : Op :=
  scalarOp g q (evenPred p.toNat) [sReg a.toNat, sReg b.toNat] (.p (p.toNat / 2)) 2
    fun k =>
      let x := decodeF fmtF32 (fOperand k a.toNat)
      let y := decodeF fmtF32 (fOperand k b.toNat)
      (natOf (f (if x.isNan || y.isNan then none else some (cmpV x y))), 0)

/-- A class 3 slot (R107): the immediate of `n` bits, joined with what a header adds and sign-extended to 64 bits. -/
def immOp (n : Nat) (imm : Nat) (g : BitVec 4) (q : BitVec 1) (ok : Bool) (reads : List Reg) (d : Reg) (lat : Nat)
    (f : Ctx → Word → Nat) : Op := fun e =>
  { legal := ok
    res := .scalar
    guard := .scalar g.toNat
    squash := q = 1
    reads := reads
    writes := [d]
    run := fun p s => .go { outs := [{ reg := d, val := f (p.reads s) (wordOfInt (joined e n imm)), lat := lat }] } }

/-- A register and an immediate to a register (R108). -/
def alui (lat : Nat) (f : Word → Word → Word) (g : BitVec 4) (q : BitVec 1) (d a i : BitVec 6) : Op :=
  immOp 6 i.toNat g q true [sReg a.toNat] (sReg d.toNat) lat fun k imm => (f (readS k a.toNat) imm).toNat

/-- A register and an immediate compared into a predicate pair (R113). -/
def cmpi (f : Word → Word → Bool) (g : BitVec 4) (q : BitVec 1) (p a i : BitVec 6) : Op :=
  immOp 6 i.toNat g q (evenPred p.toNat) [sReg a.toNat] (.p (p.toNat / 2)) 1
    fun k imm => natOf (f (readS k a.toNat) imm)

/-- A shift by an immediate amount, which no header may extend (R107, R110). -/
def shifti (f : Word → Nat → Word) (g : BitVec 4) (q : BitVec 1) (d a i : BitVec 6) : Op := fun e =>
  let o := scalarOp g q true [sReg a.toNat] (sReg d.toNat) 1 (fun k => ((f (readS k a.toNat) i.toNat).toNat, 0)) e
  { o with legal := o.legal && !e.long }

/-! ### What the shapes compute -/

/-- Bits 127:64 of a signed product (R108). -/
def mulHigh (a b : Word) : Word := wordOfInt (a.toInt * b.toInt / 2 ^ 64)
/-- Bits 127:64 of an unsigned product. -/
def mulHighN (a b : Word) : Word := BitVec.ofNat 64 (a.toNat * b.toNat / 2 ^ 64)
/-- R109. -/
def divSigned (a b : Word) : Word := if b = 0 then BitVec.allOnes 64 else wordOfInt (a.toInt.tdiv b.toInt)
/-- R109. -/
def divUnsigned (a b : Word) : Word := if b = 0 then BitVec.allOnes 64 else BitVec.ofNat 64 (a.toNat / b.toNat)
/-- R109. -/
def remSigned (a b : Word) : Word := if b = 0 then a else wordOfInt (a.toInt.tmod b.toInt)
/-- R109. -/
def remUnsigned (a b : Word) : Word := if b = 0 then a else BitVec.ofNat 64 (a.toNat % b.toNat)
/-- The amount of a shift, bits 5:0 of a register (R110). -/
def shiftAmount (b : Word) : Nat := b.toNat % 64
/-- R110. -/
def rotl (a b : Word) : Word := a.rotateLeft (shiftAmount b)
/-- The position and width of a bit field (R111). -/
def fieldPos (b : Word) : Nat := b.toNat % 64
def fieldWidth (b : Word) : Nat := bitsOf b.toNat 8 6 + 1
/-- R111: the field, bits above 63 reading as 0. -/
def extractField (a b : Word) : Nat := a.toNat / 2 ^ fieldPos b % 2 ^ fieldWidth b
/-- R111. -/
def extractSigned (a b : Word) : Word := wordOfInt (signed (fieldWidth b) (extractField a b))
/-- R111. -/
def insertField (old a b : Word) : Word :=
  let mask := BitVec.ofNat 64 ((2 ^ fieldWidth b - 1) * 2 ^ fieldPos b)
  (old &&& ~~~ mask) ||| (BitVec.ofNat 64 (a.toNat * 2 ^ fieldPos b) &&& mask)
/-- Leading zeros (R112). -/
def leadingZeros (a : Word) : Nat := if a = 0 then 64 else 63 - Nat.log2 a.toNat
/-- The bits of a number from the lowest, `n` of them. -/
def bitList (x : Nat) (n : Nat) : List Bool := (List.range n).map (bitOf x)
/-- Trailing zeros (R112). -/
def trailingZeros (a : Word) : Nat := ((bitList a.toNat 64).takeWhile (fun b => !b)).length
/-- One bits (R112). -/
def oneBits (n : Nat) (x : Nat) : Nat := countIf id (bitList x n)

/-- FMIN and FMAX (R118): −0 below +0; a NaN gives way to a number. -/
def minMaxF (f : FloatFmt) (wantMax : Bool) (x y : Nat) : Nat :=
  let a := decodeF f x
  let b := decodeF f y
  if a.isNan then (if b.isNan then f.nanBits else y)
  else if b.isNan then x
  else
    let c := cmpV a b
    let less := c < 0 ∨ (c = 0 ∧ a.neg ∧ ¬ b.neg)
    if less ↔ wantMax then y else x

/-- Absolute value or negation of an encoding, a NaN becoming canonical (R118). -/
def absF (f : FloatFmt) (x : Nat) : Nat := if (decodeF f x).isNan then f.nanBits else x % f.signBit
def negF (f : FloatFmt) (x : Nat) : Nat :=
  if (decodeF f x).isNan then f.nanBits else if x / f.signBit % 2 = 1 then x - f.signBit else x + f.signBit

/-- The integer of a conversion variant (R120): width and signedness. -/
def cvtWidth (v : BitVec 2) : Nat := if v.toNat < 2 then 64 else 32
def cvtSigned (v : BitVec 2) : Bool := v.toNat % 2 = 0

/-- FCVTIF (R120). -/
def cvtIF (v : BitVec 2) (a : Word) : FRes := finish fmtF32 (FVal.ofInt (intVal (cvtSigned v) (cvtWidth v) a.toNat)).exact

/-- FCVTFI (R120): NX when the result differs from a finite input. -/
def cvtFI (v : BitVec 2) (x : Nat) : Nat × Nat :=
  let r := exactToIntSat false (intLo (cvtSigned v) (cvtWidth v)) (intHi (cvtSigned v) (cvtWidth v)) (decodeF fmtF32 x).exact
  (narrow 64 r.1, r.2)

/-- A unary f32 function rounded once (R93). -/
def fUnary (f : FVal → Exact) (x : Nat) : FRes := finish fmtF32 (f (decodeF fmtF32 x))
/-- A binary f32 function rounded once (R93). -/
def fBinary (f : FVal → FVal → Exact) (x y : Nat) : FRes := finish fmtF32 (f (decodeF fmtF32 x) (decodeF fmtF32 y))
/-- Bits with no flag. -/
def plain (x : Nat) : FRes := ⟨x, 0⟩

/-! ### The instructions -/

/-- R108. -/
def opAdd (g : BitVec 4) (q : BitVec 1) (d a b : BitVec 6) : Op :=
  alu 1 (fun a b => a + b) g q d a b
/-- R108. -/
def opSub (g : BitVec 4) (q : BitVec 1) (d a b : BitVec 6) : Op :=
  alu 1 (fun a b => a - b) g q d a b
/-- R108. -/
def opMul (g : BitVec 4) (q : BitVec 1) (d a b : BitVec 6) : Op :=
  alu 3 (fun a b => a * b) g q d a b
/-- R108. -/
def opMulh (g : BitVec 4) (q : BitVec 1) (d a b : BitVec 6) : Op :=
  alu 3 mulHigh g q d a b
/-- R108. -/
def opMulhn (g : BitVec 4) (q : BitVec 1) (d a b : BitVec 6) : Op :=
  alu 3 mulHighN g q d a b
/-- R109. -/
def opDiv (g : BitVec 4) (q : BitVec 1) (d a b : BitVec 6) : Op :=
  aluLong divSigned g q d a b
/-- R109. -/
def opDivn (g : BitVec 4) (q : BitVec 1) (d a b : BitVec 6) : Op :=
  aluLong divUnsigned g q d a b
/-- R109. -/
def opRem (g : BitVec 4) (q : BitVec 1) (d a b : BitVec 6) : Op :=
  aluLong remSigned g q d a b
/-- R109. -/
def opRemn (g : BitVec 4) (q : BitVec 1) (d a b : BitVec 6) : Op :=
  aluLong remUnsigned g q d a b
/-- R108. -/
def opAnd (g : BitVec 4) (q : BitVec 1) (d a b : BitVec 6) : Op :=
  alu 1 (fun a b => a &&& b) g q d a b
/-- R108. -/
def opOr (g : BitVec 4) (q : BitVec 1) (d a b : BitVec 6) : Op :=
  alu 1 (fun a b => a ||| b) g q d a b
/-- R108. -/
def opXor (g : BitVec 4) (q : BitVec 1) (d a b : BitVec 6) : Op :=
  alu 1 (fun a b => a ^^^ b) g q d a b
/-- R108. -/
def opAndn (g : BitVec 4) (q : BitVec 1) (d a b : BitVec 6) : Op :=
  alu 1 (fun a b => a &&& ~~~ b) g q d a b
/-- R110. -/
def opShl (g : BitVec 4) (q : BitVec 1) (d a b : BitVec 6) : Op :=
  alu 1 (fun a b => a <<< shiftAmount b) g q d a b
/-- R110. -/
def opShr (g : BitVec 4) (q : BitVec 1) (d a b : BitVec 6) : Op :=
  alu 1 (fun a b => a >>> shiftAmount b) g q d a b
/-- R110. -/
def opSar (g : BitVec 4) (q : BitVec 1) (d a b : BitVec 6) : Op :=
  alu 1 (fun a b => a.sshiftRight (shiftAmount b)) g q d a b
/-- R110. -/
def opRol (g : BitVec 4) (q : BitVec 1) (d a b : BitVec 6) : Op :=
  alu 1 rotl g q d a b
/-- R108. -/
def opMin (g : BitVec 4) (q : BitVec 1) (d a b : BitVec 6) : Op :=
  alu 1 (fun a b => if a.toInt ≤ b.toInt then a else b) g q d a b
/-- R108. -/
def opMax (g : BitVec 4) (q : BitVec 1) (d a b : BitVec 6) : Op :=
  alu 1 (fun a b => if a.toInt ≤ b.toInt then b else a) g q d a b
/-- R108. -/
def opMinn (g : BitVec 4) (q : BitVec 1) (d a b : BitVec 6) : Op :=
  alu 1 (fun a b => if a.toNat ≤ b.toNat then a else b) g q d a b
/-- R108. -/
def opMaxn (g : BitVec 4) (q : BitVec 1) (d a b : BitVec 6) : Op :=
  alu 1 (fun a b => if a.toNat ≤ b.toNat then b else a) g q d a b
/-- R108. -/
def opShadd1 (g : BitVec 4) (q : BitVec 1) (d a b : BitVec 6) : Op :=
  alu 1 (fun a b => (a <<< 1) + b) g q d a b
/-- R108. -/
def opShadd2 (g : BitVec 4) (q : BitVec 1) (d a b : BitVec 6) : Op :=
  alu 1 (fun a b => (a <<< 2) + b) g q d a b
/-- R108. -/
def opShadd3 (g : BitVec 4) (q : BitVec 1) (d a b : BitVec 6) : Op :=
  alu 1 (fun a b => (a <<< 3) + b) g q d a b
/-- R113. -/
def opCmpeq (g : BitVec 4) (q : BitVec 1) (p a b : BitVec 6) : Op :=
  cmp (fun a b => a == b) g q p a b
/-- R113. -/
def opCmpne (g : BitVec 4) (q : BitVec 1) (p a b : BitVec 6) : Op :=
  cmp (fun a b => a != b) g q p a b
/-- R113. -/
def opCmplt (g : BitVec 4) (q : BitVec 1) (p a b : BitVec 6) : Op :=
  cmp (fun a b => a.toInt < b.toInt) g q p a b
/-- R113. -/
def opCmple (g : BitVec 4) (q : BitVec 1) (p a b : BitVec 6) : Op :=
  cmp (fun a b => a.toInt ≤ b.toInt) g q p a b
/-- R113. -/
def opCmpltn (g : BitVec 4) (q : BitVec 1) (p a b : BitVec 6) : Op :=
  cmp (fun a b => a.toNat < b.toNat) g q p a b
/-- R113. -/
def opCmplen (g : BitVec 4) (q : BitVec 1) (p a b : BitVec 6) : Op :=
  cmp (fun a b => a.toNat ≤ b.toNat) g q p a b
/-- R117. -/
def opFadd (g : BitVec 4) (q : BitVec 1) (d a b : BitVec 6) : Op :=
  falu 4 (fBinary addV) g q d a b
/-- R117. -/
def opFsub (g : BitVec 4) (q : BitVec 1) (d a b : BitVec 6) : Op :=
  falu 4 (fBinary fun x y => addV x y.flip) g q d a b
/-- R117. -/
def opFmul (g : BitVec 4) (q : BitVec 1) (d a b : BitVec 6) : Op :=
  falu 4 (fBinary mulE) g q d a b
/-- R117: s[d] is read at issue as the addend. -/
def opFfma (g : BitVec 4) (q : BitVec 1) (d a b : BitVec 6) : Op :=
  scalarOp g q true [sReg a.toNat, sReg b.toNat, sReg d.toNat] (sReg d.toNat) 4
    fun k =>
      let v := fun (n : BitVec 6) => decodeF fmtF32 (fOperand k n.toNat)
      let r := finish fmtF32 (fmaV (v a) (v b) (v d))
      (r.bits, r.fl)
/-- R117, R122. -/
def opFdiv (g : BitVec 4) (q : BitVec 1) (d a b : BitVec 6) : Op :=
  scalarLong g q [sReg a.toNat, sReg b.toNat] (sReg d.toNat)
    fun k => let r := fBinary divV (fOperand k a.toNat) (fOperand k b.toNat); (r.bits, r.fl)
/-- R117, R122. -/
def opFsqrt (g : BitVec 4) (q : BitVec 1) (d a : BitVec 6) : Op :=
  scalarLong g q [sReg a.toNat] (sReg d.toNat)
    fun k => let r := fUnary sqrtV (fOperand k a.toNat); (r.bits, r.fl)
/-- R118. -/
def opFmin (g : BitVec 4) (q : BitVec 1) (d a b : BitVec 6) : Op :=
  falu 2 (fun x y => plain (minMaxF fmtF32 false x y)) g q d a b
/-- R118. -/
def opFmax (g : BitVec 4) (q : BitVec 1) (d a b : BitVec 6) : Op :=
  falu 2 (fun x y => plain (minMaxF fmtF32 true x y)) g q d a b
/-- R118. -/
def opFabs (g : BitVec 4) (q : BitVec 1) (d a : BitVec 6) : Op :=
  falu1 1 (fun x => plain (absF fmtF32 x)) g q d a
/-- R118. -/
def opFneg (g : BitVec 4) (q : BitVec 1) (d a : BitVec 6) : Op :=
  falu1 1 (fun x => plain (negF fmtF32 x)) g q d a
/-- R119. -/
def opFceq (g : BitVec 4) (q : BitVec 1) (p a b : BitVec 6) : Op :=
  fcmp (fun c => c == some 0) g q p a b
/-- R119. -/
def opFclt (g : BitVec 4) (q : BitVec 1) (p a b : BitVec 6) : Op :=
  fcmp (fun c => match c with | some i => i < 0 | none => false) g q p a b
/-- R119. -/
def opFcle (g : BitVec 4) (q : BitVec 1) (p a b : BitVec 6) : Op :=
  fcmp (fun c => match c with | some i => i ≤ 0 | none => false) g q p a b
/-- R119. -/
def opFcun (g : BitVec 4) (q : BitVec 1) (p a b : BitVec 6) : Op :=
  fcmp (fun c => c.isNone) g q p a b
/-- R120. -/
def opFcvtif (g : BitVec 4) (q : BitVec 1) (d a : BitVec 6) (v : BitVec 2) : Op :=
  scalarOp g q true [sReg a.toNat] (sReg d.toNat) 3
    fun k => let r := cvtIF v (readS k a.toNat); (r.bits, r.fl)
/-- R120. -/
def opFcvtfi (g : BitVec 4) (q : BitVec 1) (d a : BitVec 6) (v : BitVec 2) : Op :=
  scalarOp g q true [sReg a.toNat] (sReg d.toNat) 3
    fun k => cvtFI v (fOperand k a.toNat)
/-- R121. -/
def opFexp2 (g : BitVec 4) (q : BitVec 1) (d a : BitVec 6) : Op :=
  falu1 8 (fUnary exp2V) g q d a
/-- R121. -/
def opFlog2 (g : BitVec 4) (q : BitVec 1) (d a : BitVec 6) : Op :=
  falu1 8 (fUnary log2V) g q d a
/-- R112. -/
def opClz (g : BitVec 4) (q : BitVec 1) (d a : BitVec 6) : Op :=
  alu1 (fun a => BitVec.ofNat 64 (leadingZeros a)) g q d a
/-- R112. -/
def opCtz (g : BitVec 4) (q : BitVec 1) (d a : BitVec 6) : Op :=
  alu1 (fun a => BitVec.ofNat 64 (trailingZeros a)) g q d a
/-- R112. -/
def opPopc (g : BitVec 4) (q : BitVec 1) (d a : BitVec 6) : Op :=
  alu1 (fun a => BitVec.ofNat 64 (oneBits 64 a.toNat)) g q d a
/-- R112. -/
def opSext (g : BitVec 4) (q : BitVec 1) (d a n : BitVec 6) : Op :=
  alu1 (fun a => wordOfInt (signed (n.toNat + 1) a.toNat)) g q d a
/-- R112. -/
def opZext (g : BitVec 4) (q : BitVec 1) (d a n : BitVec 6) : Op :=
  alu1 (fun a => BitVec.ofNat 64 (a.toNat % 2 ^ (n.toNat + 1))) g q d a
/-- R111. -/
def opBfx (g : BitVec 4) (q : BitVec 1) (d a b : BitVec 6) : Op :=
  alu 1 extractSigned g q d a b
/-- R111. -/
def opBfxn (g : BitVec 4) (q : BitVec 1) (d a b : BitVec 6) : Op :=
  alu 1 (fun a b => BitVec.ofNat 64 (extractField a b)) g q d a b
/-- R111: s[d] is read at issue. -/
def opBfi (g : BitVec 4) (q : BitVec 1) (d a b : BitVec 6) : Op :=
  scalarOp g q true [sReg a.toNat, sReg b.toNat, sReg d.toNat] (sReg d.toNat) 1
    fun k => ((insertField (readS k d.toNat) (readS k a.toNat) (readS k b.toNat)).toNat, 0)
/-- R112. -/
def opMov (g : BitVec 4) (q : BitVec 1) (d a : BitVec 6) : Op :=
  alu1 id g q d a
/-- R114: function 00 AND, 01 OR, 10 XOR, 11 ANDN. -/
def opMovp (g : BitVec 4) (q : BitVec 1) (p : BitVec 6) (a : BitVec 4) (f : BitVec 2) (b : BitVec 4) : Op :=
  scalarOp g q (evenPred p.toNat) [pReg a.toNat, pReg b.toNat] (.p (p.toNat / 2)) 1
    fun k =>
      let x := readP k a.toNat
      let y := readP k b.toNat
      (natOf (match f.toNat with | 0 => x && y | 1 => x || y | 2 => x != y | _ => x && !y), 0)
/-- R114. -/
def opMovtp (g : BitVec 4) (q : BitVec 1) (p a : BitVec 6) : Op :=
  scalarOp g q (evenPred p.toNat) [sReg a.toNat] (.p (p.toNat / 2)) 1
    fun k => (natOf (readS k a.toNat != 0), 0)
/-- R108. -/
def opAddi (g : BitVec 4) (q : BitVec 1) (d a i : BitVec 6) : Op :=
  alui 1 (fun a b => a + b) g q d a i
/-- R108. -/
def opMuli (g : BitVec 4) (q : BitVec 1) (d a i : BitVec 6) : Op :=
  alui 3 (fun a b => a * b) g q d a i
/-- R108. -/
def opAndi (g : BitVec 4) (q : BitVec 1) (d a i : BitVec 6) : Op :=
  alui 1 (fun a b => a &&& b) g q d a i
/-- R108. -/
def opOri (g : BitVec 4) (q : BitVec 1) (d a i : BitVec 6) : Op :=
  alui 1 (fun a b => a ||| b) g q d a i
/-- R108. -/
def opXori (g : BitVec 4) (q : BitVec 1) (d a i : BitVec 6) : Op :=
  alui 1 (fun a b => a ^^^ b) g q d a i
/-- R110. -/
def opShli (g : BitVec 4) (q : BitVec 1) (d a i : BitVec 6) : Op :=
  shifti (fun a n => a <<< n) g q d a i
/-- R110. -/
def opShri (g : BitVec 4) (q : BitVec 1) (d a i : BitVec 6) : Op :=
  shifti (fun a n => a >>> n) g q d a i
/-- R110. -/
def opSari (g : BitVec 4) (q : BitVec 1) (d a i : BitVec 6) : Op :=
  shifti (fun a n => a.sshiftRight n) g q d a i
/-- R113. -/
def opCmpeqi (g : BitVec 4) (q : BitVec 1) (p a i : BitVec 6) : Op :=
  cmpi (fun a b => a == b) g q p a i
/-- R113. -/
def opCmpnei (g : BitVec 4) (q : BitVec 1) (p a i : BitVec 6) : Op :=
  cmpi (fun a b => a != b) g q p a i
/-- R113. -/
def opCmplti (g : BitVec 4) (q : BitVec 1) (p a i : BitVec 6) : Op :=
  cmpi (fun a b => a.toInt < b.toInt) g q p a i
/-- R113. -/
def opCmpltni (g : BitVec 4) (q : BitVec 1) (p a i : BitVec 6) : Op :=
  cmpi (fun a b => a.toNat < b.toNat) g q p a i
/-- R115. -/
def opMovi (g : BitVec 4) (q : BitVec 1) (d : BitVec 6) (i : BitVec 12) : Op :=
  immOp 12 i.toNat g q true [] (sReg d.toNat) 1 fun _ imm => imm.toNat
/-- R115, R116: s[d] is read at issue; only bits 24:0 of the immediate count. -/
def opMovhi (g : BitVec 4) (q : BitVec 1) (d : BitVec 6) (i : BitVec 12) : Op :=
  immOp 12 i.toNat g q true [sReg d.toNat] (sReg d.toNat) 1
    fun k imm => (readS k d.toNat).toNat % 2 ^ 39 + imm.toNat % 2 ^ 25 * 2 ^ 39
end Sys2Proof.Machine
end

