-- ==== Sys2Proof/Machine/Vector.lean ====
section
/-! DEFINITION. Classes 4 to 7: vector instructions (R123–R148). Each definition is one instruction's meaning; element
types, guards and the shapes they share come first. -/

namespace Sys2Proof.Machine

/-! ### Element types (R42, R83, R84, R127) -/

/-- An element type: an integer, by signedness and width, or a float format. -/
inductive VTy where
  | int (sg : Bool) (e : Nat)
  | flt (f : FloatFmt)
  deriving DecidableEq, Repr

/-- The width of an element in bits. -/
def VTy.bits : VTy → Nat
  | .int _ e => e
  | .flt f => f.width

/-- The type that a type3 code selects from a table (R42); a reserved code selects none. -/
def typeOf (table t : Nat) : Option VTy :=
  if table = 0 then
    match t with
    | 0 => some (.int true 8) | 1 => some (.int false 8) | 2 => some (.int true 16) | 3 => some (.int false 16)
    | 4 => some (.int true 32) | 5 => some (.int false 32) | 6 => some (.flt fmtF16) | _ => some (.flt fmtF32)
  else if table = 1 then
    match t with
    | 0 => some (.flt fmtE4m3) | 1 => some (.flt fmtE5m2) | 2 => some (.flt fmtBf16)
    | 3 => some (.int true 4) | 4 => some (.int false 4) | _ => none
  else none

/-- The sets of R127. -/
def setI (t : VTy) : Bool := match t with | .int _ e => e ≠ 4 | .flt _ => false
def setI4 (t : VTy) : Bool := match t with | .int _ e => e = 4 | .flt _ => false
def setF (t : VTy) : Bool := match t with | .flt f => f.width ≠ 8 | .int _ _ => false
def setF8 (t : VTy) : Bool := match t with | .flt f => f.width = 8 | .int _ _ => false
def setAny (_ : VTy) : Bool := true
def setII4 (t : VTy) : Bool := setI t || setI4 t
def setIF (t : VTy) : Bool := setI t || setF t
def setIFF8 (t : VTy) : Bool := setI t || setF t || setF8 t
def setAll (t : VTy) : Bool := setI t || setI4 t || setF t || setF8 t

/-! ### What a header adds to a vector slot (R38, R41) -/

/-- Width, base lane group, the sixth bits of the three fields, the element type, and whether the extension is legal. -/
structure VX where
  w : Nat
  g : Nat
  d5 : Nat
  a5 : Nat
  b5 : Nat
  table : Nat
  ty : Option VTy
  ok : Bool
  deriving DecidableEq, Repr

/-- R38: the extension of a vector slot with type code `t`; the base must be a multiple of the width in lane groups. -/
def vx (e : Ext) (t : BitVec 3) : VX :=
  let wc := bitsOf e.x 7 2
  let g := bitsOf e.x 5 2
  { w := if wc = 0 then 1024 else if wc = 1 then 512 else 256
    g := g
    d5 := bitsOf e.x 4 1 * 32
    a5 := bitsOf e.x 3 1 * 32
    b5 := bitsOf e.x 2 1 * 32
    table := e.x % 4
    ty := typeOf (e.x % 4) t.toNat
    ok := (wc = 0 ∧ g = 0) ∨ (wc = 1 ∧ g % 2 = 0) ∨ wc = 2 }

/-- The lowest bit of the operation. -/
def VX.lo (x : VX) : Nat := 256 * x.g
/-- The element width, 8 where the type is not legal. -/
def VX.e (x : VX) : Nat := match x.ty with | some t => t.bits | none => 8
/-- The element type, where it is legal. -/
def VX.t (x : VX) : VTy := x.ty.getD (.int true 8)
/-- The element count. -/
def VX.n (x : VX) : Nat := x.w / x.e
/-- The bytes of an element: its guard is the q bit of its lowest byte (R124). -/
def bytesOf (e : Nat) : Nat := if e < 8 then 1 else e / 8

/-- A vector slot over elements of `eb` bytes in its width (R125). -/
def vecSlot (g : BitVec 4) (q : BitVec 1) (x : VX) (ok : Bool) (eb : Nat) (reads writes : List Reg)
    (run : Port → State → SlotRes) : SlotInfo where
  legal := x.ok && ok
  res := .vector x.w x.g
  guard := .lane g.toNat (32 * x.g) (x.w / 8) eb
  squash := q = 1
  reads := reads
  writes := writes
  run := run

/-- A type of the set, present and legal. -/
def tyIn (x : VX) (set : VTy → Bool) : Bool := match x.ty with | some t => set t | none => false

/-! ### Elements in and out -/

/-- The elements of width `e` of a register's operation part, `n` of them. -/
def srcElems (v : VWord) (lo e n : Nat) : List Nat := elems e (v.toNat / 2 ^ lo) n

/-- Results placed from element `i` on, each written and flagged only if its lowest byte's guard bit is true (R63, R124):
mask, value and flags. -/
def place (lanes : QWord) (lo e : Nat) (i : Nat) : List FRes → Nat × Nat × Nat
  | [] => (0, 0, 0)
  | r :: t =>
    let (m, v, fl) := place lanes lo e (i + 1) t
    let at_ := lo + e * i
    if lanes.getLsbD (at_ / 8) then (m + ones e * 2 ^ at_, v + r.bits % 2 ^ e * 2 ^ at_, fl ||| r.fl) else (m, v, fl)

/-- The bytes from `lo` to `hi - 1` (in bits) that are written zero, each under its own guard bit (R124). -/
def zeroFill (lanes : QWord) (lo hi : Nat) : Nat :=
  (List.range ((hi - lo) / 8)).foldl
    (fun m j => if lanes.getLsbD (lo / 8 + j) then m + 255 * 2 ^ (lo + 8 * j) else m) 0

/-- A vector result. -/
def vOut (d lat : Nat) (r : Nat × Nat × Nat) : Effect :=
  { outs := [{ reg := .v d, mask := r.1, val := r.2.1, fl := r.2.2, lat := lat }] }

/-- Elementwise work on va, vb and the old vd (R128): types, latency by type, which fields the form has, and the element's
result. -/
def vecMap (set : VTy → Bool) (lat : VTy → Nat) (useB useD : Bool) (f : VTy → Nat → Nat → Nat → FRes)
    (g : BitVec 4) (q : BitVec 1) (t : BitVec 3) (d a b : BitVec 5) : Op := fun e =>
  let x := vx e t
  let vd := d.toNat + x.d5
  let va := a.toNat + x.a5
  let vb := b.toNat + x.b5
  vecSlot g q x (tyIn x set && vd != 63 && (useB || x.b5 == 0)) (bytesOf x.e)
    ([vReg va] ++ (if useB then [vReg vb] else []) ++ (if useD then [.v vd] else [])) [.v vd]
    fun p s =>
      let k := p.reads s
      let es := fun r => srcElems (readV k r) x.lo x.e x.n
      let rs := ((es va).zip ((if useB then es vb else es va).zip (es vd))).map (fun z => f x.t z.1 z.2.1 z.2.2)
      .go (vOut vd (lat x.t) (place p.lanes x.lo x.e 0 rs))

/-- Across-element work on va (and vb): the whole list of source elements to the list of results (R124). -/
def vecWhole (set : VTy → Bool) (lat : Nat) (useB : Bool) (f : VTy → List Nat → List Nat → List FRes)
    (g : BitVec 4) (q : BitVec 1) (t : BitVec 3) (d a b : BitVec 5) : Op := fun e =>
  let x := vx e t
  let vd := d.toNat + x.d5
  let va := a.toNat + x.a5
  let vb := b.toNat + x.b5
  vecSlot g q x (tyIn x set && vd != 63 && (useB || x.b5 == 0)) (bytesOf x.e)
    ([vReg va] ++ (if useB then [vReg vb] else [])) [.v vd]
    fun p s =>
      let k := p.reads s
      let es := fun r => srcElems (readV k r) x.lo x.e x.n
      .go (vOut vd lat (place p.lanes x.lo x.e 0 (f x.t (es va) (if useB then es vb else []))))

/-- A lane-predicate result: the byte bits of each element under its guard (R132). -/
def placeQ (lanes : QWord) (lo e : Nat) (i : Nat) : List Bool → Nat × Nat
  | [] => (0, 0)
  | r :: t =>
    let (m, v) := placeQ lanes lo e (i + 1) t
    let at_ := (lo + e * i) / 8
    if lanes.getLsbD at_ then
      (m + ones (bytesOf e) * 2 ^ at_, if r then v + ones (bytesOf e) * 2 ^ at_ else v)
    else (m, v)

/-- A lane-predicate destination: even, 0 to 10, with no header bit (R25, R126). -/
def qDest (d : BitVec 5) (x : VX) : Bool := evenPred d.toNat && x.d5 == 0

/-- An elementwise compare into a lane-predicate pair (R132). -/
def vecCmp (set : VTy → Bool) (useB : Bool) (f : VTy → Nat → Nat → Bool)
    (g : BitVec 4) (q : BitVec 1) (t : BitVec 3) (d a b : BitVec 5) : Op := fun e =>
  let x := vx e t
  let va := a.toNat + x.a5
  let vb := b.toNat + x.b5
  vecSlot g q x (tyIn x set && qDest d x && (useB || x.b5 == 0)) (bytesOf x.e)
    ([vReg va] ++ (if useB then [vReg vb] else [])) [.q (d.toNat / 2)]
    fun p s =>
      let k := p.reads s
      let es := fun r => srcElems (readV k r) x.lo x.e x.n
      let bs := if useB then es vb else (es va).map (fun _ => b.toNat)
      let r := placeQ p.lanes x.lo x.e 0 (((es va).zip bs).map (fun z => f x.t z.1 z.2))
      .go { outs := [{ reg := .q (d.toNat / 2), mask := r.1, val := r.2, lat := 2 }] }

/-- Lane-predicate logic over the byte bits of the width (R135); the two nibbles of a byte share its bit. -/
def qLogic (f : QWord → QWord → QWord) (g : BitVec 4) (q : BitVec 1) (t : BitVec 3) (d : BitVec 5) (a b : BitVec 4) :
    Op := fun e =>
  let x := vx e t
  vecSlot g q x (tyIn x setAny && qDest d x && x.a5 == 0 && x.b5 == 0) (bytesOf x.e)
    [qReg a.toNat, qReg b.toNat] [.q (d.toNat / 2)]
    fun p s =>
      let k := p.reads s
      let m := (placeQ p.lanes x.lo (max 8 x.e) 0 (List.replicate (x.w / max 8 x.e) true)).1
      .go { outs := [{ reg := .q (d.toNat / 2), mask := m,
                       val := (f (readQ k a.toNat) (readQ k b.toNat)).toNat, lat := 1 }] }

/-! ### Element functions -/

/-- A binary integer or float element operation, by the type: integers exactly, then cut to the width; floats rounded once
(R129, R130). -/
def arith (fi : Int → Int → Int → Int) (ff : FVal → FVal → FVal → Exact) (t : VTy) (a b d : Nat) : FRes :=
  match t with
  | .int sg e => ⟨narrow e (fi (intVal sg e a) (intVal sg e b) (intVal sg e d)), 0⟩
  | .flt f => finish f (ff (decodeF f a) (decodeF f b) (decodeF f d))

/-- A saturating integer operation (R129). -/
def saturate (fi : Int → Int → Int) (t : VTy) (a b _d : Nat) : FRes :=
  match t with
  | .int sg e =>
    let r := clampInt (intLo sg e) (intHi sg e) (fi (intVal sg e a) (intVal sg e b))
    ⟨narrow e r.1, r.2⟩
  | .flt _ => ⟨0, 0⟩

/-- An exact integer operation that cannot leave the range. -/
def integral (fi : Nat → Int → Int → Int) (t : VTy) (a b _d : Nat) : FRes :=
  match t with
  | .int sg e => ⟨narrow e (fi e (intVal sg e a) (intVal sg e b)), 0⟩
  | .flt _ => ⟨0, 0⟩

/-- The smaller or larger element (R118, R129, R130). -/
def pick (wantMax : Bool) (t : VTy) (a b : Nat) : Nat :=
  match t with
  | .int sg e => if (intVal sg e a ≤ intVal sg e b) ↔ wantMax then b else a
  | .flt f => minMaxF f wantMax a b

/-- Latency 2 for integers and 5 for floats (R58). -/
def lat25 : VTy → Nat | .int _ _ => 2 | .flt _ => 5
/-- Latency 4 for integers and 5 for floats (R58). R58 names no latency for VFMA and VFMS on integer types: the model gives
them that of VMUL (log entry 83). -/
def lat45 : VTy → Nat | .int _ _ => 4 | .flt _ => 5
/-- A latency that the type does not change. -/
def latN (n : Nat) : VTy → Nat := fun _ => n

/-- An element compare (R132); a NaN makes every condition but VCNE false. -/
def vcond (f : Int → Bool) (onNan : Bool) (t : VTy) (a b : Nat) : Bool :=
  match t with
  | .int sg e => f (intVal sg e a - intVal sg e b)
  | .flt m =>
    let x := decodeF m a
    let y := decodeF m b
    if x.isNan || y.isNan then onNan else f (cmpV x y)

/-- The class of a float element as a bit of VCLASS's mask (R132). -/
def classBit (f : FloatFmt) (a : Nat) : Nat :=
  match decodeF f a with
  | .nan => 0
  | .inf _ => 1
  | .fin _ m _ => if m = 0 then 4 else if m < 2 ^ f.mbits then 3 else 2

/-- How a conversion treats what does not fit (R91, R136): `sat` for VCVTNS and for an engine with SAT. Between identical float
formats it copies, but for a NaN (R136, R238). -/
def convert (sat : Bool) (src dst : VTy) (a : Nat) : FRes :=
  match src, dst with
  | .int sg e, .int dg d =>
    if sat then
      let r := clampInt (intLo dg d) (intHi dg d) (intVal sg e a)
      ⟨narrow d r.1, r.2⟩
    else ⟨narrow d (intVal sg e a), 0⟩
  | .flt f, .int dg d =>
    let r := exactToIntSat (d < 16) (intLo dg d) (intHi dg d) (decodeF f a).exact
    ⟨narrow d r.1, r.2⟩
  | .int sg e, .flt f => rounded f (FVal.ofInt (intVal sg e a)).exact
  | .flt g, .flt f =>
    if g = f then ⟨if (decodeF f a).isNan then f.nanBits else a % 2 ^ f.width, 0⟩ else rounded f (decodeF g a).exact
where
  /-- An exact value into a float format, under the rows of R91. Its table has no row for VCVTN into f16 or bf16: the model takes
  the first (log entry 82). -/
  rounded (f : FloatFmt) (x : Exact) : FRes :=
    if sat then finishWith f f.away .max .max x
    else finishWith f f.away (if f.hasInf then .inf else .nan) (if f.hasInf then .inf else .nan) x

/-- R145: the draw of a counter and a key. -/
def mixRound (k x : Nat) (r : Nat) : Nat :=
  let m := 2 ^ 32
  let x := (x + k + r * 0x3C6EF372) % m
  let x := x ^^^ (x / 2 ^ 16)
  let x := x * 0x6B3A9D25 % m
  let x := x ^^^ (x / 2 ^ 13)
  let x := x * 0x9C41E2B7 % m
  x ^^^ (x / 2 ^ 16)
/-- R145: six rounds. -/
def mix (c k : Nat) : Nat := (List.range 6).foldl (mixRound k) c

/-- Whether element `a` ranks strictly above `b` in VTOPK (R146): NaN above +infinity, zeros equal. -/
def ranksAbove (t : VTy) (a b : Nat) : Bool :=
  match t with
  | .int sg e => intVal sg e a > intVal sg e b
  | .flt f =>
    let x := decodeF f a
    let y := decodeF f b
    if x.isNan then !y.isNan else if y.isNan then false else cmpV x y > 0

/-- R146: the index of the element of rank `r`, if there is one. -/
def rankIndex (t : VTy) (xs : List Nat) (r : Nat) : Option Nat :=
  (List.range xs.length).find? fun i =>
    let v := nth xs i 0
    r = countIf (fun z => ranksAbove t z.1 v || (!ranksAbove t v z.1 && z.2 < i)) xs.zipIdx

/-- The exact sum of integer elements, clamped (R140, R141). -/
def sumClamp (sg : Bool) (e : Nat) (xs : List Nat) : FRes :=
  let r := clampInt (intLo sg e) (intHi sg e) (isum (xs.map (intVal sg e)))
  ⟨narrow e r.1, r.2⟩

/-- The sum of elements: clamped for integers, exact and rounded once for floats (R94, R140). -/
def sumElems (t : VTy) (xs : List Nat) : FRes :=
  match t with
  | .int sg e => sumClamp sg e xs
  | .flt f =>
    let vs := xs.map (decodeF f)
    finishWith f f.away .inf .inf (sumV vs (vs.any FVal.isNan) false)

/-- The largest or smallest element; NaN elements are ignored (R140). -/
def reduceElems (wantMax : Bool) (t : VTy) : List Nat → Nat
  | [] => 0
  | [x] => (match t with | .flt f => (if (decodeF f x).isNan then f.nanBits else x) | .int _ _ => x)
  | x :: y :: r => pick wantMax t x (reduceElems wantMax t (y :: r))

/-- The largest magnitude (R140). -/
def maxMagnitude (t : VTy) (xs : List Nat) : FRes :=
  match t with
  | .int sg e =>
    let m := xs.foldl (fun m a => max m (intVal sg e a).natAbs) 0
    let r := clampInt (intLo sg e) (intHi sg e) m
    ⟨narrow e r.1, r.2⟩
  | .flt f => ⟨reduceElems true t (xs.map (absF f)), 0⟩

/-- The row and column of 32-bit index `p` of a scale operation (R147). -/
def scaleRow (k : Ctx) (latch : Bool) (p : Nat) : Nat := if latch then (if k.drain.isSome then k.latchRow else 0) else p / 16
def scaleCol (latch : Bool) (p : Nat) : Nat := if latch then p else p % 16

/-- The row and column scales of 32-bit index `p` under pair `j` (R147). -/
def scales (k : Ctx) (latch : Bool) (j p : Nat) : FVal × FVal :=
  (decodeF fmtF32 (elem 32 (mget k.k (2 * j) 0).toNat (scaleRow k latch p)),
   decodeF fmtF32 (elem 32 (mget k.k (2 * j + 1) 0).toNat (scaleCol latch p)))

/-- An exact product of three values (R100). -/
def mul3 (x a b : FVal) : Exact :=
  let (p, bad) := mulV x a
  if bad then .nan (!b.isNan) else mulE p b

/-- R100: the exact quotient of a value by the product of two scales. -/
def quotient (x a b : FVal) : Exact :=
  let (p, bad) := mulV a b
  if bad then .nan (!x.isNan) else divV x p

/-- VQNT of an exact quotient into its target (R100): integers under R90, with DZ where a zero scale made the quotient
infinite; FP8 saturates. -/
def quantize (t : VTy) (x : Exact) : FRes :=
  match t with
  | .int sg e =>
    let r := exactToIntSat (e < 16) (intLo sg e) (intHi sg e) x
    ⟨narrow e r.1, r.2 ||| (match x with | .inf _ dz => flagIf dz flagDZ | _ => 0)⟩
  | .flt f => finishWith f f.away .max .max x

/-! ### The instructions -/

/-- R128–R130. -/
def opVadd (g : BitVec 4) (q : BitVec 1) (t : BitVec 3) (d a b : BitVec 5) : Op :=
  vecMap setAll lat25 true false (arith (fun a b _ => a + b) (fun a b _ => addV a b)) g q t d a b

/-- R128–R130. -/
def opVsub (g : BitVec 4) (q : BitVec 1) (t : BitVec 3) (d a b : BitVec 5) : Op :=
  vecMap setAll lat25 true false (arith (fun a b _ => a - b) (fun a b _ => addV a b.flip)) g q t d a b

/-- R128–R130. -/
def opVmul (g : BitVec 4) (q : BitVec 1) (t : BitVec 3) (d a b : BitVec 5) : Op :=
  vecMap setIFF8 lat45 true false (arith (fun a b _ => a * b) (fun a b _ => mulE a b)) g q t d a b

/-- R128. -/
def opVmulh (g : BitVec 4) (q : BitVec 1) (t : BitVec 3) (d a b : BitVec 5) : Op :=
  vecMap setI (latN 4) true false (integral (fun e a b => a * b / 2 ^ e)) g q t d a b

/-- R128–R130. -/
def opVfma (g : BitVec 4) (q : BitVec 1) (t : BitVec 3) (d a b : BitVec 5) : Op :=
  vecMap setIFF8 lat45 true true (arith (fun a b d => d + a * b) (fun a b d => fmaV a b d)) g q t d a b

/-- R128–R130. -/
def opVfms (g : BitVec 4) (q : BitVec 1) (t : BitVec 3) (d a b : BitVec 5) : Op :=
  vecMap setIFF8 lat45 true true (arith (fun a b d => d - a * b) (fun a b d => fmaV a.flip b d)) g q t d a b

/-- R128–R130. -/
def opVmin (g : BitVec 4) (q : BitVec 1) (t : BitVec 3) (d a b : BitVec 5) : Op :=
  vecMap setAll lat25 true false (fun t a b _ => ⟨pick false t a b, 0⟩) g q t d a b

/-- R128–R130. -/
def opVmax (g : BitVec 4) (q : BitVec 1) (t : BitVec 3) (d a b : BitVec 5) : Op :=
  vecMap setAll lat25 true false (fun t a b _ => ⟨pick true t a b, 0⟩) g q t d a b

/-- R128–R130. -/
def opVabs (g : BitVec 4) (q : BitVec 1) (t : BitVec 3) (d a : BitVec 5) : Op :=
  vecMap setAll lat25 false false (fun t a _ _ => ⟨match t with
    | .int sg e => narrow e (intVal sg e a).natAbs
    | .flt f => absF f a, 0⟩) g q t d a 0

/-- R128–R130. -/
def opVneg (g : BitVec 4) (q : BitVec 1) (t : BitVec 3) (d a : BitVec 5) : Op :=
  vecMap setAll lat25 false false (fun t a _ _ => ⟨match t with
    | .int sg e => narrow e (-(intVal sg e a))
    | .flt f => negF f a, 0⟩) g q t d a 0

/-- R128, R129. -/
def opVadds (g : BitVec 4) (q : BitVec 1) (t : BitVec 3) (d a b : BitVec 5) : Op :=
  vecMap setII4 lat25 true false (saturate (fun a b => a + b)) g q t d a b

/-- R128, R129. -/
def opVsubs (g : BitVec 4) (q : BitVec 1) (t : BitVec 3) (d a b : BitVec 5) : Op :=
  vecMap setII4 lat25 true false (saturate (fun a b => a - b)) g q t d a b

/-- R128. -/
def opVavg (g : BitVec 4) (q : BitVec 1) (t : BitVec 3) (d a b : BitVec 5) : Op :=
  vecMap setII4 lat25 true false (integral (fun _ a b => (a + b + 1) / 2)) g q t d a b

/-- R130: i32 results (n32 for n8), saturated. -/
def opVdot4 (g : BitVec 4) (q : BitVec 1) (t : BitVec 3) (d a b : BitVec 5) : Op :=
  fun e =>
  let x := vx e t
  let vd := d.toNat + x.d5
  let va := a.toNat + x.a5
  let vb := b.toNat + x.b5
  let sg := match x.t with | .int s _ => s | .flt _ => false
  vecSlot g q x (tyIn x (fun t => setI t && t.bits == 8) && vd != 63) 4 [vReg va, vReg vb, .v vd] [.v vd]
    fun p s =>
      let k := p.reads s
      let iv := fun (n y : Nat) => intVal sg n y
      let dot := fun (j : Nat) =>
        let u := elem 32 ((readV k va).toNat / 2 ^ x.lo) j
        let v := elem 32 ((readV k vb).toNat / 2 ^ x.lo) j
        let d := elem 32 ((readV k vd).toNat / 2 ^ x.lo) j
        let sum := iv 32 d + isum ((List.range 4).map (fun i => iv 8 (elem 8 u i) * iv 8 (elem 8 v i)))
        let r := clampInt (intLo sg 32) (intHi sg 32) sum
        (⟨narrow 32 r.1, r.2⟩ : FRes)
      .go (vOut vd 4 (place p.lanes x.lo 32 0 ((List.range (x.w / 32)).map dot)))

/-- R130: the low half of the width, into the type of twice the width. -/
def opVmulw (g : BitVec 4) (q : BitVec 1) (t : BitVec 3) (d a b : BitVec 5) : Op :=
  fun e =>
  let x := vx e t
  let vd := d.toNat + x.d5
  let va := a.toNat + x.a5
  let vb := b.toNat + x.b5
  vecSlot g q x (tyIn x (fun t => (setI t && t.bits != 32) || (setF t && t.bits == 16)) && vd != 63)
    (bytesOf (2 * x.e)) [vReg va, vReg vb] [.v vd]
    fun p s =>
      let k := p.reads s
      let es := fun r => srcElems (readV k r) x.lo x.e (x.n / 2)
      let mul := fun (z : Nat × Nat) => match x.t with
        | .int sg n => (⟨narrow (2 * n) (intVal sg n z.1 * intVal sg n z.2), 0⟩ : FRes)
        | .flt f => finish fmtF32 (mulE (decodeF f z.1) (decodeF f z.2))
      .go (vOut vd (lat45 x.t) (place p.lanes x.lo (2 * x.e) 0 (((es va).zip (es vb)).map mul)))

/-- R128, R129: min(max(d, a), b). -/
def opVclamp (g : BitVec 4) (q : BitVec 1) (t : BitVec 3) (d a b : BitVec 5) : Op :=
  vecMap setAll lat25 true true (fun t a b d => ⟨pick false t (pick true t d a) b, 0⟩) g q t d a b

/-- R131. -/
def opVand (g : BitVec 4) (q : BitVec 1) (t : BitVec 3) (d a b : BitVec 5) : Op :=
  vecMap setAny (latN 1) true false (fun _ a b _ => ⟨a &&& b, 0⟩) g q t d a b

/-- R131. -/
def opVor (g : BitVec 4) (q : BitVec 1) (t : BitVec 3) (d a b : BitVec 5) : Op :=
  vecMap setAny (latN 1) true false (fun _ a b _ => ⟨a ||| b, 0⟩) g q t d a b

/-- R131. -/
def opVxor (g : BitVec 4) (q : BitVec 1) (t : BitVec 3) (d a b : BitVec 5) : Op :=
  vecMap setAny (latN 1) true false (fun _ a b _ => ⟨a ^^^ b, 0⟩) g q t d a b

/-- R131. -/
def opVandn (g : BitVec 4) (q : BitVec 1) (t : BitVec 3) (d a b : BitVec 5) : Op :=
  vecMap setAny (latN 1) true false (fun t a b _ => ⟨a &&& (ones t.bits - b), 0⟩) g q t d a b

/-- R131. -/
def opVnot (g : BitVec 4) (q : BitVec 1) (t : BitVec 3) (d a : BitVec 5) : Op :=
  vecMap setAny (latN 1) false false (fun t a _ _ => ⟨ones t.bits - a, 0⟩) g q t d a 0

/-- R131. -/
def opVshl (g : BitVec 4) (q : BitVec 1) (t : BitVec 3) (d a b : BitVec 5) : Op :=
  vecMap setII4 (latN 1) true false (fun t a b _ => ⟨a * 2 ^ (b % t.bits), 0⟩) g q t d a b

/-- R131. -/
def opVshr (g : BitVec 4) (q : BitVec 1) (t : BitVec 3) (d a b : BitVec 5) : Op :=
  vecMap setII4 (latN 1) true false (fun t a b _ => ⟨a / 2 ^ (b % t.bits), 0⟩) g q t d a b

/-- R131. -/
def opVsar (g : BitVec 4) (q : BitVec 1) (t : BitVec 3) (d a b : BitVec 5) : Op :=
  vecMap setII4 (latN 1) true false (fun t a b _ => ⟨narrow t.bits (signed t.bits a / 2 ^ (b % t.bits)), 0⟩) g q t d a b

/-- R132. -/
def opVceq (g : BitVec 4) (q : BitVec 1) (t : BitVec 3) (d a b : BitVec 5) : Op :=
  vecCmp setIFF8 true (vcond (fun c => c = 0) false) g q t d a b

/-- R132. -/
def opVcne (g : BitVec 4) (q : BitVec 1) (t : BitVec 3) (d a b : BitVec 5) : Op :=
  vecCmp setIFF8 true (vcond (fun c => c ≠ 0) true) g q t d a b

/-- R132. -/
def opVclt (g : BitVec 4) (q : BitVec 1) (t : BitVec 3) (d a b : BitVec 5) : Op :=
  vecCmp setIFF8 true (vcond (fun c => c < 0) false) g q t d a b

/-- R132. -/
def opVcle (g : BitVec 4) (q : BitVec 1) (t : BitVec 3) (d a b : BitVec 5) : Op :=
  vecCmp setIFF8 true (vcond (fun c => c ≤ 0) false) g q t d a b

/-- R132. -/
def opVclass (g : BitVec 4) (q : BitVec 1) (t : BitVec 3) (d a m : BitVec 5) : Op :=
  vecCmp (fun t => setF t || setF8 t) false
    (fun t a m => match t with | .flt f => bitOf m (classBit f a) | .int _ _ => false) g q t d a m

/-- R133: the selector is q(2s), which the type field names; the element is a byte. -/
def opVsel (g : BitVec 4) (q : BitVec 1) (s : BitVec 3) (d a b : BitVec 5) : Op :=
  fun e =>
  let x := vx e 0
  let vd := d.toNat + x.d5
  let va := a.toNat + x.a5
  let vb := b.toNat + x.b5
  vecSlot g q x (x.table == 0 && vd != 63) 1 [vReg va, vReg vb, qReg (2 * s.toNat)] [.v vd]
    fun p st =>
      let k := p.reads st
      let sel := readQ k (2 * s.toNat)
      let es := fun r => srcElems (readV k r) x.lo 8 (x.w / 8)
      let rs := ((es va).zip (es vb)).zipIdx.map
        (fun z => (⟨if sel.getLsbD (32 * x.g + z.2) then z.1.1 else z.1.2, 0⟩ : FRes))
      .go (vOut vd 1 (place p.lanes x.lo 8 0 rs))

/-- R134. -/
def opVmov (g : BitVec 4) (q : BitVec 1) (t : BitVec 3) (d a : BitVec 5) : Op :=
  vecMap setAny (latN 1) false false (fun _ a _ _ => ⟨a, 0⟩) g q t d a 0

/-- R134: the scalar is s(a) with the header bit. -/
def opVbc (g : BitVec 4) (q : BitVec 1) (t : BitVec 3) (d a : BitVec 5) : Op :=
  fun e =>
  let x := vx e t
  let vd := d.toNat + x.d5
  let sa := a.toNat + x.a5
  vecSlot g q x (tyIn x setAll && vd != 63 && x.b5 == 0) (bytesOf x.e) [sReg sa] [.v vd]
    fun p s => .go (vOut vd 1 (place p.lanes x.lo x.e 0 (List.replicate x.n ⟨(readS (p.reads s) sa).toNat, 0⟩)))

/-- R134: the only element is the one the index names, and its guard is the slot's. -/
def opVmovs (g : BitVec 4) (q : BitVec 1) (t : BitVec 3) (d a n : BitVec 5) : Op :=
  fun e =>
  let x := vx e t
  let sd := d.toNat + x.d5
  let va := a.toNat + x.a5
  let i := n.toNat + x.b5
  let o := vecSlot g q x (tyIn x setIFF8 && i < x.n) (bytesOf x.e) [vReg va] [sReg sd]
    fun p s =>
      let v := elem x.e ((readV (p.reads s) va).toNat / 2 ^ x.lo) i
      let r := match x.t with | .int true b => narrow 64 (signed b v) | _ => v
      .go { outs := [{ reg := sReg sd, val := r, lat := 1 }] }
  { o with guard := .lane g.toNat (32 * x.g + i * bytesOf x.e) (bytesOf x.e) (bytesOf x.e) }

/-- R134: the other elements are unchanged. -/
def opVins (g : BitVec 4) (q : BitVec 1) (t : BitVec 3) (d a n : BitVec 5) : Op :=
  fun e =>
  let x := vx e t
  let vd := d.toNat + x.d5
  let sa := a.toNat + x.a5
  let i := n.toNat + x.b5
  vecSlot g q x (tyIn x setIFF8 && vd != 63 && i < x.n) (bytesOf x.e) [sReg sa] [.v vd]
    fun p s => .go (vOut vd 1 (place p.lanes x.lo x.e i [⟨(readS (p.reads s) sa).toNat, 0⟩]))

/-- R134. -/
def opViota (g : BitVec 4) (q : BitVec 1) (t : BitVec 3) (d a : BitVec 5) : Op :=
  fun e =>
  let x := vx e t
  let vd := d.toNat + x.d5
  let sa := a.toNat + x.a5
  vecSlot g q x (tyIn x setI && vd != 63 && x.b5 == 0) (bytesOf x.e) [sReg sa] [.v vd]
    fun p s =>
      let b := (readS (p.reads s) sa).toNat
      .go (vOut vd 1 (place p.lanes x.lo x.e 0 ((List.range x.n).map (fun i => ⟨b + i, 0⟩))))

/-- R135. -/
def opQand (g : BitVec 4) (q : BitVec 1) (t : BitVec 3) (d : BitVec 5) (a b : BitVec 4) : Op :=
  qLogic (fun a b => a &&& b) g q t d a b

/-- R135. -/
def opQor (g : BitVec 4) (q : BitVec 1) (t : BitVec 3) (d : BitVec 5) (a b : BitVec 4) : Op :=
  qLogic (fun a b => a ||| b) g q t d a b

/-- R135. -/
def opQxor (g : BitVec 4) (q : BitVec 1) (t : BitVec 3) (d : BitVec 5) (a b : BitVec 4) : Op :=
  qLogic (fun a b => a ^^^ b) g q t d a b

/-- R135. -/
def opQmov (g : BitVec 4) (q : BitVec 1) (t : BitVec 3) (d : BitVec 5) (a : BitVec 4) : Op :=
  qLogic (fun a _ => a) g q t d a 14

/-- A conversion (R136): the source type is named by four bits, its table in the top one. `rel` relates destination to
source width; results fill the width, or its low part with the rest written zero. -/
def vecCvt (sat : Bool) (rel : Nat → Nat → Bool) (g : BitVec 4) (q : BitVec 1) (t : BitVec 3) (d a : BitVec 5)
    (s4 : BitVec 4) : Op := fun e =>
  let x := vx e t
  let vd := d.toNat + x.d5
  let va := a.toNat + x.a5
  let src := typeOf (s4.toNat / 8) (s4.toNat % 8)
  let es := match src with | some t => t.bits | none => 8
  let big := if es < x.e then x.e else es
  let n := x.w / big
  let o := vecSlot g q x (x.ty.isSome && src.isSome && rel x.e es && vd != 63 && x.b5 == 0) (bytesOf x.e) [vReg va] [.v vd]
    fun p s =>
      let rs := (srcElems (readV (p.reads s) va) x.lo es n).map (convert sat (src.getD (.int true 8)) x.t)
      let (m, v, fl) := place p.lanes x.lo x.e 0 rs
      .go (vOut vd 4 (m + zeroFill p.lanes (x.lo + n * x.e) (x.lo + x.w), v, fl))
  { o with guard := .lane g.toNat (32 * x.g) (n * x.e / 8) (bytesOf x.e) ((x.w - n * x.e) / 8) }

/-- R136. -/
def opVcvt (g : BitVec 4) (q : BitVec 1) (t : BitVec 3) (d a : BitVec 5) (s : BitVec 4) : Op :=
  vecCvt false (fun d s => d == s) g q t d a s

/-- R136. -/
def opVcvtw (g : BitVec 4) (q : BitVec 1) (t : BitVec 3) (d a : BitVec 5) (s : BitVec 4) : Op :=
  vecCvt false (fun d s => s < d) g q t d a s

/-- R136. -/
def opVcvtn (g : BitVec 4) (q : BitVec 1) (t : BitVec 3) (d a : BitVec 5) (s : BitVec 4) : Op :=
  vecCvt false (fun d s => d < s) g q t d a s

/-- R136. -/
def opVcvtns (g : BitVec 4) (q : BitVec 1) (t : BitVec 3) (d a : BitVec 5) (s : BitVec 4) : Op :=
  vecCvt true (fun d s => d < s) g q t d a s

/-- R137: the low halves of the elements of twice the width, va's and then vb's. -/
def opVpack (g : BitVec 4) (q : BitVec 1) (t : BitVec 3) (d a b : BitVec 5) : Op :=
  vecWhole setII4 3 true (fun t a b =>
    let half := fun (xs : List Nat) => (xs.zipIdx.filter (fun z => z.2 % 2 = 0)).map (fun z => (⟨z.1 % 2 ^ t.bits, 0⟩ : FRes))
    half a ++ half b) g q t d a b

/-- R137: half h of the elements, widened. -/
def opVunpk (g : BitVec 4) (q : BitVec 1) (t : BitVec 3) (d a : BitVec 5) (h : BitVec 1) : Op :=
  fun e =>
  let x := vx e t
  let vd := d.toNat + x.d5
  let va := a.toNat + x.a5
  let n := x.n / 2
  vecSlot g q x (tyIn x (fun t => setII4 t && t.bits != 32) && vd != 63 && x.b5 == 0) (bytesOf (2 * x.e)) [vReg va] [.v vd]
    fun p s =>
      let es := (srcElems (readV (p.reads s) va) x.lo x.e x.n).drop (h.toNat * n)
      let rs := (es.take n).map (fun v => match x.t with
        | .int sg b => (⟨narrow (2 * b) (intVal sg b v), 0⟩ : FRes)
        | .flt _ => ⟨v, 0⟩)
      .go (vOut vd 3 (place p.lanes x.lo (2 * x.e) 0 rs))

/-- R138. -/
def opVperm (g : BitVec 4) (q : BitVec 1) (t : BitVec 3) (d a b : BitVec 5) : Op :=
  vecWhole setIFF8 3 true (fun _ a b => b.map (fun i => ⟨nth a (i % a.length) 0, 0⟩)) g q t d a b

/-- R138. -/
def opVrot (g : BitVec 4) (q : BitVec 1) (t : BitVec 3) (d a n : BitVec 5) : Op :=
  fun e =>
  let amt := n.toNat + (vx e t).b5
  let o := vecWhole setIFF8 3 true (fun _ a _ =>
    (List.range a.length).map (fun i => ⟨nth a ((i + a.length - amt % a.length) % a.length) 0, 0⟩)) g q t d a n e
  { o with reads := [vReg (a.toNat + (vx e t).a5)] }

/-- R138. -/
def opVsld (g : BitVec 4) (q : BitVec 1) (t : BitVec 3) (d a b : BitVec 5) : Op :=
  vecWhole setIFF8 3 true (fun _ a b => (a.drop 1 ++ b.take 1).map (fun v => ⟨v, 0⟩)) g q t d a b

/-- R138. -/
def opVtrn (g : BitVec 4) (q : BitVec 1) (t : BitVec 3) (d a b : BitVec 5) : Op :=
  vecWhole setIFF8 3 true (fun _ a b =>
    (a.zip (0 :: b)).zipIdx.map (fun z => ⟨if z.2 % 2 = 0 then z.1.1 else z.1.2, 0⟩)) g q t d a b

/-- Whether lane predicate bits select each of `n` elements (R139). -/
def selects (qm : QWord) (lo e n : Nat) : List Bool := (List.range n).map (fun i => qm.getLsbD ((lo + e * i) / 8))

/-- R139: the elements of `xs` put in turn where a position is selected, zero elsewhere. -/
def expand : List Bool → List Nat → List FRes
  | [], _ => []
  | true :: t, x :: xs => ⟨x, 0⟩ :: expand t xs
  | _ :: t, xs => ⟨0, 0⟩ :: expand t xs

/-- R139: compresses vd in place and counts; the scalar is written unless the whole slot is false-guarded. -/
def opVcmpr (g : BitVec 4) (q : BitVec 1) (t : BitVec 3) (d : BitVec 5) (m : BitVec 4) (s : BitVec 5) : Op :=
  fun e =>
  let x := vx e t
  let vd := d.toNat + x.d5
  let sc := s.toNat + x.b5
  vecSlot g q x (tyIn x setIFF8 && vd != 63 && x.a5 == 0) (bytesOf x.e) [.v vd, qReg m.toNat] [.v vd, sReg sc]
    fun p st =>
      let k := p.reads st
      let es := srcElems (readV k vd) x.lo x.e x.n
      let kept := ((es.zip (selects (readQ k m.toNat) x.lo x.e x.n)).filter (·.2)).map (·.1)
      let new := (kept ++ List.replicate (x.n - kept.length) 0).map (fun v => (⟨v, 0⟩ : FRes))
      let o := vOut vd 4 (place p.lanes x.lo x.e 0 new)
      .go { o with outs := o.outs ++ [{ reg := sReg sc, val := kept.length, lat := 4 }] }

/-- R139. -/
def opVexpd (g : BitVec 4) (q : BitVec 1) (t : BitVec 3) (d a : BitVec 5) (m : BitVec 4) : Op :=
  fun e =>
  let x := vx e t
  let vd := d.toNat + x.d5
  let va := a.toNat + x.a5
  vecSlot g q x (tyIn x setIFF8 && vd != 63 && x.b5 == 0) (bytesOf x.e) [vReg va, qReg m.toNat] [.v vd]
    fun p s =>
      let k := p.reads s
      let es := srcElems (readV k va) x.lo x.e x.n
      .go (vOut vd 4 (place p.lanes x.lo x.e 0 (expand (selects (readQ k m.toNat) x.lo x.e x.n) es)))

/-- R140, R94. -/
def opVradd (g : BitVec 4) (q : BitVec 1) (t : BitVec 3) (d a : BitVec 5) : Op :=
  vecWhole setIF 8 false (fun t a _ => List.replicate a.length (sumElems t a)) g q t d a 0

/-- R140. -/
def opVrmax (g : BitVec 4) (q : BitVec 1) (t : BitVec 3) (d a : BitVec 5) : Op :=
  vecWhole setIFF8 8 false (fun t a _ => List.replicate a.length (⟨reduceElems true t a, 0⟩)) g q t d a 0

/-- R140. -/
def opVrmin (g : BitVec 4) (q : BitVec 1) (t : BitVec 3) (d a : BitVec 5) : Op :=
  vecWhole setIFF8 8 false (fun t a _ => List.replicate a.length (⟨reduceElems false t a, 0⟩)) g q t d a 0

/-- R140. -/
def opVramax (g : BitVec 4) (q : BitVec 1) (t : BitVec 3) (d a : BitVec 5) : Op :=
  vecWhole setIFF8 8 false (fun t a _ => List.replicate a.length (maxMagnitude t a)) g q t d a 0

/-- R141. -/
def opVscan (g : BitVec 4) (q : BitVec 1) (t : BitVec 3) (d a : BitVec 5) : Op :=
  vecWhole setIF 10 false (fun t a _ => (List.range a.length).map (fun i => sumElems t (a.take (i + 1)))) g q t d a 0

/-- R142. -/
def opVrcnt (g : BitVec 4) (q : BitVec 1) (t : BitVec 3) (d : BitVec 5) (qa : BitVec 4) : Op :=
  fun e =>
  let x := vx e t
  let vd := d.toNat + x.d5
  vecSlot g q x (tyIn x setI && vd != 63 && x.a5 == 0 && x.b5 == 0) (bytesOf x.e) [qReg qa.toNat] [.v vd]
    fun p s =>
      let c := countIf id (selects (readQ (p.reads s) qa.toNat) x.lo x.e x.n)
      .go (vOut vd 4 (place p.lanes x.lo x.e 0 (List.replicate x.n ⟨c, 0⟩)))

/-- R143, R81: the word enters the queue 8 cycles after issue; a fifth word, counting those in flight, stalls. -/
def opVcw (g : BitVec 4) (q : BitVec 1) (t : BitVec 3) (a : BitVec 5) : Op :=
  fun e =>
  let x := vx e t
  let va := a.toNat + x.a5
  vecSlot g q x (tyIn x setIFF8 && x.d5 == 0 && x.b5 == 0) (bytesOf x.e) [vReg va] [.cwq]
    fun p s =>
      let k := p.reads s
      let nonzero := fun (v : Nat) => match x.t with
        | .int _ _ => v != 0
        | .flt f => !(decodeF f v).isZero
      let bits := (srcElems (readV k va) x.lo x.e x.n).zipIdx.map
        (fun z => if nonzero z.1 && p.lanes.getLsbD ((x.lo + x.e * z.2) / 8) && z.2 < 64 then 2 ^ z.2 else 0)
      if 4 ≤ k.cwq.length + countIf (fun f => f.reg = .cwq) k.flights then .stall
      else .go { outs := [{ reg := .cwq, val := nsum bits, lat := 8 }] }

/-- R144. -/
def opVexp2 (g : BitVec 4) (q : BitVec 1) (t : BitVec 3) (d a : BitVec 5) : Op :=
  vecMap setF (latN 12) false false (fun t a _ _ => match t with
    | .flt f => finish f (exp2V (decodeF f a))
    | .int _ _ => ⟨a, 0⟩) g q t d a 0

/-- R144. -/
def opVlog2 (g : BitVec 4) (q : BitVec 1) (t : BitVec 3) (d a : BitVec 5) : Op :=
  vecMap setF (latN 12) false false (fun t a _ _ => match t with
    | .flt f => finish f (log2V (decodeF f a))
    | .int _ _ => ⟨a, 0⟩) g q t d a 0

/-- R144. -/
def opVrcp (g : BitVec 4) (q : BitVec 1) (t : BitVec 3) (d a : BitVec 5) : Op :=
  vecMap setF (latN 12) false false (fun t a _ _ => match t with
    | .flt f => finish f ((divV (.fin false 1 0)) (decodeF f a))
    | .int _ _ => ⟨a, 0⟩) g q t d a 0

/-- R144. -/
def opVrsq (g : BitVec 4) (q : BitVec 1) (t : BitVec 3) (d a : BitVec 5) : Op :=
  vecMap setF (latN 12) false false (fun t a _ _ => match t with
    | .flt f => finish f (rsqrtV (decodeF f a))
    | .int _ _ => ⟨a, 0⟩) g q t d a 0

/-- R144. -/
def opVsqrt (g : BitVec 4) (q : BitVec 1) (t : BitVec 3) (d a : BitVec 5) : Op :=
  vecMap setF (latN 12) false false (fun t a _ _ => match t with
    | .flt f => finish f (sqrtV (decodeF f a))
    | .int _ _ => ⟨a, 0⟩) g q t d a 0

/-- R144. -/
def opVtanh (g : BitVec 4) (q : BitVec 1) (t : BitVec 3) (d a : BitVec 5) : Op :=
  vecMap setF (latN 12) false false (fun t a _ _ => match t with
    | .flt f => finish f (tanhV (decodeF f a))
    | .int _ _ => ⟨a, 0⟩) g q t d a 0

/-- R144. -/
def opVsigm (g : BitVec 4) (q : BitVec 1) (t : BitVec 3) (d a : BitVec 5) : Op :=
  vecMap setF (latN 12) false false (fun t a _ _ => match t with
    | .flt f => finish f (sigmV (decodeF f a))
    | .int _ _ => ⟨a, 0⟩) g q t d a 0

/-- R144. -/
def opVsin (g : BitVec 4) (q : BitVec 1) (t : BitVec 3) (d a : BitVec 5) : Op :=
  vecMap setF (latN 12) false false (fun t a _ _ => match t with
    | .flt f => finish f (sinV (decodeF f a))
    | .int _ _ => ⟨a, 0⟩) g q t d a 0

/-- R144. -/
def opVcos (g : BitVec 4) (q : BitVec 1) (t : BitVec 3) (d a : BitVec 5) : Op :=
  vecMap setF (latN 12) false false (fun t a _ _ => match t with
    | .flt f => finish f (cosV (decodeF f a))
    | .int _ _ => ⟨a, 0⟩) g q t d a 0

/-- R145: n32, or f32 from the top 24 bits. -/
def opVrng (g : BitVec 4) (q : BitVec 1) (t : BitVec 3) (d a b : BitVec 5) : Op :=
  vecMap (fun t => t == .int false 32 || t == .flt fmtF32) (latN 6) true false (fun t c k _ =>
    match t with
    | .int _ _ => ⟨mix c k, 0⟩
    | .flt f => finish f (.real false (mix c k / 256) (-24) false)) g q t d a b

/-- R146: k is the field plus one. -/
def opVtopk (g : BitVec 4) (q : BitVec 1) (t : BitVec 3) (d a k : BitVec 5) : Op :=
  fun e =>
  let n := k.toNat + (vx e t).b5 + 1
  let o := vecWhole setIFF8 15 true (fun t a _ => (List.range a.length).map (fun r =>
    match (if r < n then rankIndex t a r else none) with
    | some i => ⟨i, 0⟩
    | none => ⟨ones t.bits, 0⟩)) g q t d a k e
  { o with reads := [vReg (a.toNat + (vx e t).a5)] }

/-- A scale operation over 32-bit indices (R147): the source elements with their index, source width and result width,
the results in the low part of the width and the rest written zero. -/
def vecScale (set : VTy → Bool) (es ed : VTy → Nat) (f : VTy → Nat → FVal × FVal → FRes)
    (g : BitVec 4) (q : BitVec 1) (t : BitVec 3) (d a : BitVec 5) (j : BitVec 2) : Op := fun e =>
  let x := vx e t
  let vd := d.toNat + x.d5
  let va := a.toNat + x.a5
  let n := x.w / 32
  let w := ed x.t
  let o := vecSlot g q x (tyIn x set && vd != 63 && x.b5 == 0) (bytesOf w)
    [vReg va, .k (2 * j.toNat), .k (2 * j.toNat + 1)] [.v vd]
    fun p s =>
      let k := p.reads s
      let src := srcElems (readV k va) x.lo (es x.t) n
      let rs := src.zipIdx.map (fun z => f x.t z.1 (scales k (va == 63) j.toNat (8 * x.g + z.2)))
      let (m, v, fl) := place p.lanes x.lo w 0 rs
      .go (vOut vd 6 (m + zeroFill p.lanes (x.lo + n * w) (x.lo + x.w), v, fl))
  { o with guard := .lane g.toNat (32 * x.g) (n * w / 8) (bytesOf w) ((x.w - n * w) / 8) }

/-- R147, R100. -/
def opVscale (g : BitVec 4) (q : BitVec 1) (t : BitVec 3) (d a : BitVec 5) (j : BitVec 2) : Op :=
  vecScale (fun t => t == .flt fmtF32) (fun _ => 32) (fun _ => 32)
    (fun _ v k => finish fmtF32 (mul3 (decodeF fmtF32 v) k.1 k.2)) g q t d a j

/-- R147, R100. -/
def opVqnt (g : BitVec 4) (q : BitVec 1) (t : BitVec 3) (d a : BitVec 5) (j : BitVec 2) : Op :=
  vecScale (fun t => setI t || setI4 t || setF8 t) (fun _ => 32) VTy.bits
    (fun t v k => quantize t (quotient (decodeF fmtF32 v) k.1 k.2)) g q t d a j

/-- R147, R100. -/
def opVdq (g : BitVec 4) (q : BitVec 1) (t : BitVec 3) (d a : BitVec 5) (j : BitVec 2) : Op :=
  vecScale (fun t => setI t || setI4 t || setF8 t) VTy.bits (fun _ => 32)
    (fun t v k =>
      let x := match t with | .int sg e => FVal.ofInt (intVal sg e v) | .flt f => decodeF f v
      finish fmtF32 (mul3 x k.1 k.2)) g q t d a j

/-- R148: the table is the 16 elements of vb from bit 0 of the register. -/
def opVlut (g : BitVec 4) (q : BitVec 1) (t : BitVec 3) (d a b : BitVec 5) : Op :=
  fun e =>
  let x := vx e t
  let vd := d.toNat + x.d5
  let va := a.toNat + x.a5
  let vb := b.toNat + x.b5
  vecSlot g q x (tyIn x (fun t => t.bits != 4) && vd != 63) (bytesOf x.e) [vReg va, vReg vb] [.v vd]
    fun p s =>
      let k := p.reads s
      let codes := srcElems (readV k va) x.lo 4 x.n
      .go (vOut vd 4 (place p.lanes x.lo x.e 0 (codes.map (fun c => ⟨elem x.e (readV k vb).toNat c, 0⟩))))

end Sys2Proof.Machine
end

