-- ==== Sys2Proof/Machine/Matrix.lean ====
section
/-! DEFINITION. The matrix array: classes 8 and 9 and PLST (R149–R177, R203), what the array does in a cycle, and its
events (R154–R161, R318, R319). -/

namespace Sys2Proof.Machine

/-! ### Formats and operands (R149–R153, R97, R98) -/

/-- A matrix format (R150): the A and B types, K, the full plane count. Integers carry signedness and width. -/
structure MatFmt where
  a : VTy
  b : VTy
  k : Nat
  full : Nat
  deriving DecidableEq, Repr

/-- The formats by code. -/
def matFmt : Nat → Option MatFmt
  | 1 => some ⟨.int true 8, .int true 8, 96, 8⟩
  | 2 => some ⟨.int false 8, .int true 8, 96, 8⟩
  | 3 => some ⟨.int true 8, .int false 8, 96, 8⟩
  | 4 => some ⟨.int false 8, .int false 8, 96, 8⟩
  | 5 => some ⟨.int true 4, .int true 4, 192, 4⟩
  | 6 => some ⟨.int false 4, .int true 4, 192, 4⟩
  | 7 => some ⟨.int true 4, .int false 4, 192, 4⟩
  | 8 => some ⟨.int false 4, .int false 4, 192, 4⟩
  | 9 => some ⟨.flt fmtE4m3, .flt fmtE4m3, 96, 4⟩
  | 10 => some ⟨.flt fmtE5m2, .flt fmtE5m2, 96, 3⟩
  | 11 => some ⟨.flt fmtE4m3, .flt fmtE5m2, 96, 3⟩
  | 12 => some ⟨.flt fmtE5m2, .flt fmtE4m3, 96, 4⟩
  | 13 => some ⟨.flt fmtBf16, .flt fmtBf16, 48, 8⟩
  | 14 => some ⟨.flt fmtF16, .flt fmtF16, 48, 11⟩
  | _ => none

/-- Whether a format's accumulator is f32. -/
def MatFmt.isFloat (f : MatFmt) : Bool := match f.b with | .flt _ => true | .int _ _ => false
/-- The size of a B buffer (R152). -/
def MatFmt.bBytes (f : MatFmt) : Nat := if f.isFloat then 18 * f.k + 2 * f.k * f.full else 2 * f.k * f.full
/-- Where significand or integer plane `j` starts in the buffer. -/
def MatFmt.plane (f : MatFmt) (j : Nat) : Nat := (if f.isFloat then 18 * f.k else 0) + 2 * f.k * j

/-- The value of an element of a type. -/
def valueOf (t : VTy) (x : Nat) : FVal :=
  match t with
  | .int sg e => FVal.ofInt (intVal sg e x)
  | .flt f => decodeF f x

/-- An integer read from its first `p` bits, most significant first (R97). -/
def planesInt (isSigned : Bool) (n : Nat) (bits : List Bool) : Int :=
  isum (bits.zipIdx.map (fun b =>
    if b.1 then (if isSigned ∧ b.2 = 0 then -((2 ^ (n - 1) : Nat) : Int) else ((2 ^ (n - 1 - b.2) : Nat) : Int)) else 0))

/-- A float read from its sign, exponent byte and first planes (R98). -/
def planesFloat (neg : Bool) (e8 : Nat) (bits : List Bool) : FVal :=
  if e8 = 255 then (if bits.head? = some true then .nan else .inf neg)
  else if e8 = 0 then .fin neg 0 0
  else
    let m := bits.foldl (fun m b => 2 * m + natOf b) 0
    .fin neg m ((e8 : Int) - 127 - (bits.length - 1 : Nat))

/-- One bit of a buffer: bit `k` of a piece of K bits a column that starts at `at_`. -/
def bufBit (m : Map Byte) (at_ kk col k : Nat) : Bool := (mget m (at_ + kk / 8 * col + k / 8) 0).getLsbD (k % 8)

/-- B element (k, col) of the buffer at `b`, read with `p` planes (R97, R98, R152). -/
def bElem (f : MatFmt) (m : Map Byte) (b p col k : Nat) : FVal :=
  let bits := (upTo p).map (fun j => bufBit m (b + f.plane j) f.k col k)
  match f.b with
  | .int sg e => FVal.ofInt (planesInt sg e bits)
  | .flt _ => planesFloat (bufBit m b f.k col k) (mget m (b + 2 * f.k + f.k * col + k) 0).toNat bits

/-- Row `i` of the A block (R151), its first `n` elements. -/
def aRow (f : MatFmt) (m : Map Byte) (a i n : Nat) : List FVal :=
  (elems f.a.bits (readNat m (a + 96 * i) 96) n).map (valueOf f.a)

/-- The K extent in force for a format (R177). -/
def kExt (f : MatFmt) (e : Edge) : Nat := if e.kext = 0 ∨ f.k < e.kext then f.k else e.kext

/-- The byte ranges an MMA reads (R167): those of its unmasked elements, in the planes it declares. -/
def mmaRanges (f : MatFmt) (a b p : Nat) (e : Edge) : List (Nat × Nat) :=
  let kx := kExt f e
  let bytes := (kx + 7) / 8
  let cols := upTo e.cols
  (upTo e.rows).map (fun i => (a + 96 * i, (kx * f.a.bits + 7) / 8)) ++
  (if f.isFloat then
    cols.map (fun c => (b + f.k / 8 * c, bytes)) ++ cols.map (fun c => (b + 2 * f.k + f.k * c, kx)) else []) ++
  (upTo p).flatMap (fun j => cols.map (fun c => (b + f.plane j + f.k / 8 * c, bytes)))

/-! ### Exact accumulators (R94, R95, R158) -/

/-- The exponent of the accumulator's unit: every product and every f32 is a multiple of it. -/
def accUnit (f : MatFmt) : Int := if f.isFloat then -320 else 0

/-- One term added. -/
def accAdd (unit : Int) (acc : Acc) (t : FVal) : Acc :=
  match t with
  | .nan => { acc with nan := true, any := true }
  | .inf n => if n then { acc with ninf := true, any := true, allNeg := false } else { acc with pinf := true, any := true, allNeg := false }
  | .fin n _ _ => { acc with sum := acc.sum + scaleV unit t, any := true, allNeg := acc.allNeg && n }

/-- One product added: infinity times zero is invalid (R94). -/
def accProduct (unit : Int) (neg : Bool) (acc : Acc) (a b : FVal) : Acc :=
  let r := mulV a b
  let t := if neg then r.1.flip else r.1
  if r.2 then { acc with bad := true, any := true } else accAdd unit acc t

/-- An entry's products added to the accumulators of a tile in row order (R158). -/
def accumulate (f : MatFmt) (m : Map Byte) (e : MEntry) (neg : Bool) (accs : List Acc) : List Acc :=
  let kx := kExt f e.edge
  let unit := accUnit f
  let bs := (upTo e.edge.cols).map (fun c => (upTo kx).map (fun k => bElem f m e.b e.planes c k))
  (accs.zipIdx).map (fun z =>
    let row := z.2 / 16
    let col := z.2 % 16
    if row < e.edge.rows ∧ col < e.edge.cols then
      let as := aRow f m e.a row kx
      let acc := (as.zip (nth bs col [])).foldl (fun acc p => accProduct unit neg acc p.1 p.2) z.1
      { acc with live := true }
    else z.1)

/-- The word an accumulator gives, with overflow and invalid marks (R94–R96, R159). -/
def accWord (f : MatFmt) (acc : Acc) : Nat × Bool × Bool :=
  if f.isFloat then
    if acc.nan then (fmtF32.nanBits, false, false)
    else if acc.bad ∨ (acc.pinf ∧ acc.ninf) then (fmtF32.nanBits, false, true)
    else if acc.pinf ∨ acc.ninf then
      ((finish fmtF32 (.inf acc.ninf false)).bits, false, false)
    else
      let x : Exact := if acc.sum = 0 then .real (acc.any && acc.allNeg) 0 0 false
        else .real (acc.sum < 0) acc.sum.natAbs (accUnit f) false
      let r := finish fmtF32 x
      (r.bits, r.fl / flagOF % 2 = 1, false)
  else
    let lo := intLo true 32
    let hi := intHi true 32
    (narrow 32 (if acc.sum < lo then lo else if hi < acc.sum then hi else acc.sum), acc.sum < lo ∨ hi < acc.sum, false)

/-- The accumulator input: absent, or a tile word (R158). -/
def accInit (f : MatFmt) (zero : Bool) (w : Nat) : Acc :=
  if zero then {}
  else accAdd (accUnit f) {} (if f.isFloat then decodeF fmtF32 w else FVal.ofInt (signed 32 w))

/-! ### Tiles and banks (R160, R165) -/

/-- The first word of a tile. -/
def tileBase (t : Nat) : Nat := t * 512
/-- The words of a tile, in row order. -/
def tileList (m : Map (BitVec 32)) (t : Nat) : List Nat := (upTo 512).map (fun i => (mget m (tileBase t + i) 0).toNat)
/-- A tile's words set from a list; `none` leaves a word. -/
def setTile (m : Map (BitVec 32)) (t : Nat) (ws : List (Option Nat)) : Map (BitVec 32) :=
  ws.zipIdx.foldl (fun m w => match w.1 with
    | some v => mput m (tileBase t + w.2) (BitVec.ofNat 32 v) 0
    | none => m) m
/-- A row's 512 bits. -/
def tileRow (m : Map (BitVec 32)) (t r : Nat) : Nat := tileWords m (tileBase t + 16 * r) 16

/-- Whether a queue entry writes its tile (R160). -/
def MEntry.writer (e : MEntry) : Bool := match e.op with | .mma _ => true | .mlda => true | .mzero => true | _ => false
/-- Whether it is of the MMA class. -/
def MEntry.isMma (e : MEntry) : Bool := match e.op with | .mma _ => true | _ => false

/-- Whether a tile has an unfinished writer among queued and running entries. -/
def tileQueued (core : Core) (k : Ctx) (x t : Nat) : Bool :=
  k.mq.any (fun e => e.writer && e.tile = t) ||
  (match core.array.cur with | some e => e.ctx = x && e.isMma && e.tile = t | none => false) ||
  core.chains.any (fun ch => ch.ctx = chainKey k x && ch.tile = t)

/-- W(t) (R160). -/
def watermark (core : Core) (k : Ctx) (x t : Nat) : Nat :=
  if tileQueued core k x t then 0
  else match (core.writes.filter (fun w => w.tile = t)).getLast? with
    | some w => w.rows
    | none => 32

/-- FLY: an issued writer of the tile is incomplete (R173). -/
def tileFlying (core : Core) (k : Ctx) (x t : Nat) : Bool := tileQueued core k x t || core.writes.any (fun w => w.tile = t)

/-- The bank of a tile. -/
def bankOf (t : Nat) : Nat := t / 4
/-- Whether a bank is granted to a context in M mode. -/
def bankM (s : State) (c x b : Nat) : Bool :=
  match mfind (getCore s c).banks b with | some k => k.ctx = chainKey (getCtx s c x) x && !k.vmode | none => false
/-- Whether a VLDB or VSTB is in flight on a bank. -/
def bankFlight (core : Core) (b : Nat) : Bool := core.vbusy.any (fun v => v.1 = b)
/-- Whether a bank is busy (R165); the row writes of its own BANKLEND .ACQ, which are of no batch, do not make it so. -/
def bankBusy (core : Core) (k : Ctx) (x b : Nat) : Bool :=
  bankFlight core b ||
  k.mq.any (fun e => e.op ≠ .mcommit && bankOf e.tile = b) ||
  (match core.array.cur with | some e => e.ctx = x && e.op ≠ .mcommit && bankOf e.tile = b | none => false) ||
  core.chains.any (fun ch => ch.ctx = chainKey k x && bankOf ch.tile = b) ||
  core.writes.any (fun w => w.batch ≠ 0 && bankOf w.tile = b) ||
  (match k.mopen with | some m => bankOf m.2.1 = b | none => false) ||
  (match k.drain with | some d => bankOf d.tile = b | none => false)

/-- A bank's bytes zeroed. -/
def zeroBank (m : Map (BitVec 32)) (b : Nat) : Map (BitVec 32) := m.filter (fun e => e.1 / 2048 ≠ b)

/-- A bank granted to a context in M mode and zeroed (R24, R165); the sticky bits of its tiles stand (R159). -/
def grantBank (core : Core) (region key b : Nat) : Core :=
  { core with
    banks := mset core.banks b { region := region, ctx := key, vmode := false }
    tiles := zeroBank core.tiles b
    badRows := core.badRows.filter (fun r => bankOf (r / 32) ≠ b) }

/-- The sticky bits of a bank's tiles cleared, as BANKLEND .ACQ does (R159, R174). -/
def clearSticky (core : Core) (b : Nat) : Core :=
  { core with
    tof := core.tof.filter (fun t => bankOf t ≠ b)
    tnv := core.tnv.filter (fun t => bankOf t ≠ b) }

/-- The banks of a context returned to the pool (R71, R165). -/
def returnBanks (core : Core) (key : Nat) : Core := { core with banks := core.banks.filter (fun e => e.2.ctx ≠ key) }

/-! ### Batches (R161) -/

/-- The least batch of a context with work outstanding, if any. -/
def leastBatch (core : Core) (k : Ctx) (x : Nat) : Option Nat :=
  least (k.mq.map (fun e => e.batch) ++
    (match core.array.cur with | some e => if e.ctx = x then [e.batch] else [] | none => []) ++
    (core.chains.filter (fun ch => ch.ctx = chainKey k x)).map (fun ch => ch.batch) ++
    (core.writes.filter (fun w => w.ctx = chainKey k x ∧ w.batch ≠ 0)).map (fun w => w.batch))

/-- How many closed batches are incomplete. -/
def openBatches (core : Core) (k : Ctx) (x : Nat) : Nat :=
  match leastBatch core k x with
  | some b => k.batch + 1 - b
  | none => 0
/-- Whether batch `n` is complete. -/
def batchDone (core : Core) (k : Ctx) (x n : Nat) : Bool :=
  match leastBatch core k x with | some b => n < b | none => true
/-- BATCH (R24, R161): it counts from 0 anew at a continuation point (R70). -/
def batchReg (k : Ctx) : Nat := (k.batch - k.batch0) % 2 ^ 32
/-- The batch that MWAITB.ID names by its low 32 bits (R172). -/
def batchNamed (k : Ctx) (v : Nat) : Nat :=
  let d := (batchReg k + 2 ^ 32 - v % 2 ^ 32) % 2 ^ 32
  if d < 2 ^ 31 then k.batch - d else k.batch

/-! ### Class 8 -/

/-- A slot of class 8 or 9. -/
def matSlot (g : BitVec 4) (ok : Bool) (reads writes var : List Reg) (run : Port → State → SlotRes) : SlotInfo where
  legal := ok
  res := .matrix
  guard := .scalar g.toNat
  reads := reads
  writes := writes
  varWrites := var
  sampler := false
  run := run

/-- How many entries of the operand guard are in use (R162); an entry with two ranges is listed twice. -/
def guardUsed (core : Core) : Nat := (core.guard.map (fun g => g.seq)).eraseDups.length

/-- The first range that leaves the core-scratchpad carve. -/
def firstOutside (s : State) (k : Ctx) (rs : List (Nat × Nat)) : Option Trap :=
  (rs.find? (fun r => r.2 ≠ 0 && !inCarve s k 0 r.1 r.2)).map (fun r => carveTrap 0 r.1)

/-- An entry placed in the queue of its context with its guard ranges (R154, R162). -/
def enqueue (p : Port) (op : MOp) (tile a b fmt planes : Nat) (opens zero : Bool) (chain : Option Nat)
    (ranges : List (Nat × Nat)) (write : Bool) (s : State) : State :=
  let k := getCtx s p.core p.ctx
  let id := chain.getD s.seq
  let e : MEntry := {
    ctx := p.ctx, op := op, tile := tile, a := a, b := b, fmt := fmt, planes := planes, edge := k.edge,
    batch := k.batch + 1, chain := id, opens := opens, zero := zero, seq := s.seq, cycle := (getCore s p.core).cycle }
  let isMma := match op with | .mma _ => true | _ => false
  let gs := ranges.map (fun r => ({ seq := s.seq, lo := r.1, size := r.2, write := write } : Guarded))
  let s := modCore { s with seq := s.seq + 1 } p.core fun c => { c with guard := c.guard ++ gs }
  modCtx s p.core p.ctx fun k => { k with
    mq := k.mq ++ [e]
    batch := if op = .mcommit then k.batch + 1 else k.batch
    mopen := if isMma then some (id, tile, fmt) else none }

/-- Whether a core-scratchpad access of the matrix side meets a range that an MSTA is yet to write (R162). -/
def awaitsMsta (s : State) (c : Nat) (ranges : List (Nat × Nat)) : Bool :=
  ranges.any fun r => r.2 ≠ 0 && guardMeets s c r.1 r.2 false

/-- An MMA-class slot (R149–R153, R166, R167): format and plane count from the header, or MFMT. -/
def mmaOp (neg zero : Bool) (g : BitVec 4) (t : BitVec 8) (a b : BitVec 6) : Op := fun e =>
  let code := e.x / 16
  let n := e.x % 16
  let named := matFmt code
  let ok := t.toNat < 160 && (if code = 0 then true else match named with | some f => n ≤ f.full | none => false)
  matSlot g ok [sReg a.toNat, sReg b.toNat] [.tile t.toNat] [] fun p s =>
    let k := p.reads s
    let core := getCore s p.core
    if 16 ≤ k.mq.length ∨ 16 ≤ guardUsed core then .stall
    else
      let fmt := if code = 0 then k.mfmt.toNat else code
      match matFmt fmt with
      | none => .trap (trapOf codeIllegalSlot)
      | some f =>
        if f.full < n then .trap (trapOf codeIllegalSlot)
        else
          let planes := if n = 0 then f.full else n
          let aa := (readS k a.toNat).toNat / 32 * 32
          let bb := (readS k b.toNat).toNat / 64 * 64
          if awaitsMsta s p.core (mmaRanges f aa bb planes k.edge) then .stall
          else if ¬ bankM s p.core p.ctx (bankOf t.toNat) then .trap (trapOf codeBankGrant 0 (bankOf t.toNat))
          else match firstOutside s k (mmaRanges f aa bb planes k.edge) with
            | some tr => .trap tr
            | none =>
              let cont : Option Nat := match k.mopen with
                | some m => if !zero && m.2.1 = t.toNat && m.2.2 = fmt then some m.1 else none
                | none => none
              .go { guards := 1, act := enqueue p (.mma neg) t.toNat aa bb fmt planes cont.isNone zero cont
                      [(aa, 3072), (bb, f.bBytes)] false }

/-- R167. -/
def opMma (g : BitVec 4) (t : BitVec 8) (a b : BitVec 6) : Op := mmaOp false false g t a b
/-- R167: opens a chain with no accumulator input. -/
def opMmaz (g : BitVec 4) (t : BitVec 8) (a b : BitVec 6) : Op := mmaOp false true g t a b
/-- R167: its terms enter with sign −1. -/
def opMman (g : BitVec 4) (t : BitVec 8) (a b : BitVec 6) : Op := mmaOp true false g t a b

/-- A whole-tile move (R168). -/
def tileMove (op : MOp) (write : Bool) (g : BitVec 4) (t : BitVec 8) (a : BitVec 6) : Op := fun e =>
  matSlot g (t.toNat < 160 && e.x == 0) [sReg a.toNat] (if write then [] else [.tile t.toNat]) [] fun p s =>
    let k := p.reads s
    let core := getCore s p.core
    let at_ := (readS k a.toNat).toNat / 64 * 64
    if 16 ≤ k.mq.length ∨ 16 ≤ guardUsed core ∨ awaitsMsta s p.core [(at_, 2048)] = true then .stall
    else if ¬ bankM s p.core p.ctx (bankOf t.toNat) then .trap (trapOf codeBankGrant 0 (bankOf t.toNat))
    else match firstOutside s k [(at_, 2048)] with
      | some tr => .trap tr
      | none => .go { guards := 1, act := enqueue p op t.toNat at_ 0 0 0 false false (some 0) [(at_, 2048)] write }

/-- R168. -/
def opMlda (g : BitVec 4) (t : BitVec 8) (a : BitVec 6) : Op := tileMove .mlda false g t a
/-- R168. -/
def opMsta (g : BitVec 4) (t : BitVec 8) (a : BitVec 6) : Op := tileMove .msta true g t a

/-- A chain on a tile closed by an instruction that takes no entry (R157). -/
def closeOn (k : Ctx) (hit : Nat → Bool) : Ctx :=
  match k.mopen with
  | some m => if hit m.2.1 then { k with mopen := none } else k
  | none => k

/-- R169: a drain of a tile or of a pair. -/
def opMdrn (g : BitVec 4) (t : BitVec 8) (p : BitVec 1) : Op := fun e =>
  let pair := p = 1
  matSlot g (t.toNat < 160 && !(pair && t.toNat % 2 == 1) && e.x == 0) [] [] [] fun port s =>
    if ¬ bankM s port.core port.ctx (bankOf t.toNat) then .trap (trapOf codeBankGrant 0 (bankOf t.toNat))
    else .go { act := fun s => modCtx s port.core port.ctx fun k =>
      { closeOn k (fun u => u = t.toNat || (pair && u = t.toNat + 1)) with
        drain := some { tile := t.toNat, pair := pair, next := 0 } } }

/-- R168. -/
def opMzero (g : BitVec 4) (t : BitVec 8) : Op := fun e =>
  matSlot g (t.toNat < 160 && e.x == 0) [] [.tile t.toNat] [] fun p s =>
    if 16 ≤ (p.reads s).mq.length then .stall
    else if ¬ bankM s p.core p.ctx (bankOf t.toNat) then .trap (trapOf codeBankGrant 0 (bankOf t.toNat))
    else .go { act := enqueue p .mzero t.toNat 0 0 0 0 false false (some 0) [] false }

/-- R170. -/
def opMcommit (g : BitVec 4) : Op := fun e =>
  matSlot g (e.x == 0) [] [] [] fun p s =>
    if 16 ≤ (p.reads s).mq.length then .stall
    else .go { act := enqueue p .mcommit 0 0 0 0 0 false false (some 0) [] false }

/-! ### Class 9 -/

/-- R172: waits while more than `n` closed batches are incomplete. -/
def opMwaitb (g : BitVec 4) (n : BitVec 4) : Op := fun e =>
  matSlot g (e.x == 0) [] [] [] fun p s =>
    if openBatches (getCore s p.core) (p.reads s) p.ctx ≤ n.toNat then .go {} else .wait (.mwaitb n.toNat) id

/-- R172: waits until a batch is complete. -/
def opMwaitbId (g : BitVec 4) (a : BitVec 6) : Op := fun e =>
  matSlot g (e.x == 0) [sReg a.toNat] [] [] fun p s =>
    let k := p.reads s
    let n := batchNamed k (readS k a.toNat).toNat
    if batchDone (getCore s p.core) k p.ctx n then .go {} else .wait (.mwaitbId n) id

/-- The word MWM returns (R173), after it closed the chain on its tile. -/
def mwmWord (core : Core) (k : Ctx) (x t : Nat) : Nat :=
  let k' := closeOn k (fun u => u = t)
  let isOpen := match k'.mopen with | some m => m.2.1 = t | none => false
  natOf (core.tnv.contains t) * 2 ^ 9 + natOf (core.tof.contains t) * 2 ^ 8 + natOf isOpen * 2 ^ 7
    + natOf (tileFlying core k x t) * 2 ^ 6 + watermark core k x t

/-- R173. -/
def opMwm (g : BitVec 4) (d : BitVec 6) (t : BitVec 8) (c : BitVec 1) : Op := fun e =>
  matSlot g (t.toNat < 160 && e.x == 0) [] [sReg d.toNat] [sReg d.toNat] fun p s =>
    let core := getCore s p.core
    if ¬ bankM s p.core p.ctx (bankOf t.toNat) then .trap (trapOf codeBankGrant 0 (bankOf t.toNat))
    else .go {
      works := [{ reg := sReg d.toNat, kind := .value (BitVec.ofNat 1024 (mwmWord core (p.reads s) p.ctx t.toNat)) 0 }]
      act := fun s =>
        let s := modCtx s p.core p.ctx fun k => closeOn k (fun u => u = t.toNat)
        if c = 1 then modCore s p.core fun k => { k with
          tof := k.tof.filter (· ≠ t.toNat), tnv := k.tnv.filter (· ≠ t.toNat) } else s }

/-- The bank a BANKLEND names, or BANK_GRANT. -/
def lendOp (g : BitVec 4) (a : BitVec 6) (f : Port → State → Nat → SlotRes) : Op := fun e =>
  matSlot g (e.x == 0) [sReg a.toNat] [] [] fun p s =>
    let b := (readS (p.reads s) a.toNat).toNat % 64
    if 39 < b then .trap (trapOf codeBankGrant 0 255) else f p s b

/-- A context's own bank. -/
def ownBank (s : State) (p : Port) (b : Nat) : Option Bank :=
  match mfind (getCore s p.core).banks b with
  | some k => if k.ctx = chainKey (getCtx s p.core p.ctx) p.ctx then some k else none
  | none => none

/-- The mode of a bank set. -/
def setMode (v : Bool) (p : Port) (b : Nat) (s : State) : State :=
  modCore s p.core fun c => { c with banks := match mfind c.banks b with
    | some k => mset c.banks b { k with vmode := v }
    | none => c.banks }

/-- R174, .M. -/
def opBanklendM (g : BitVec 4) (a : BitVec 6) : Op :=
  lendOp g a fun p s b =>
    match ownBank s p b with
    | none => .trap (trapOf codeBankGrant 0 b)
    | some _ =>
      if bankFlight (getCore s p.core) b then .trap (trapOf codeBankBusy 0 b) else .go { act := setMode false p b }

/-- R174, .V. -/
def opBanklendV (g : BitVec 4) (a : BitVec 6) : Op :=
  lendOp g a fun p s b =>
    match ownBank s p b with
    | none => .trap (trapOf codeBankGrant 0 b)
    | some _ =>
      if bankBusy (getCore s p.core) (p.reads s) p.ctx b then .trap (trapOf codeBankBusy 0 b)
      else .go { act := setMode true p b }

/-- R174, .REL. -/
def opBanklendRel (g : BitVec 4) (a : BitVec 6) : Op :=
  lendOp g a fun p s b =>
    match ownBank s p b with
    | none => .trap (trapOf codeBankGrant 0 b)
    | some _ =>
      if bankBusy (getCore s p.core) (p.reads s) p.ctx b then .trap (trapOf codeBankBusy 0 b)
      else .go { act := fun s => modCore s p.core fun c => { c with banks := mdel c.banks b } }

/-- The four tiles of a bank written by BANKLEND .ACQ (R160, R174), from the cycle after it issues. -/
def acquireWrites (k : Ctx) (x seq b : Nat) : List TileWrite :=
  (upTo 4).map (fun j => { ctx := chainKey k x, tile := 4 * b + j, rows := 0, wait := 1, batch := 0, seq := seq,
                           tof := false, tnv := false })

/-- R174, .ACQ. -/
def opBanklendAcq (g : BitVec 4) (a : BitVec 6) : Op :=
  lendOp g a fun p s b =>
    let k := p.reads s
    let core := getCore s p.core
    if ¬ bitOf (ctxRegion s k).pool b ∨ (mfind core.banks b).isSome then .trap (trapOf codeBankGrant 0 b)
    else if bankFlight core b then .trap (trapOf codeBankBusy 0 b)
    else
      let take := fun (s : State) => modCore { s with seq := s.seq + 1 } p.core fun c =>
        { clearSticky (grantBank c (regionKey k.part k.region) (chainKey k p.ctx) b) b with
          writes := c.writes ++ acquireWrites k p.ctx s.seq b }
      .go { act := take }

/-- R175. -/
def opScld (g : BitVec 4) (k : BitVec 3) (a : BitVec 6) : Op := fun e =>
  matSlot g (e.x == 0) [sReg a.toNat] [.k k.toNat] [] fun p s =>
    let c := p.reads s
    let at_ := (readS c a.toNat).toNat / 128 * 128
    if guardMeets s p.core at_ 128 false then .stall
    else if ¬ inCarve s c 0 at_ 128 then .trap (carveTrap 0 at_)
    else if spadBad s p.core at_ 128 then
      .go { outs := [{ reg := .k k.toNat, val := (Config.poisonData s.free).toNat, lat := 6, spad := true,
                       fault := some (trapOf codePoison (at_ % 2 ^ 57)) }]
            words := spadWords at_ 128, act := bumpFree }
    else .go { outs := [{ reg := .k k.toNat, val := spadLoad s p.core at_ 128, lat := 6, spad := true }]
               words := spadWords at_ 128 }

/-- R176. -/
def opMcfg (g : BitVec 4) (f : BitVec 5) : Op := fun e =>
  matSlot g (f.toNat ≤ 14 && e.x == 0) [] [] [] fun p _ =>
    .go { act := fun s => modCtx s p.core p.ctx fun k => { k with mfmt := f } }

/-- The extents of a MEDGE word (R177). -/
def edgeOf (v : Nat) : Edge where
  rows := let n := v % 64; if n = 0 ∨ 32 < n then 32 else n
  cols := let n := bitsOf v 8 6; if n = 0 ∨ 16 < n then 16 else n
  kext := bitsOf v 16 8

/-- R177. -/
def opMedge (g : BitVec 4) (a : BitVec 6) : Op := fun e =>
  matSlot g (e.x == 0) [sReg a.toNat] [] [] fun p s =>
    let v := (readS (p.reads s) a.toNat).toNat
    .go { act := fun s => modCtx s p.core p.ctx fun k => { k with edge := edgeOf v } }

/-! ### PLST (R98, R203) -/

/-- The exponent byte and the significand bits, most significant first, that the plane transpose writes (R98). -/
def transposed (f : FloatFmt) (x : Nat) : Nat × List Bool :=
  let ex := x / 2 ^ f.mbits % 2 ^ f.ebits
  let fr := (upTo f.mbits).map (fun j => bitOf x (f.mbits - 1 - j))
  match decodeF f x with
  | .nan => (255, true :: fr.map (fun _ => false))
  | .inf _ => (255, false :: fr.map (fun _ => false))
  | .fin _ _ _ => if ex = 0 then (1 + 127 - f.bias, false :: fr) else (ex + 127 - f.bias, true :: fr)

/-- Bits as bytes, bit i being bit i mod 8 of byte i div 8, as one number. -/
def packBits (bs : List Bool) : Nat := nsum (bs.zipIdx.map (fun b => if b.1 then 2 ^ b.2 else 0))

/-- The pieces of one column of a B buffer for K elements: offset in the buffer, bytes, value (R152, R203). -/
def columnPieces (f : MatFmt) (col : Nat) (xs : List Nat) : List (Nat × Nat × Nat) :=
  let at_ := f.k / 8 * col
  match f.b with
  | .int _ e => (upTo f.full).map (fun j => (f.plane j + at_, f.k / 8, packBits (xs.map (fun x => bitOf x (e - 1 - j)))))
  | .flt t =>
    let ts := xs.map (transposed t)
    (at_, f.k / 8, packBits (xs.map (fun x => x / t.signBit % 2 = 1))) ::
    (2 * f.k + f.k * col, f.k, ofElems 8 (ts.map Prod.fst)) ::
    (upTo f.full).map (fun j => (f.plane j + at_, f.k / 8, packBits (ts.map (fun y => nth y.2 j false))))

/-- R203: the bytes are performed in the issue cycle and one held cycle, or more where the bundle's accesses together need
them (R181). -/
def opPlst (g : BitVec 4) (v : BitVec 6) (c : BitVec 4) (x : BitVec 6) : Op := fun e =>
  memSlot g (e.x == 0) [vReg v.toNat, sReg x.toNat] [] [] false fun p s =>
    let k := p.reads s
    match matFmt k.mfmt.toNat with
    | none => .trap (trapOf codeIllegalSlot)
    | some f =>
      let b := (readS k x.toNat).toNat / 64 * 64
      let xs := elems f.b.bits (readV k v.toNat).toNat f.k
      let ps := columnPieces f c.toNat xs
      if ps.any (fun q => guardMeets s p.core (b + q.1) q.2.1 true) then .stall
      else match firstOutside s k (ps.map (fun q => (b + q.1, q.2.1))) with
        | some t => .trap t
        | none => .go {
            words := ps.flatMap (fun q => spadWords (b + q.1) q.2.1)
            heldMore := 1
            act := fun s => ps.foldl (fun s q => spadStore s p.core (b + q.1) q.2.1 q.2.2) s }

/-! ### The array at work (R154–R158) -/

/-- The context whose entry the array takes next (R155): it stays with the one it serves while that has an entry to start,
else takes the next in CTXID order with one. -/
def nextServe (s : State) (c : Nat) : Option Nat :=
  let core := getCore s c
  let waiting := fun x => (getCtx s c x).mq ≠ []
  let cyc := (upTo 8).map (fun i => (core.array.serve + 1 + i) % 8)
  let other := cyc.find? (fun x => x ≠ core.array.serve && waiting x)
  if waiting core.array.serve ∧ ¬ core.array.moving then some core.array.serve
  else match other with
    | some x => some x
    | none => if waiting core.array.serve then some core.array.serve else none

/-- Whether an entry needs a grant of the slew limiter (R154). -/
def needsGrant (core : Core) (e : MEntry) : Bool :=
  e.isMma && core.array.planeEnd ≠ core.cycle && !core.array.filler && !core.array.granted

/-- Whether an entry may start now, but for a grant: issued in an earlier cycle, and not barred by a write-back (R154,
R156); the row writes of a BANKLEND .ACQ, which are of no batch, are no write-back and bar nothing. -/
def mayStart (core : Core) (e : MEntry) : Bool :=
  e.cycle < core.cycle &&
  !(core.writes.any (fun w => w.batch ≠ 0 && w.tile = e.tile) && (match e.op with | .mma _ => e.opens | .mcommit => false | _ => true))

/-- The array's chain of an entry. -/
def chainOfEntry (core : Core) (key : Nat) (e : MEntry) : Option Chain :=
  core.chains.find? (fun ch => ch.ctx = key ∧ ch.id = e.chain)

/-- The open chain of a context the array leaves is parked (R155). -/
def parkChain (core : Core) (key : Nat) : Core × Bool :=
  if core.chains.any (fun ch => ch.ctx = key ∧ ¬ ch.parked) then
    ({ core with chains := core.chains.map (fun ch => if ch.ctx = key then { ch with parked := true } else ch) }, true)
  else (core, false)

/-- An MMA-class entry's work on its chain: opened from the tile or continued, its products added (R158), poison noted
(R385). -/
def runMma (core : Core) (key : Nat) (e : MEntry) (f : MatFmt) (neg : Bool) : Core :=
  let bad := (mmaRanges f e.a e.b e.planes e.edge).any
    (fun r => r.2 ≠ 0 && (spadWords r.1 r.2).any core.poison.contains)
  let ch : Chain := match chainOfEntry core key e with
    | some ch => ch
    | none => { ctx := key, id := e.chain, seq := e.seq, tile := e.tile, fmt := e.fmt, batch := e.batch,
                accs := (tileList core.tiles e.tile).map (accInit f e.zero),
                poison := !e.zero && (upTo 32).any (fun r => core.badRows.contains (e.tile * 32 + r)), parked := false }
  let ch := { ch with accs := accumulate f core.scratch e neg ch.accs, poison := ch.poison || bad, parked := false,
                      seq := e.seq }
  { core with chains := core.chains.filter (fun c => ¬ (c.ctx = key ∧ c.id = e.chain)) ++ [ch] }

/-- Rows of a tile poisoned, or cleared of poison. -/
def markRows (core : Core) (t : Nat) (bad : List Nat) : Core :=
  { core with badRows := core.badRows.filter (fun r => r / 32 ≠ t) ++ bad.map (fun r => t * 32 + r) }

/-- An entry begun (R154, R156): its cycles, and for MLDA and MZERO the rows they write. -/
def beginEntry (core : Core) (key : Nat) (e : MEntry) : Core :=
  let resumes := match chainOfEntry core key e with | some ch => ch.parked | none => true
  let write : TileWrite := { ctx := key, tile := e.tile, rows := 0, wait := 0, batch := e.batch, seq := e.seq,
                             tof := false, tnv := false }
  let arr := { core.array with cur := some e, done := 0, granted := false,
                               moving := e.op = MOp.mcommit }
  match e.op with
  | .mma neg =>
    let core := match matFmt e.fmt with | some f => runMma core key e f neg | none => core
    { core with array := { arr with left := if resumes then max e.planes 8 else e.planes, filler := false } }
  | .mlda =>
    let ws := (upTo 512).map (fun i => some (readNat core.scratch (e.a + 4 * i) 4))
    let bad := (upTo 32).filter (fun r => (spadWords (e.a + 64 * r) 64).any core.poison.contains)
    { markRows { core with tiles := setTile core.tiles e.tile ws } e.tile bad with
      array := { arr with left := 8 }, writes := core.writes ++ [write] }
  | .msta => { core with array := { arr with left := 8 } }
  | .mzero =>
    { markRows { core with tiles := setTile core.tiles e.tile ((upTo 512).map (fun _ => some 0)) } e.tile [] with
      array := { arr with left := 8 }
      writes := core.writes ++ [write]
      tof := core.tof.filter (· ≠ e.tile)
      tnv := core.tnv.filter (· ≠ e.tile) }
  | .mcommit => { core with array := { arr with left := 0 } }

/-- Whether a cycle is a step boundary that the limiter has yet to take (R318). -/
def atStep (s : State) (i n : Nat) : Bool := n % 4 = 0 && (getIsland s i).slewAt ≤ n
/-- Whether an entry's start waits for the step boundary of its own cycle, which may grant it or stop the filler it would take
over (R154, R319). -/
def startWaits (s : State) (c : Nat) (e : MEntry) : Bool :=
  let core := getCore s c
  e.isMma && core.array.planeEnd ≠ core.cycle && atStep s (islandOf c) core.cycle

/-- Whether MATRIX_ENTRY_START is due on a core: the context to serve and its entry. -/
def startDue (s : State) (c : Nat) : Option (Nat × MEntry) :=
  let core := getCore s c
  if core.array.cur.isSome ∨ core.array.busy ≠ 0 then none
  else match nextServe s c with
    | none => none
    | some x =>
      match (getCtx s c x).mq with
      | [] => none
      | e :: _ =>
        if x ≠ core.array.serve then some (x, e)
        else if mayStart core e && !needsGrant core e && !startWaits s c e then some (x, e) else none

/-- MATRIX_ENTRY_START (R154, R155): the array moves to the context due, parking an open chain, or starts its entry. -/
def entryStart (s : State) (c : Nat) : State :=
  match startDue s c with
  | none => s
  | some (x, e) =>
    let core := getCore s c
    if x ≠ core.array.serve then
      let (core', parked) := parkChain core (chainKey (getCtx s c core.array.serve) core.array.serve)
      modCore s c fun _ => { core' with
        array := { core'.array with serve := x, moving := false, busy := if parked then 8 else 0 } }
    else
      let s := modCtx s c x fun k => { k with mq := k.mq.drop 1 }
      let others := (upTo 8).any fun y => y ≠ x && (getCtx s c y).mq ≠ []
      modCore s c fun core =>
        let core := beginEntry core (chainKey (getCtx s c x) x) e
        { core with array := { core.array with moving := core.array.moving && others } }

/-- The words a closed chain writes to its tile, and its sticky bits (R158, R159). -/
def chainWords (ch : Chain) : List (Option Nat) × Bool × Bool :=
  match matFmt ch.fmt with
  | none => ([], false, false)
  | some f =>
    let rs := ch.accs.map (fun a => if a.live then some (accWord f a) else none)
    (rs.map (fun r => r.map Prod.fst), rs.any (fun r => match r with | some w => w.2.1 | none => false),
      rs.any (fun r => match r with | some w => w.2.2 | none => false))

/-- Whether a chain is closed and all its entries have ended (R157); one of a context that is swapped out stays parked (R155). -/
def chainClosed (s : State) (c : Nat) (ch : Chain) : Bool :=
  let x := ch.ctx % 8
  let k := getCtx s c x
  k.status ≠ .free && k.part = ch.ctx / 8 &&
  !(match k.mopen with | some m => m.1 = ch.id | none => false) &&
  !k.mq.any (fun e => e.chain = ch.id && e.isMma) &&
  !(match (getCore s c).array.cur with | some e => e.ctx = x && e.isMma && e.chain = ch.id | none => false)

/-- The rows of a closed chain's tile that are poisoned (R385): all of them, or those that were and that it does not write
whole. -/
def chainBadRows (core : Core) (ch : Chain) : List Nat :=
  (upTo 32).filter fun r => ch.poison ||
    (core.badRows.contains (ch.tile * 32 + r) && !(ch.accs.zipIdx.all fun a => a.2 / 16 ≠ r || a.1.live))

/-- Every closed chain begins its write-back (R156). Its words stand in the tile at once; no access sees a row before the
watermark passes it. -/
def closeChains (s : State) (c : Nat) : State :=
  ((getCore s c).chains.filter (chainClosed s c)).foldl (fun s ch =>
    let (ws, tof, tnv) := chainWords ch
    let w : TileWrite := { ctx := ch.ctx, tile := ch.tile, rows := 0, wait := 0, batch := ch.batch, seq := ch.seq,
                           tof := tof, tnv := tnv }
    modCore s c fun core =>
      { markRows { core with tiles := setTile core.tiles ch.tile ws } ch.tile (chainBadRows core ch) with
        chains := core.chains.filter (fun d => ¬ (d.ctx = ch.ctx ∧ d.id = ch.id))
        writes := core.writes ++ [w] }) s

/-- Whether MATRIX_ENTRY_END is due. -/
def endDue (core : Core) : Bool := core.array.cur.isSome && core.array.left = 0

/-- MATRIX_ENTRY_END (R156): the entry ends, its guard entry is released, an MSTA's words are in the scratchpad, and a
closed chain's write-back begins. An array whose plane work ends runs filler until the next boundary (R319). -/
def entryEnd (s : State) (c : Nat) : State :=
  let core := getCore s c
  match core.array.cur with
  | none => s
  | some e =>
    if core.array.left ≠ 0 then s
    else
      let s := match e.op with
        | .msta =>
          let bad := (upTo 32).filter (fun r => core.badRows.contains (e.tile * 32 + r))
          let s := spadStore s c e.a 2048 (ofElems 32 (tileList core.tiles e.tile))
          modCore s c fun k => { k with poison := k.poison ++ bad.flatMap (fun r => spadWords (e.a + 64 * r) 64) }
        | _ => s
      let s := modCore s c fun k => { k with
        guard := k.guard.filter (fun g => g.seq ≠ e.seq)
        array := { k.array with
          cur := none
          planeEnd := if e.isMma then k.cycle else k.array.planeEnd
          filler := k.array.filler || e.isMma } }
      closeChains s c

/-- Whether CHAIN_WRITEBACK_DONE is due. -/
def writeDue (core : Core) : Bool := core.writes.any (fun w => 32 ≤ w.rows)

/-- CHAIN_WRITEBACK_DONE (R156, R159, R160): a tile's last rows are final. -/
def writebackDone (s : State) (c : Nat) : State :=
  modCore s c fun k =>
    let done := k.writes.filter (fun w => 32 ≤ w.rows)
    { k with
      writes := k.writes.filter (fun w => ¬ 32 ≤ w.rows)
      tof := (k.tof ++ (done.filter (fun w => w.tof)).map (fun w => w.tile)).eraseDups
      tnv := (k.tnv ++ (done.filter (fun w => w.tnv)).map (fun w => w.tile)).eraseDups }

/-- One cycle of a core's array: the running entry, parking, write-backs, and V-mode accesses come one cycle nearer; an
MMA's guard entry is released at the end of its last plane cycle (R162). -/
def arrayTick (core : Core) : Core :=
  let a := core.array
  let done := a.done + 1
  let guard := match a.cur with
    | some e => if e.isMma && done = e.planes then core.guard.filter (fun g => g.seq ≠ e.seq) else core.guard
    | none => core.guard
  { core with
    array := { a with left := a.left - 1, done := done, busy := a.busy - 1 }
    guard := guard
    writes := core.writes.map (fun w => if w.wait = 0 then { w with rows := w.rows + 4 } else { w with wait := w.wait - 1 })
    vbusy := (core.vbusy.map (fun v => (v.1, v.2 - 1))).filter (fun v => v.2 ≠ 0) }

/-! ### The slew limiter (R318, R319) -/

/-- The cores of an island. -/
def coresOf (i : Nat) : List Nat := (upTo 4).map (fun r => 4 * i + r)
/-- Whether an array does plane work now. -/
def planeBusy (core : Core) : Bool := match core.array.cur with | some e => e.isMma && core.array.left ≠ 0 | none => false
/-- Whether an array requests a grant (R318). -/
def requesting (s : State) (c : Nat) : Bool :=
  let core := getCore s c
  if core.array.cur.isSome ∨ core.array.busy ≠ 0 then false
  else match (getCtx s c core.array.serve).mq with
    | [] => false
    | e :: _ => mayStart core e && needsGrant core e
/-- The activity cap (R311, R318, R320). -/
def activityCap (i : Island) : Nat := if i.capLow then 1 else max 1 (4 - i.droopCap)
/-- The largest ramp level whose entry does not exceed a count, or 0. -/
def rampLevel (ramp : List Nat) (n : Nat) : Nat := ((upTo 8).filter (fun j => nth ramp j 9 ≤ n)).getLast?.getD 0

/-- Grants in core order while the active count stays below a limit: those granted, the count, whether one went without. -/
def grantArrays (limit : Nat) : List Nat → Nat → List Nat × Nat × Bool
  | [], n => ([], n, false)
  | c :: t, n =>
    if n < limit then let (l, m, left) := grantArrays limit t (n + 1); (c :: l, m, left)
    else let (l, m, _) := grantArrays limit t n; (l, m, true)

/-- SLEW_STEP_BOUNDARY (R318, R319): ramp-down with filler, then grants, then the ramp level. -/
def slewStep (s : State) (i : Nat) : State :=
  let isl := getIsland s i
  let cores := coresOf i
  let now := cores.foldl (fun n c => max n (getCore s c).cycle) 0
  let real := cores.filter (fun c => planeBusy (getCore s c))
  let want := max real.length (isl.active - 1) - real.length
  let idle := cores.filter (fun c => ¬ planeBusy (getCore s c))
  let fill := idle.take want
  let active := real.length + fill.length
  let lam := if active < isl.active then rampLevel isl.ramp active else isl.lam
  let s := idle.foldl (fun s c => modCore s c fun k => { k with array := { k.array with filler := fill.contains c } }) s
  let (got, n, left) := grantArrays (min (nth isl.ramp lam 4) (activityCap isl)) (cores.filter (requesting s)) active
  let s := got.foldl (fun s c => modCore s c fun k => { k with array := { k.array with granted := true } }) s
  modIsland s i fun isl => { isl with active := n, lam := if left then min 7 (lam + 1) else lam, slewAt := (now / 4 + 1) * 4 }

end Sys2Proof.Machine
end

