-- ==== Sys2Proof/Machine/Engine.lean ====
section
/-! DEFINITION. Copy engines and matrix-vector units (R231–R252): descriptors, CPY, MVX, tags and timelines, and the engine
events. An operation performs its accesses at its completion (log entry 14). -/

namespace Sys2Proof.Machine

/-! ### Engine contexts (R231, R232) -/

/-- The key of an engine context: cluster, partition, number. -/
def engineKey (cluster part e : Nat) : Nat := cluster * 64 + part * 8 + e
/-- An engine context. -/
def getEngine (s : State) (key : Nat) : Engine := mget s.engines key {}
/-- The state with an engine context changed. -/
def modEngine (s : State) (key : Nat) (f : Engine → Engine) : State :=
  { s with engines := mset s.engines key (f (getEngine s key)) }

/-! ### Descriptors (R235–R240, R248) -/

/-- The type of a descriptor's type code (R236). -/
def engineType (c : Nat) : Option VTy :=
  if c < 8 then typeOf 0 c
  else match c with
    | 8 => some (.flt fmtE4m3) | 9 => some (.flt fmtE5m2) | 10 => some (.flt fmtBf16)
    | 11 => some (.int true 4) | 12 => some (.int false 4) | _ => none

/-- One dimension: its size and the two strides. -/
structure Dim where
  size : Nat
  src : Int
  dst : Int
  deriving DecidableEq, Repr

/-- A side of an operation: level, handle number and captured handle, address in units, and whether the unit is a nibble. -/
structure Side where
  lvl : Nat
  h : Nat
  base : Int
  nib : Bool
  deriving DecidableEq, Repr

/-- A CPY descriptor's meaning. -/
structure CpyDesc where
  src : Side
  dst : Side
  st : VTy
  dt : VTy
  dims : List Dim
  mode : Nat
  sat : Bool
  ectx : Nat
  tag : Option Nat
  pub : Option (Nat × Int)
  deriving DecidableEq, Repr

/-- A field that must be its low 48 bits sign-extended. -/
def ext48 (x : Nat) : Bool := narrow 64 (signed 48 x) = x
/-- A 64-bit word of a list. -/
def wordAt (ws : List Nat) (i : Nat) : Nat := nth ws i 0
/-- The dimension `i` of a CPY descriptor, given as 32 words. -/
def dimOf (ws : List Nat) (i : Nat) : Dim where
  size := wordAt ws (4 + 3 * i) % 2 ^ 32
  src := signed 48 (wordAt ws (5 + 3 * i))
  dst := signed 48 (wordAt ws (6 + 3 * i))

/-- Whether a type is 4 bits wide. -/
def isNib (t : VTy) : Bool := t.bits = 4
/-- The size of an element in its side's units. -/
def unitsOf (t : VTy) : Nat := if isNib t then 1 else t.bits / 8
/-- The base of a side: a level address, or a signed offset. -/
def sideBase (lvl w : Nat) : Int := if lvl = 3 then signed 64 w else (w : Int)

/-- The B type's plane count, for a type that a plane transpose may write (R239). -/
def transposeFmt (t : VTy) : Option MatFmt :=
  match t with
  | .int sg 8 => some ⟨.int sg 8, .int sg 8, 96, 8⟩
  | .int sg 4 => some ⟨.int sg 4, .int sg 4, 192, 4⟩
  | .int _ _ => none
  | .flt f =>
    if f = fmtE4m3 then some ⟨t, t, 96, 4⟩ else if f = fmtE5m2 then some ⟨t, t, 96, 3⟩
    else if f = fmtBf16 then some ⟨t, t, 48, 8⟩ else if f = fmtF16 then some ⟨t, t, 48, 11⟩ else none

/-- Whether a plane transpose's shape is in rule (R239). -/
def transposeOk (f : MatFmt) (lvl : Nat) (dst : Int) (dims : List Dim) : Bool :=
  let d0 := nth dims 0 ⟨0, 0, 0⟩
  let d1 := nth dims 1 ⟨0, 0, 0⟩
  lvl = 0 && 2 ≤ dims.length && d0.dst = 0 && d1.dst = 0 && 1 ≤ d0.size && d0.size ≤ f.k && 1 ≤ d1.size && d1.size ≤ 16 &&
  dst % 64 = 0 && (dims.drop 2).all (fun d => d.dst % 64 = 0)

/-- A CPY descriptor read from its words; `none` where a field breaks the rules judged at step 2 (R234, R240). -/
def readCpy (ws : List Nat) : Option CpyDesc :=
  let c := wordAt ws 0
  let n := c % 16
  let sl := bitsOf c 4 3
  let dl := bitsOf c 8 3
  let sh := bitsOf c 12 4
  let dh := bitsOf c 16 4
  let mode := bitsOf c 28 2
  let tagen := bitOf c 35
  let dims := (upTo n).map (dimOf ws)
  let reserved := bitOf c 7 || bitOf c 11 || bitOf c 31 || bitsOf c 47 17 ≠ 0 || wordAt ws 31 ≠ 0 ||
    (upTo n).any (fun i => wordAt ws (4 + 3 * i) / 2 ^ 32 ≠ 0)
  let strides := (upTo n).all (fun i => ext48 (wordAt ws (5 + 3 * i)) && ext48 (wordAt ws (6 + 3 * i)))
  match engineType (bitsOf c 20 4), engineType (bitsOf c 24 4) with
  | some st, some dt =>
    let dst := sideBase dl (wordAt ws 2)
    let shape := match mode with
      | 0 => st = dt
      | 1 => true
      | 2 => (match transposeFmt dt with | some f => transposeOk f dl dst dims | none => false)
      | _ => false
    if n = 0 ∨ 9 < n ∨ 3 < sl ∨ 3 < dl ∨ reserved = true ∨ strides = false ∨ shape = false ∨ (tagen = true ∧ dl ≠ 0) ∨
        (sl ≠ 3 ∧ sh ≠ 0) ∨ (dl ≠ 3 ∧ dh ≠ 0) then none
    else some {
      src := { lvl := sl, h := sh, base := sideBase sl (wordAt ws 1), nib := isNib st }
      dst := { lvl := dl, h := dh, base := dst, nib := isNib dt && mode ≠ 2 }
      st := st, dt := dt, dims := dims, mode := mode, sat := bitOf c 30, ectx := bitsOf c 32 3
      tag := if tagen then some (bitsOf c 36 6) else none
      pub := if bitOf c 42 then some (bitsOf c 43 4, signed 64 (wordAt ws 3)) else none }
  | _, _ => none

/-- Whether an operation moves nothing (R237). -/
def CpyDesc.empty (d : CpyDesc) : Bool := d.dims.any (fun x => x.size = 0)

/-- The least and greatest offsets of a side's elements, over sizes and strides (R237). -/
def spanOf (l : List (Nat × Int)) : Int × Int :=
  l.foldl (fun a d =>
    let e := ((d.1 : Int) - 1) * d.2
    (a.1 + min 0 e, a.2 + max 0 e)) (0, 0)

/-- The bytes of a footprint from its first unit, as an offset from the side's origin, and its length. -/
def byteSpan (nib : Bool) (lo hi : Int) : Int × Nat :=
  if nib then (lo / 2, (hi / 2 - lo / 2 + 1).toNat) else (lo, (hi - lo + 1).toNat)

/-- The index tuples of an operation's dimensions, dimension 0 innermost: source and destination offsets. -/
def walkDims : List Dim → List (Int × Int)
  | [] => [(0, 0)]
  | d :: t => (walkDims t).flatMap (fun o => (upTo d.size).map (fun (i : Nat) => (o.1 + (i : Int) * d.src, o.2 + (i : Int) * d.dst)))

/-- The footprint of a CPY's source. -/
def CpyDesc.srcSpan (d : CpyDesc) : Int × Nat :=
  let r := spanOf (d.dims.map (fun x => (x.size, x.src)))
  byteSpan d.src.nib (d.src.base + r.1) (d.src.base + r.2 + (unitsOf d.st : Nat) - 1)

/-- The units of one destination element, or of one buffer of a plane transpose. -/
def CpyDesc.dstUnits (d : CpyDesc) : Nat :=
  if d.mode = 2 then (match transposeFmt d.dt with | some f => f.bBytes | none => 0) else unitsOf d.dt

/-- The bytes from the first to the last of its destination. -/
def CpyDesc.dstSpan (d : CpyDesc) : Int × Nat :=
  let r := spanOf (d.dims.map (fun x => (x.size, x.dst)))
  byteSpan d.dst.nib (d.dst.base + r.1) (d.dst.base + r.2 + (d.dstUnits : Nat) - 1)

/-- The footprints of its destination in units (R237), as first unit and count: of a plane transpose one at each buffer's base
(R239). -/
def CpyDesc.dstRuns (d : CpyDesc) : List (Int × Nat) :=
  if d.mode = 2 then (walkDims (d.dims.drop 2)).map (fun o => (d.dst.base + o.2, d.dstUnits))
  else
    let r := spanOf (d.dims.map (fun x => (x.size, x.dst)))
    [(d.dst.base + r.1, (r.2 - r.1).toNat + d.dstUnits)]

/-- The footprint of its source in units. -/
def CpyDesc.srcRuns (d : CpyDesc) : List (Int × Nat) :=
  let r := spanOf (d.dims.map (fun x => (x.size, x.src)))
  [(d.src.base + r.1, (r.2 - r.1).toNat + unitsOf d.st)]

/-- An MVX descriptor's meaning (R248). -/
structure MvxDesc where
  mask : Nat
  fmt : Nat
  planes : Nat
  acc : Bool
  ectx : Nat
  wh : Nat
  woff : Int
  x : Side
  y : Side
  m : Nat
  n : Nat
  pitch : Nat
  pub : Option (Nat × Int)
  deriving DecidableEq, Repr

/-- An MVX descriptor read from its 16 words; `none` where a field breaks the rules judged at step 2. `va` gives a handle's
virtual address, for the alignment of a global y. -/
def readMvx (ws : List Nat) (va : Nat → Nat) : Option MvxDesc :=
  let md := wordAt ws 1
  let fmt := md % 32
  let planes := bitsOf md 5 4
  let xl := bitsOf md 16 3
  let yl := bitsOf md 20 3
  let xh := bitsOf md 28 4
  let yh := bitsOf md 32 4
  let shape := wordAt ws 5
  let m := shape % 2 ^ 32
  let n := shape / 2 ^ 32
  let pitch := wordAt ws 6
  let y := sideBase yl (wordAt ws 4)
  let reserved := wordAt ws 0 / 2 ^ 32 ≠ 0 || bitsOf md 13 3 ≠ 0 || bitOf md 19 || bitOf md 23 || bitsOf md 41 23 ≠ 0 ||
    (upTo 8).any (fun i => wordAt ws (8 + i) ≠ 0)
  match matFmt fmt with
  | none => none
  | some f =>
    if f.full < planes ∨ 3 < xl ∨ 3 < yl ∨ (xl ≠ 3 ∧ xh ≠ 0) ∨ (yl ≠ 3 ∧ yh ≠ 0) ∨ reserved = true ∨ m = 0 ∨ 2 ^ 20 < m ∨
        n = 0 ∨ ¬ [128, 256, 512, 1024, 2048, 4096].contains pitch ∨ 8 * pitch < n * f.b.bits ∨
        ((if yl = 3 then (va yh : Int) else 0) + y) % 4 ≠ 0 then none
    else some {
      mask := wordAt ws 0, fmt := fmt, planes := if planes = 0 then f.full else planes, acc := bitOf md 9
      ectx := bitsOf md 10 3, wh := bitsOf md 24 4, woff := signed 64 (wordAt ws 2)
      x := { lvl := xl, h := xh, base := sideBase xl (wordAt ws 3), nib := isNib f.a }
      y := { lvl := yl, h := yh, base := y, nib := false }
      m := m, n := n, pitch := pitch
      pub := if bitOf md 36 then some (bitsOf md 37 4, signed 64 (wordAt ws 7)) else none }

/-- The footprints of x and y in bytes, and of the weights. -/
def MvxDesc.xSpan (d : MvxDesc) : Int × Nat :=
  let es := match matFmt d.fmt with | some f => unitsOf f.a | none => 1
  byteSpan d.x.nib d.x.base (d.x.base + (d.n * es : Nat) - 1)
/-- The footprint of x in units. -/
def MvxDesc.xRuns (d : MvxDesc) : List (Int × Nat) :=
  [(d.x.base, d.n * (match matFmt d.fmt with | some f => unitsOf f.a | none => 1))]
def MvxDesc.ySpan (d : MvxDesc) : Int × Nat := (d.y.base, 4 * d.m)
def MvxDesc.wSpan (d : MvxDesc) : Int × Nat := (d.woff, d.m * d.pitch)

/-! ### The checks at acceptance (R234) -/

/-- The answer of a check that may also have to wait for a handle. -/
inductive EngChk where
  | ok
  | stall
  | fault (t : Trap)
  deriving DecidableEq, Repr

/-- The first answer that is not `ok`. -/
def firstBad : List EngChk → EngChk
  | [] => .ok
  | .ok :: t => firstBad t
  | c :: _ => c

/-- A condition that must hold, or a fault. -/
def need (b : Bool) (t : Trap) : EngChk := if b then .ok else .fault t

/-- The virtual address of an offset from a handle. -/
def handleVa (hd : Handle) (off : Int) : Nat := narrow 57 ((hd.va.toNat : Int) + off)
/-- A handle as a trap record names it. -/
def handleObj (k : Ctx) (h : Nat) : Nat := h + (readH k h).gen.toNat * 256

/-- Step 3: the state of a handle (R188). -/
def chkState (k : Ctx) (h : Nat) (off : Int) : EngChk :=
  let hd := readH k h
  if hd.pending then .stall
  else if hd.fault ≠ 0 then .fault (trapOf hd.fault (handleVa hd off) (handleObj k h))
  else if hd.valid then .ok
  else if hd.revoked then .stall
  else .fault (trapOf codePerm 0 (handleObj k h))

/-- Step 5: a footprint inside its handle's page. -/
def chkBound (k : Ctx) (h : Nat) (sp : Int × Nat) : EngChk :=
  let hd := readH k h
  let pg := 2 ^ pageBits hd.size.toNat
  let o := ((hd.va.toNat % pg : Nat) : Int) + sp.1
  need (0 ≤ o && o + sp.2 ≤ pg) (trapOf codeHandleBound (handleVa hd sp.1) (handleObj k h))

/-- Step 6: permission, and a handle neither bound to a window nor on an uncached page. -/
def chkPerm (k : Ctx) (h : Nat) (sp : Int × Nat) (bit : Nat) : EngChk :=
  let hd := readH k h
  need (hd.perm.getLsbD bit && hd.bind.toNat < 2 ^ 12 && !isMmio hd.base.toNat)
    (trapOf codePerm (handleVa hd sp.1) (handleObj k h))

/-- Step 7: a scratchpad footprint inside its carve. -/
def chkCarve (s : State) (k : Ctx) (lvl : Nat) (sp : Int × Nat) : EngChk :=
  need (0 ≤ sp.1 && inCarve s k lvl sp.1.toNat sp.2) (carveTrap lvl (narrow 57 sp.1))

/-- The physical address of an offset from a handle's virtual address. -/
def handlePa (hd : Handle) (off : Int) : Nat :=
  (((hd.base.toNat + hd.va.toNat % 2 ^ pageBits hd.size.toNat : Nat) : Int) + off).toNat

/-- A footprint of a side, given in units, as its first nibble on the level and its nibbles. -/
def nibRun (k : Ctx) (sd : Side) (r : Int × Nat) : Int × Nat :=
  let o : Int := if sd.lvl = 3 then 2 * (handlePa (readH k sd.h) 0 : Nat) else 0
  if sd.nib then (o + r.1, r.2) else (o + 2 * r.1, 2 * r.2)

/-- Whether footprints of two sides, given in units, overlap on one level (step 8). -/
def runsMeet (k : Ctx) (a b : Side) (ra rb : List (Int × Nat)) : Bool :=
  a.lvl = b.lvl && ra.any fun x => rb.any fun y =>
    let u := nibRun k a x
    let v := nibRun k b y
    u.1 < v.1 + v.2 && v.1 < u.1 + u.2

/-- The publish word's own checks, at steps 3 to 6. -/
def pubSteps (k : Ctx) (pub : Option (Nat × Int)) (bad : Trap) : EngChk × EngChk × EngChk × EngChk :=
  match pub with
  | none => (.ok, .ok, .ok, .ok)
  | some (h, off) =>
    let hd := readH k h
    (chkState k h off,
     need ((isLpddr hd.base.toNat || isHostMem hd.base.toNat) && ((hd.va.toNat : Int) + off) % 8 = 0) bad,
     chkBound k h (off, 8), chkPerm k h (off, 8) 1)

/-- The handle that a side names: only one of global memory has one. -/
def Side.handle (sd : Side) : Option Nat := if sd.lvl = 3 then some sd.h else none
/-- The handles that a CPY names (step 3). -/
def CpyDesc.named (d : CpyDesc) : List Nat :=
  (if d.src.lvl = 3 then [d.src.h] else []) ++ (if d.dst.lvl = 3 then [d.dst.h] else []) ++ (d.pub.map Prod.fst).toList
/-- The handles that an MVX names. -/
def MvxDesc.named (d : MvxDesc) : List Nat :=
  d.wh :: (if d.x.lvl = 3 then [d.x.h] else []) ++ (if d.y.lvl = 3 then [d.y.h] else []) ++ (d.pub.map Prod.fst).toList

/-- The checks of a CPY from step 3 on. -/
def checkCpy (s : State) (k : Ctx) (d : CpyDesc) (bad : Trap) : EngChk :=
  let p := pubSteps k d.pub bad
  let on := fun (sd : Side) (c : EngChk) => if sd.lvl = 3 && !d.empty then c else .ok
  let off := fun (sd : Side) (c : EngChk) => if sd.lvl ≠ 3 && !d.empty then c else .ok
  firstBad [
    on d.src (chkState k d.src.h d.srcSpan.1), on d.dst (chkState k d.dst.h d.dstSpan.1), p.1, p.2.1,
    on d.src (chkBound k d.src.h d.srcSpan), on d.dst (chkBound k d.dst.h d.dstSpan), p.2.2.1,
    on d.src (chkPerm k d.src.h d.srcSpan 0), on d.dst (chkPerm k d.dst.h d.dstSpan 1), p.2.2.2,
    off d.src (chkCarve s k d.src.lvl d.srcSpan), off d.dst (chkCarve s k d.dst.lvl d.dstSpan),
    need (d.empty || !runsMeet k d.src d.dst d.srcRuns d.dstRuns) bad]

/-- The checks of an MVX from step 3 on. -/
def checkMvx (s : State) (k : Ctx) (d : MvxDesc) (bad : Trap) : EngChk :=
  let p := pubSteps k d.pub bad
  let wd := readH k d.wh
  let w : Side := { lvl := 3, h := d.wh, base := d.woff, nib := false }
  let on := fun (sd : Side) (c : EngChk) => if sd.lvl = 3 then c else .ok
  let off := fun (sd : Side) (c : EngChk) => if sd.lvl ≠ 3 then c else .ok
  firstBad [
    chkState k d.wh d.woff, on d.x (chkState k d.x.h d.xSpan.1), on d.y (chkState k d.y.h d.ySpan.1), p.1,
    need (isLpddr wd.base.toNat && ((wd.va.toNat : Int) + d.woff) % 4096 = 0) bad, p.2.1,
    chkBound k d.wh d.wSpan, on d.x (chkBound k d.x.h d.xSpan), on d.y (chkBound k d.y.h d.ySpan), p.2.2.1,
    chkPerm k d.wh d.wSpan 0, on d.x (chkPerm k d.x.h d.xSpan 0),
    on d.y (chkPerm k d.y.h d.ySpan 1), p.2.2.2,
    off d.x (chkCarve s k d.x.lvl d.xSpan), off d.y (chkCarve s k d.y.lvl d.ySpan),
    need (!runsMeet k d.x d.y d.xRuns [d.ySpan] && !runsMeet k w d.y [d.wSpan] [d.ySpan]) bad]

/-! ### CPY, MVX (R233, R234) -/

/-- Whether the context has an earlier access to the core scratchpad's bytes of a descriptor that has not been performed:
scratchpad accesses are performed as they issue, so only queue entries that write can be (R182). -/
def descWaits (s : State) (c a n : Nat) : Bool := guardMeets s c a n false

/-- The next number of an engine context. -/
def nextOp (s : State) (key : Nat) : Nat := (getEngine s key).accepted + 1

/-- An operation accepted (R232, R244): with the handles it names, and no other (R243). -/
def acceptOp (p : Port) (mvx : Bool) (e : Nat) (ws : List Nat) (hs : List (Option Nat)) (tag : Option Nat) (s : State) : State :=
  let k := getCtx s p.core p.ctx
  let key := engineKey (islandOf p.core) k.part e
  let op : EngineOp := {
    n := nextOp s key, core := p.core, ctx := p.ctx, part := k.part, task := k.task, mvx := mvx, desc := ws,
    handles := hs.map (fun h => match h with | some n => readH k n | none => {}), started := false }
  let s := modEngine s key fun g => { g with accepted := g.accepted + 1, ops := g.ops ++ [op] }
  match tag with
  | none => s
  | some t => modCore s p.core fun c => { c with
      tags := c.tags &&& ~~~ (BitVec.twoPow 64 t), counts := mset c.counts t (mget c.counts t 0 + 1) }

/-- CPY and MVX: three cycles of descriptor read, then the checks of R234, then acceptance; the number lands in the cycle after
the bundle issues, its register pending till then. R234 does not say what a descriptor in poisoned scratchpad words does: here
its bytes are read as they are, and no fault is raised (log entry 100). -/
def engineSlot (bytes : Nat) (mvx : Bool) (g : BitVec 4) (d a : BitVec 6) : Op := fun e =>
  { memSlot g true [sReg a.toNat] [sReg d.toNat] [sReg d.toNat] false (fun p s =>
      let k := p.reads s
      let at_ := (readS k a.toNat).toNat / bytes * bytes
      if k.preStall < 3 then .prep (k.preStall + 1)
      else if descWaits s p.core at_ bytes then .stall
      else if ¬ inCarve s k 0 at_ bytes then .trap (carveTrap 0 at_)
      else
        let ws := elems 64 (spadLoad s p.core at_ bytes) (bytes / 8)
        let go := fun (ectx : Nat) (hs : List (Option Nat)) (named : List Nat) (tag : Option Nat) (c : EngChk) =>
          let key := engineKey (islandOf p.core) k.part ectx
          match c with
          | .stall => SlotRes.stallAsk fun s => modCtx s p.core p.ctx fun k => named.foldl (fun k h => seekHandle h k) k
          | .fault t => .trap t
          | .ok =>
            if 32 ≤ (getEngine s key).ops.length then .stall
            else .go {
              works := [{ reg := sReg d.toNat, kind := .timed (BitVec.ofNat 1024 (nextOp s key)) 2 }]
              act := acceptOp p mvx ectx ws hs tag
              turn := true }
        if mvx then
          match readMvx ws (fun h => (readH k h).va.toNat) with
          | none => .trap (trapOf codeDescriptor (at_ % 2 ^ 57) (bitsOf (wordAt ws 1) 10 3))
          | some m => go m.ectx [m.x.handle, m.y.handle, m.pub.map Prod.fst, some m.wh] m.named none
              (checkMvx s k m (trapOf codeDescriptor (at_ % 2 ^ 57) m.ectx))
        else
          match readCpy ws with
          | none => .trap (trapOf codeDescriptor (at_ % 2 ^ 57) (bitsOf (wordAt ws 0) 32 3))
          | some m => go m.ectx [m.src.handle, m.dst.handle, m.pub.map Prod.fst] m.named m.tag
              (checkCpy s k m (trapOf codeDescriptor (at_ % 2 ^ 57) m.ectx)))
    with extLegal := e.x == 0, inTurn := true }

/-- R233. -/
def opCpy (g : BitVec 4) (d a : BitVec 6) : Op := engineSlot 256 false g d a
/-- R233, R248. -/
def opMvx (g : BitVec 4) (d a : BitVec 6) : Op := engineSlot 128 true g d a

/-! ### Tags and timelines (R244–R246) -/

/-- A slot of class B that takes no header extension. -/
def unitSlot (g : BitVec 4) (ok : Bool) (e : Ext) (reads : List Reg) (dest : List Reg) (sampler : Bool)
    (run : Port → State → SlotRes) : SlotInfo :=
  { memSlot g ok reads dest dest sampler run with extLegal := e.x == 0 }

/-- R244: a blocking wait for every tag of a mask. -/
def opTagw (g : BitVec 4) (a : BitVec 6) : Op := fun e =>
  unitSlot g true e [sReg a.toNat] [] false fun p s =>
    let m := readS (p.reads s) a.toNat
    if (getCore s p.core).tags &&& m = m then .go {} else .wait (.tagw m.toNat) id

/-- R244. -/
def opTagffC (g : BitVec 4) (a : BitVec 6) : Op := fun e =>
  unitSlot g true e [sReg a.toNat] [] false fun p s =>
    let m := readS (p.reads s) a.toNat
    .go { act := fun s => modCore s p.core fun c => { c with tags := c.tags &&& ~~~ m } }

/-- R244. -/
def opTagffS (g : BitVec 4) (a : BitVec 6) : Op := fun e =>
  unitSlot g true e [sReg a.toNat] [] false fun p s =>
    let m := readS (p.reads s) a.toNat
    .go { act := fun s => modCore s p.core fun c => { c with tags := c.tags ||| m } }

/-- The engine context a slot names: of its own cluster and partition. A sampler core has none. -/
def engineOf (s : State) (p : Port) (e : Nat) : Nat := engineKey (islandOf p.core) (p.reads s).part e

/-- The line cache brought up to date for an engine context (R245): the lines of the footprints of the operations from the
record on, if all are remembered, else every line. -/
def timelineAcquire (s : State) (c x : Nat) (e n : Nat) : State :=
  let k := getCtx s c x
  let key := engineKey (islandOf c) k.part e
  let done := (getEngine s key).done
  let rec_ := mget (getCore s c).tlw e 0
  if n ≤ rec_ then s
  else
    let known := n - rec_ ≤ 64 && (List.range (min 64 (n - rec_))).all (fun i => done.any (fun d => d.1 = rec_ + 1 + i))
    let s := if known then
        ((done.filter (fun d => rec_ < d.1 ∧ d.1 ≤ n)).flatMap (fun d => d.2)).foldl
          (fun s f => flushRange s c f.1 f.2) s
      else flushAll s c
    modCore s c fun core => { core with tlw := mset core.tlw e n }

/-- R245: a blocking wait for a timeline; the line cache is then brought up to date before later bundles issue. -/
def opTlwait (g : BitVec 4) (e : BitVec 3) (b : BitVec 6) : Op := fun x =>
  unitSlot g true x [sReg b.toNat] [] true fun p s =>
    let n := (readS (p.reads s) b.toNat).toNat
    if n ≤ (getEngine s (engineOf s p e.toNat)).counter then
      .go { act := fun s => modCtx s p.core p.ctx fun k => { k with hold := k.hold ++ [.tlwait e.toNat n] } }
    else .wait (.tlwait e.toNat n) id

/-- A timeline read (R246): performed when the result arrives. -/
def tlrdOp (mode : Nat) (g : BitVec 4) (d : BitVec 6) (e : BitVec 3) : Op := fun x =>
  unitSlot g true x [] [sReg d.toNat] true fun _ _ =>
    .go { works := [{ reg := sReg d.toNat, kind := .unit (.tlrd e.toNat mode) }] }

/-- R246: the counter. -/
def opTlrd (g : BitVec 4) (d : BitVec 6) (e : BitVec 3) : Op := tlrdOp 0 g d e
/-- R246: the status word. -/
def opTlrdSt (g : BitVec 4) (d : BitVec 6) (e : BitVec 3) : Op := tlrdOp 1 g d e
/-- R246: the status word, cleared. -/
def opTlrdStc (g : BitVec 4) (d : BitVec 6) (e : BitVec 3) : Op := tlrdOp 2 g d e

/-- TLRD performed. -/
def tlrdPerform (s : State) (c : Nat) (k : Ctx) (e mode : Nat) : State × Nat :=
  let key := engineKey (islandOf c) k.part e
  let g := getEngine s key
  if mode = 0 then (s, g.counter)
  else if mode = 1 then (s, g.status)
  else (modEngine s key fun g => { g with status := 0 }, g.status)

/-! ### Engine accesses (R241, R243) -/

/-- A side as an operation reaches it: level, core, cluster, and the byte address of its origin. -/
structure Reach where
  lvl : Nat
  core : Nat
  org : Nat
  nib : Bool
  deriving DecidableEq, Repr

/-- A side of an operation with the handle captured at acceptance. -/
def reachOf (op : EngineOp) (sd : Side) (i : Nat) : Reach where
  lvl := sd.lvl
  core := op.core
  org := if sd.lvl = 3 then handlePa (nth op.handles i {}) 0 else 0
  nib := sd.nib

/-- The byte address of a unit offset. -/
def Reach.byte (r : Reach) (u : Int) : Nat := ((r.org : Int) + (if r.nib then u / 2 else u)).toNat

/-- The memory behind a side, and its poison. -/
def reachMem (s : State) (r : Reach) : Map Byte :=
  match r.lvl with
  | 0 => (getCore s r.core).scratch
  | 1 => mget s.cluster (islandOf r.core) []
  | 2 => s.chip
  | _ => s.mem
def reachBad (s : State) (r : Reach) (a n : Nat) : Bool :=
  match r.lvl with
  | 0 => (spadWords a n).any (getCore s r.core).poison.contains
  | 1 => (spadWords a n).any (fun w => s.badCluster.contains (islandOf r.core * 2 ^ 20 + w))
  | 2 => (spadWords a n).any s.badChip.contains
  | _ => n ≠ 0 && (List.range ((a + n - 1) / 128 + 1 - a / 128)).any (fun i => linePoison s (a / 128 + i))

/-- The bits of one element at a unit offset of a side. -/
def readElem (s : State) (r : Reach) (t : VTy) (u : Int) : Nat :=
  if r.nib then elem 4 (mget (reachMem s r) (r.byte u) 0).toNat (u % 2).toNat
  else readNat (reachMem s r) (r.byte u) (t.bits / 8)

/-- Bytes to be written, listed by address with whether each is poisoned. -/
abbrev Pending := Map (Byte × Bool)

/-- One element entered among the bytes to be written, over those of a memory. -/
def putElem (m : Map Byte) (r : Reach) (t : VTy) (u : Int) (v : Nat) (bad : Bool) (w : Pending) : Pending :=
  let a := r.byte u
  if r.nib then
    let old := match mfind w a with | some b => (b.1.toNat, b.2) | none => ((mget m a 0).toNat, false)
    let i := (u % 2).toNat
    mset w a (BitVec.ofNat 8 (old.1 - elem 4 old.1 i * 16 ^ i + v % 16 * 16 ^ i), bad || old.2)
  else (natBytes v (t.bits / 8)).zipIdx.foldl (fun w b => mset w (a + b.2) (b.1, bad)) w

/-- A run of bytes entered among those to be written. -/
def putBytes (a : Nat) (v n : Nat) (bad : Bool) (w : Pending) : Pending :=
  (natBytes v n).zipIdx.foldl (fun w b => mset w (a + b.2) (b.1, bad)) w

/-- The lines of a list of bytes to be written. -/
def linesOf (w : Pending) : List Nat := (w.map (fun e => e.1 / 128)).eraseDups

/-- A line of bytes as a value and a mask. -/
def lineOf (w : Pending) (line : Nat) : Nat × Nat :=
  (w.filter (fun e => e.1 / 128 = line)).foldl
    (fun a e => (a.1 + e.2.1.toNat * 2 ^ (8 * (e.1 % 128)), a.2 + 2 ^ (e.1 % 128))) (0, 0)

/-- The 32-byte words of which every byte is to be written. -/
def wholeWords (w : Pending) : List Nat :=
  ((w.map (fun e => e.1 / 32)).eraseDups).filter fun x => countIf (fun e => decide (e.1 / 32 = x)) w = 32

/-- The bytes performed at their level, slice or host, each whole line at once, and the poison they carry (R241, R243,
R385). -/
def reachWrite (s : State) (r : Reach) (agent : Agent) (task : Nat) (w : Pending) : State :=
  let bad := w.filter (fun e => e.2.2)
  let words := (bad.map (fun (e : Nat × (Byte × Bool)) => e.1 / 32)).eraseDups
  match r.lvl with
  | 0 =>
    let s := (linesOf w).foldl (fun s l =>
      let v := lineOf w l
      modCore s r.core fun k => { k with
        scratch := writeMasked k.scratch (l * 128) 128 v.1 v.2
        poison := k.poison.filter (fun p => ¬ (p < 2 ^ 32 ∧ p / 4 = l ∧ bitsOf v.2 (p % 4 * 32) 32 = ones 32)) }) s
    modCore s r.core fun k => { k with poison := (k.poison ++ words).eraseDups }
  | 1 =>
    let q := islandOf r.core
    let s := w.foldl (fun s e => { s with cluster := mset s.cluster q (writeByte (mget s.cluster q []) e.1 e.2.1) }) s
    { s with badCluster := (s.badCluster.filter (fun p => ¬ ((wholeWords w).any fun x => q * 2 ^ 20 + x = p)) ++
        words.map (fun x => q * 2 ^ 20 + x)).eraseDups }
  | 2 =>
    let s := w.foldl (fun s e => { s with chip := writeByte s.chip e.1 e.2.1 }) s
    { s with badChip := (s.badChip.filter (fun p => ¬ (wholeWords w).contains p) ++ words).eraseDups }
  | _ =>
    (linesOf w).foldl (fun s l =>
      let v := lineOf w l
      storeAt s agent task (l * 128) 128 v.1 v.2 (words.any fun x => x / 4 = l)) s

/-- The elements of a raw or converting CPY: bytes to be written and the flags raised (R237, R238). -/
def cpyElems (s : State) (d : CpyDesc) (src dst : Reach) : Pending × Nat × Bool :=
  (walkDims d.dims).foldl (fun acc o =>
    let u := d.src.base + o.1
    let x := readElem s src d.st u
    let bad := reachBad s src (src.byte u) (max 1 (d.st.bits / 8))
    let y : FRes := if d.mode = 0 then ⟨x, 0⟩ else convert d.sat d.st d.dt x
    (putElem (reachMem s dst) dst d.dt (d.dst.base + o.2) y.bits bad acc.1, acc.2.1 ||| y.fl, acc.2.2 || bad))
    ([], 0, false)

/-- The buffers of a plane transpose (R239): every column of 16 of every buffer, absent positions +0. -/
def cpyPlanes (s : State) (d : CpyDesc) (f : MatFmt) (src : Reach) : Pending × Nat × Bool :=
  let d0 := nth d.dims 0 ⟨0, 0, 0⟩
  let d1 := nth d.dims 1 ⟨0, 0, 0⟩
  (walkDims (d.dims.drop 2)).foldl (fun acc o =>
    (upTo 16).foldl (fun acc col =>
      let xs : List (FRes × Bool) := (upTo f.k).map (fun k =>
        if d0.size ≤ k ∨ d1.size ≤ col then (⟨0, 0⟩, false)
        else
          let u := d.src.base + o.1 + k * d0.src + col * d1.src
          (convert d.sat d.st d.dt (readElem s src d.st u), reachBad s src (src.byte u) (max 1 (d.st.bits / 8))))
      let bad := xs.any (fun x => x.2)
      let at_ := (d.dst.base + o.2).toNat
      ((columnPieces f col (xs.map (fun x => x.1.bits))).foldl (fun w p => putBytes (at_ + p.1) p.2.2 p.2.1 bad w) acc.1,
        xs.foldl (fun fl x => fl ||| x.1.fl) acc.2.1, acc.2.2 || bad)) acc) ([], 0, false)

/-- A weight read with `p` planes (R97, R98, R249). -/
def weightOf (t : VTy) (p x : Nat) : FVal :=
  match t with
  | .int sg e => FVal.ofInt (planesInt sg e ((upTo p).map (fun j => bitOf x (e - 1 - j))))
  | .flt f =>
    let r := transposed f x
    planesFloat (x / f.signBit % 2 = 1) r.1 (r.2.take p)

/-- The rows of an MVX: their words, each with whether a poisoned byte entered it, and the status bits (R249). -/
def mvxRows (s : State) (d : MvxDesc) (f : MatFmt) (w x y : Reach) : Pending × Nat × Bool :=
  let xs := (upTo d.n).map (fun k => valueOf f.a (readElem s x f.a (d.x.base + (k * unitsOf f.a : Nat))))
  let xsp := d.xSpan
  let xbad := xsp.2 ≠ 0 && reachBad s x ((x.org : Int) + xsp.1).toNat xsp.2
  (upTo d.m).foldl (fun acc r =>
    let at_ := w.byte (d.woff + (r * d.pitch : Nat))
    if ¬ bitOf d.mask (bitsOf at_ 12 5) then acc
    else
      let row := elems f.b.bits (readNat s.mem at_ ((d.n * f.b.bits + 7) / 8)) d.n
      let ws := row.map (weightOf f.b d.planes)
      let old := readNat (reachMem s y) (y.byte (d.y.base + (4 * r : Nat))) 4
      let bad := xbad || reachBad s w at_ ((d.n * f.b.bits + 7) / 8) ||
        (d.acc && reachBad s y (y.byte (d.y.base + (4 * r : Nat))) 4)
      let a0 := accInit f (!d.acc) old
      let a := (xs.zip ws).foldl (fun a p => accProduct (accUnit f) false a p.1 p.2) a0
      let v := accWord f a
      (putElem (reachMem s y) y (.int true 32) (d.y.base + (4 * r : Nat)) v.1 bad acc.1,
        acc.2.1 ||| (natOf v.2.1 * 2 ^ 8 + natOf v.2.2 * 2 ^ 9), acc.2.2 || bad)) ([], 0, false)

/-- The lines of LPDDR-6 that an operation's reads fetch, charged to its task (R252, R315): a copy engine's allocate, an
MVU's do not. -/
def engineFetch (s : State) (r : Reach) (task at_ n : Nat) (allocate : Bool) : State :=
  if r.lvl ≠ 3 ∨ n = 0 then s
  else if allocate then sliceFetchAll s task at_ n
  else
    let lines := (List.range ((at_ + n - 1) / 128 + 1 - at_ / 128)).map (fun i => at_ / 128 + i)
    chargeLines s task (countIf (fun l => isLpddr (l * 128) && (mfind s.slices l).isNone) lines)

/-! ### Engine events -/

/-- The operation that an engine context runs, or would start next. -/
def headOp (g : Engine) : Option EngineOp := g.ops.head?
/-- The bytes of weights of an MVX that lie on an MVU's channel: the busy time it takes of that MVU (R249, R252). Weights begin at a
4 KiB boundary, and the 32 channels take 4 KiB blocks in turn. -/
def EngineOp.busyTime (o : EngineOp) (i : Nat) : Nat :=
  let bytes := wordAt o.desc 5 % 2 ^ 32 * wordAt o.desc 6
  let first := handlePa (nth o.handles 3 {}) (signed 64 (wordAt o.desc 2)) / 4096 % 32
  bytes / 2 ^ 17 * 4096 + min 4096 (bytes % 2 ^ 17 - (i + 32 - first) % 32 * 4096)
/-- Whether an MVX waits for an MVU: it has rows there, and the MVU has not taken up its part of it. -/
def EngineOp.needs (o : EngineOp) (i : Nat) : Bool :=
  o.mvx && !o.started && bitOf (wordAt o.desc 0) i && !bitOf o.begun i && o.busyTime i ≠ 0
/-- The weight of a partition among those that MVX work waits for (R355). -/
def mvuShareOf (s : State) (p : Nat) : Nat := match mfind s.parts p with | some r => max 1 r.mvuShare | none => 1

/-- The key of a partition's turn at an MVU. -/
def turnKey (part i : Nat) : Nat := part * 32 + i

/-- What the partitions have left of their turns at an MVU: where none that waits for it has anything left, each that waits is given
its share as often as it takes for one to have some; a partition with no MVX work keeps only what it owes (R355; log entry 73). -/
def mvuTurns (s : State) (i : Nat) : Map Int :=
  let ps := ((s.engines.filterMap fun e => (headOp e.2).bind fun o => if o.needs i then some o.part else none)).eraseDups
  let left := fun (p : Nat) => mget s.mvuCredit (turnKey p i) 0
  let rounds := fun (p : Nat) => (-(left p) / (mvuShareOf s p : Nat) + 1).toNat
  let k := if ps.any fun p => 0 < left p then 0 else (least (ps.map rounds)).getD 0
  let works := fun (p : Nat) => s.engines.any fun e => e.2.ops.any fun o => o.part = p && o.mvx
  (upTo 8).foldl (fun m p =>
    let c := left p + if ps.contains p then ((k * mvuShareOf s p : Nat) : Int) else 0
    mput m (turnKey p i) (if works p then c else min 0 c) 0) s.mvuCredit

/-- An MVU takes up its part of the MVX at the head of an engine context, if that waits for it and its partition has the turn, which
it pays for. An MVU's part of one operation runs to its end before it takes up another (R355). -/
def mvuBegin (key : Nat) (s : State) (i : Nat) : State :=
  match (getEngine s key).ops with
  | op :: l =>
    if op.needs i then
      let turns := mvuTurns s i
      let left := mget turns (turnKey op.part i) 0
      if left ≤ 0 then s
      else modEngine { s with mvuCredit := mset turns (turnKey op.part i) (left - op.busyTime i) } key fun g =>
        { g with ops := { op with begun := op.begun + 2 ^ i } :: l }
    else s
  | [] => s

/-- ENGINE_OP_START (R232, R250, R355): the first operation of the engine context starts; an MVX once every MVU that has rows of it
has taken up its part. -/
def opStart (s : State) (key : Nat) : State :=
  let s := (upTo 32).foldl (mvuBegin key) s
  match (getEngine s key).ops with
  | op :: l =>
    if (upTo 32).any op.needs then s else modEngine s key fun g => { g with ops := { op with started := true } :: l }
  | [] => s

/-- Whether an operation's scratchpad accesses must wait on the operand guard of its core (R162, R241). -/
def guardHolds (s : State) (core : Nat) (r : Reach) (sp : Int × Nat) (write : Bool) : Bool :=
  r.lvl = 0 && sp.2 ≠ 0 && guardMeets s core sp.1.toNat sp.2 write

/-- The bytes of a CPY's destination footprints. -/
def CpyDesc.dstBytes (d : CpyDesc) : List (Int × Nat) :=
  d.dstRuns.map fun r => byteSpan d.dst.nib r.1 (r.1 + r.2 - 1)

/-- What an operation writes: its destination, bytes, status bits, poison, and the global footprint of its writes; `none`
while it must wait. -/
structure EngineWork where
  state : State
  dst : Reach
  bytes : Pending
  status : Nat
  foot : List (Nat × Nat)
  pub : Option (Nat × Int)
  tag : Option Nat

/-- The work of the operation at an engine context's head. Where CHMASK selects no row of an MVX, no MVU takes part, and x is not
read (R249, R250). -/
def engineWork (s : State) (op : EngineOp) : Option EngineWork :=
  let va := fun (i : Nat) => (nth op.handles i {}).va.toNat
  let foot := fun (r : Reach) (sp : Int × Nat) => if r.lvl = 3 ∧ sp.2 ≠ 0 then [(((r.org : Int) + sp.1).toNat, sp.2)] else []
  if op.mvx then
    match readMvx op.desc (fun _ => va 1) with
    | none => none
    | some d =>
      match matFmt d.fmt with
      | none => none
      | some f =>
        let x := reachOf op d.x 0
        let y := reachOf op d.y 1
        let w : Reach := { lvl := 3, core := op.core, org := handlePa (nth op.handles 3 {}) 0, nib := false }
        if guardHolds s op.core x d.xSpan false || guardHolds s op.core y d.ySpan true then none
        else
          let served := (upTo d.m).any fun r => bitOf d.mask (bitsOf (w.byte (d.woff + (r * d.pitch : Nat))) 12 5)
          let s := if served then engineFetch s x op.task (((x.org : Int) + d.xSpan.1).toNat) d.xSpan.2 true else s
          let s := (upTo d.m).foldl (fun s r =>
            let at_ := w.byte (d.woff + (r * d.pitch : Nat))
            if bitOf d.mask (bitsOf at_ 12 5) then
              let s := engineFetch s w op.task at_ ((d.n * f.b.bits + 7) / 8) false
              if d.acc then engineFetch s y op.task (y.byte (d.y.base + (4 * r : Nat))) 4 true else s
            else s) s
          let r := mvxRows s d f w x y
          some { state := s, dst := y, bytes := r.1, status := r.2.1 + natOf r.2.2 * 2 ^ 16, foot := foot y d.ySpan,
                 pub := d.pub, tag := none }
  else
    match readCpy op.desc with
    | none => none
    | some d =>
      let src := reachOf op d.src 0
      let dst := reachOf op d.dst 1
      if d.empty then
        some { state := s, dst := dst, bytes := [], status := 0, foot := [], pub := d.pub, tag := d.tag }
      else if guardHolds s op.core src d.srcSpan false || d.dstBytes.any (fun sp => guardHolds s op.core dst sp true) then none
      else
        let s := if src.lvl ≠ 3 then s
          else (walkDims d.dims).foldl (fun s o =>
            engineFetch s src op.task (src.byte (d.src.base + o.1)) (max 1 (d.st.bits / 8)) true) s
        let r := match transposeFmt d.dt with
          | some f => if d.mode = 2 then cpyPlanes s d f src else cpyElems s d src dst
          | none => cpyElems s d src dst
        some { state := s, dst := dst, bytes := r.1, status := r.2.1 + natOf r.2.2 * 2 ^ 16, foot := foot dst d.dstSpan,
               pub := d.pub, tag := d.tag }

/-- An operation's tag counted down, in the core or, for a partition swapped out, in its shadow (R244, R378). -/
def tagArrive (s : State) (op : EngineOp) (t : Nat) : State :=
  let bump := fun (tags : BitVec 64) (counts : Map Nat) =>
    let n := mget counts t 0 - 1
    (if n = 0 then tags ||| BitVec.twoPow 64 t else tags, mset counts t n)
  modCore s op.core fun c =>
    match c.shadow with
    | some sh =>
      if sh.part = op.part then
        let r := bump sh.tags sh.counts
        { c with shadow := some { sh with tags := r.1, counts := r.2 } }
      else let r := bump c.tags c.counts; { c with tags := r.1, counts := r.2 }
    | none => let r := bump c.tags c.counts; { c with tags := r.1, counts := r.2 }

/-- Whether a write of an engine context is still held at its slice (R229). -/
def engineOut (s : State) (agent : Agent) : Bool := s.stores.any (fun w => w.agent = agent)

/-- The end of an operation whose writes are performed (R242): the tag, then the publish word, then the counter. It waits
for a publish word that is held at its slice. -/
def opEnd (s : State) (cluster part e : Nat) (op : EngineOp) (rest : List EngineOp) (tag pub : Option Nat)
    (feet : List (Nat × Nat)) : State :=
  let agent : Agent := .engine cluster part e
  let s := match tag with | some t => tagArrive s op t | none => s
  let s := match pub with | some pa => storeAt s agent op.task pa 8 op.n (ones 8) | none => s
  modEngine s (engineKey cluster part e) fun g =>
    if engineOut s agent then { g with ops := { op with late := some (none, none, feet) } :: rest }
    else { g with counter := op.n, ops := rest, done := (g.done ++ [(op.n, feet)]).drop (g.done.length + 1 - 64) }

/-- ENGINE_OP_COMPLETE (R242): every write performed, and the end of the operation once none of them is held at a slice. -/
def opComplete (s : State) (cluster part e : Nat) : State :=
  let key := engineKey cluster part e
  let agent : Agent := .engine cluster part e
  match (getEngine s key).ops with
  | [] => s
  | op :: rest =>
    if ¬ op.started ∨ engineOut s agent = true then s
    else match op.late with
      | some (tag, pub, feet) => opEnd s cluster part e op rest tag pub feet
      | none =>
        match engineWork s op with
        | none => s
        | some w =>
          let s := reachWrite w.state w.dst agent op.task w.bytes
          let pub := w.pub.map (fun p => handlePa (nth op.handles 2 {}) p.2)
          let feet := w.foot ++ (match pub with | some pa => [(pa, 8)] | none => [])
          let s := modEngine s key fun g => { g with status := g.status ||| w.status }
          if engineOut s agent then
            modEngine s key fun g => { g with ops := { op with late := some (w.tag, pub, feet) } :: rest }
          else opEnd s cluster part e op rest w.tag pub feet

end Sys2Proof.Machine
end

