-- ==== Sys2Proof/Machine/Sync.lean ====
section
/-! DEFINITION. Ordering and synchronisation: fences, hatches, barriers, hardware queues, and the events that end blocking
waits (R52, R208–R226, R299–R304). -/

namespace Sys2Proof.Machine

/-! ### The work of a fence (R222) -/

/-- Whether a context's own stores are still on their way to their slices. -/
def storesOut (s : State) (c x : Nat) : Bool := s.stores.any (fun w => w.agent = .ctx c x)

/-- The release at a scope, once the context's earlier accesses are performed (R222): the state, and whether every write it
made is performed. On a sampler core .clu acts as .dev (R209), and there is no cluster unit to write back. -/
def releaseWork (s : State) (c x : Nat) (sc : Scope) : State × Bool :=
  if storesOut s c x then (s, false)
  else if sc = .core then (s, true)
  else
    let s := writeBackAll s c
    let s := if sc = .clu then s else cluFlush s (clusterOf c)
    (s, !s.stores.any (fun w => match w.agent with | .ctx d _ => d = c | .cache d => d = c | .unit => true | _ => false))

/-- The acquire at a scope (R222). -/
def acquireWork (s : State) (c : Nat) (sc : Scope) : State :=
  if sc = .core then s else flushAll s c

/-- A scope from its two bits. -/
def scopeOf (n : Nat) : Scope := if n = 0 then .core else if n = 1 then .clu else if n = 2 then .dev else .sys

/-- A hold removed from a context, once. -/
def dropHold (s : State) (c x : Nat) (h : Hold) : State := modCtx s c x fun k => { k with hold := k.hold.erase h }
/-- A hold added: the bundles after this one stall until it is gone. -/
def addHold (s : State) (p : Port) (h : Hold) : State := modCtx s p.core p.ctx fun k => { k with hold := k.hold ++ [h] }

/-- FENCE_COMPLETE (R222): the context's first fence does its work and ends. While a write of its own is on the way it
goes on waiting. -/
def fenceComplete (s : State) (c x : Nat) : State :=
  let k := getCtx s c x
  match k.hold.find? (fun h => match h with | .fence _ _ => true | _ => false) with
  | some (.fence kind sc) =>
    if k.works ≠ [] then s
    else
      let r := if kind = 1 then (s, true) else releaseWork s c x sc
      if ¬ r.2 then r.1
      else dropHold (if kind = 0 then r.1 else acquireWork r.1 c sc) c x (.fence kind sc)
  | _ => s

/-- A fence slot (R222): the bundles after it stall until it completes. -/
def fenceOp (kind : Nat) (g : BitVec 4) (sc : BitVec 2) : Op := fun e =>
  unitSlot g true e [] [] true fun p _ => .go { act := fun s => addHold s p (.fence kind (scopeOf sc.toNat)) }

/-- R222. -/
def opFenceRel (g : BitVec 4) (s : BitVec 2) : Op := fenceOp 0 g s
/-- R222. -/
def opFenceAcq (g : BitVec 4) (s : BitVec 2) : Op := fenceOp 1 g s
/-- R222. -/
def opFenceAr (g : BitVec 4) (s : BitVec 2) : Op := fenceOp 2 g s

/-! ### Hatches (R213–R221) -/

/-- A hatch as it stands at its slice (R213). -/
structure Hatch where
  owner : Nat
  seq : Nat
  sbase : Nat
  rbase : Nat
  rlen : Nat
  bind : Nat
  sig : Nat
  deriving DecidableEq, Repr

/-- The hatch at a physical address. -/
def readHatch (s : State) (pa : Nat) : Hatch where
  owner := readNat s.mem pa 8
  seq := readNat s.mem (pa + 8) 8
  sbase := readNat s.mem (pa + 16) 8
  rbase := readNat s.mem (pa + 24) 8
  rlen := readNat s.mem (pa + 32) 8
  bind := readNat s.mem (pa + 40) 8
  sig := readNat s.mem (pa + 64) 64

/-- The fields OWNER, SEQ, SBASE, BIND and SIG written at the slice. -/
def writeHatch (s : State) (agent : Agent) (task pa : Nat) (h : Hatch) : State :=
  let old := readHatch s pa
  let put := fun (s : State) (off n a b : Nat) => if a = b then s else sliceStore s agent task (pa + off) n b (ones n)
  let s := put s 0 8 old.owner h.owner
  let s := put s 8 8 old.seq h.seq
  let s := put s 16 8 old.sbase h.sbase
  let s := put s 40 8 old.bind h.bind
  put s 64 64 old.sig h.sig

/-- OWNER.X, SCNT and the tag. -/
def Hatch.excl (h : Hatch) : Bool := bitOf h.owner 63
def Hatch.shared (h : Hatch) : Nat := bitsOf h.owner 48 15
def Hatch.tag (h : Hatch) : Nat := h.owner % 2 ^ 48
/-- BIND's valid bit, index and generation. -/
def Hatch.bound (h : Hatch) : Bool := bitOf h.bind 63
def Hatch.index (h : Hatch) : Nat := bitsOf h.bind 48 10
def Hatch.gen (h : Hatch) : Nat := h.bind % 2 ^ 16

/-- The bindings of a partition. -/
def bindingsOf (s : State) (part : Nat) : Map Binding := match mfind s.parts part with | some p => p.bindings | none => []
/-- The binding a hatch names, if it is this hatch's (R213). -/
def bindingOf (s : State) (part pa : Nat) (h : Hatch) : Option Binding :=
  match mfind (bindingsOf s part) h.index with
  | some b => if h.bound && b.hatch = pa then some b else none
  | none => none

/-- The body of R216: the hatch's place, or a stall or fault; it needs both permissions, an ordinary page of LPDDR-6, and
stalls behind the context's own accesses to the line and behind stores on their way to it. -/
def hatchPlace (s : State) (p : Port) (e : Ext) (h : BitVec 4) (x : BitVec 6) : Checked :=
  let k := p.reads s
  match checkGlobal s k h.toNat (globalOff e k x 128) 128 true true { bound := true, uncached := true, notLpddr := true } with
  | .ok pl => if worksMeet k.works (0, pl.pa, 128) || lineBusy s (pl.pa / 128) then .stall else .ok pl
  | r => r

/-- A hatch slot. -/
def hatchSlot (g : BitVec 4) (h : BitVec 4) (x d : BitVec 6) (run : Ext → Port → State → SlotRes) : Op := fun e =>
  { memSlot g true [sReg x.toNat, .h h.toNat] [sReg d.toNat] [sReg d.toNat] true (run e) with inTurn := true }

/-- A hatch fault: VA the hatch's address, OBJ the handle. -/
def hatchTrap (pl : Place) : Trap := trapOf codeHatchState pl.va pl.z

/-- A status as a 64-bit result. -/
def statusWork (d : BitVec 6) (v : Int) : NewWork :=
  { reg := sReg d.toNat, kind := .value (BitVec.ofNat 1024 (narrow 64 v)) 0 }

/-- What a unit does as the bundle issues, and the status it gives the slot's work. -/
def statusAct (p : Port) (f : State → State × (Int ⊕ Trap)) (s : State) : State :=
  match f s with
  | (s, .inl v) => setStatus s p v
  | (s, .inr _) => s

/-- The lowest number below a limit that a map does not list. -/
def freeKey {β : Type} (m : Map β) (limit : Nat) : Option Nat := (upTo limit).find? (fun i => (mfind m i).isNone)

/-- Whether RBASE and RLEN are in rule (R213). -/
def Hatch.regionOk (h : Hatch) : Bool :=
  h.rbase % 128 = 0 && h.rbase < 2 ^ 57 && h.rlen % 128 = 0 && 128 ≤ h.rlen && h.rlen ≤ 2 ^ 24

/-- What HBIND does (R217): the state after it and its status, or the mapping fault it meets. -/
def hbindRun (s : State) (c x : Nat) (pl : Place) : State × (Int ⊕ Trap) :=
  let k := getCtx s c x
  let s := lineWriteBack s c (pl.pa / 128)
  let s := sliceFetchAll s k.task pl.pa 128
  let h := readHatch s pl.pa
  let put := fun (s : State) (h : Hatch) => writeHatch s (.ctx c x) k.task pl.pa h
  let table := bindingsOf s k.part
  if h.bound ≠ table.any (fun b => b.2.hatch = pl.pa) ∨ (h.bound = true ∧ bindingOf s k.part pl.pa h = none) then
    (s, .inr (hatchTrap pl))
  else if h.rlen = 0 then
    if ¬ h.bound then (s, .inl (-3))
    else if h.owner ≠ 0 then (s, .inl (-4))
    else
      let s := modPart s k.part fun p => { p with bindings := mdel p.bindings h.index }
      (put s { h with bind := h.bind % 2 ^ 63 }, .inl h.index)
  else if h.bound then (s, .inl (-3))
  else if ¬ h.regionOk then (s, .inl (-2))
  else
    let full : Bool := 1024 ≤ table.length
    match translate s c k.part k.task h.rbase with
    | (s, .inr code) => if full then (s, .inl (-1)) else (s, .inr (trapOf code h.rbase pl.z))
    | (s, .inl l) =>
      if 2 ^ pageBits l.size < h.rbase % 2 ^ pageBits l.size + h.rlen then (s, .inl (-2))
      else match (if full then none else freeKey table 1024) with
        | none => (s, .inl (-1))
        | some i =>
          let b : Binding := { hatch := pl.pa, va := h.rbase, pa := leafPa l h.rbase, len := h.rlen }
          let s := modPart s k.part fun p => { p with bindings := mset p.bindings i b }
          (put s { h with owner := 0, seq := 0, sbase := 0, sig := 0,
                          bind := 2 ^ 63 + i * 2 ^ 48 + (h.gen + 1) % 2 ^ 16 }, .inl i)

/-- R217: bound or unbound at the hatch's slice as the bundle issues, so that a mapping fault changes nothing. Where the
write-back of the hatch's line would be held at its slice (R229) it goes first, and the bundle stalls behind it. -/
def opHbind (g : BitVec 4) (h : BitVec 4) (x : BitVec 6) (d : BitVec 6) : Op :=
  hatchSlot g h x d fun e p s =>
    match hatchPlace s p e h x with
    | .stall => .stall
    | .fault t => .trap t
    | .ok pl =>
      if lineDirty s p.core (pl.pa / 128) && replicasOf s pl.pa ≠ [] then
        .stallAsk fun s => lineWriteBack s p.core (pl.pa / 128)
      else match hbindRun s p.core p.ctx pl with
      | (_, .inr t) => .trap t
      | (_, .inl v) => .go { works := [statusWork d v], act := statusAct p fun s => hbindRun s p.core p.ctx pl, turn := true }

/-- Whether two contexts are ranks of one gang, which wait and go on together (R292). -/
def sameGang (s : State) (c x d y : Nat) : Bool := (getCtx s c x).gang && x = y && c / 4 = d / 4

/-- A context's place in a hatch's queue: core, number, partition. It keeps it while it is halted or swapped out. -/
def requestOf (s : State) (c x : Nat) : Nat × Nat × Nat := (c, x, (getCtx s c x).part)
/-- Whether another's request stands before a context's in a hatch's queue. -/
def hatchAhead (s : State) (pa c x : Nat) : Bool :=
  let mine := requestOf s c x
  ((s.hatchq.filter (fun r => r.1 = pa)).takeWhile (fun r => r.2 ≠ mine)).any (fun r =>
    !(sameGang s c x r.2.1 r.2.2.1 && r.2.2.2 = mine.2.2))

/-- The condition of a request at the slice (R218). -/
def Hatch.grants (h : Hatch) (excl : Bool) : Bool :=
  if excl then !h.excl && h.shared = 0 else !h.excl && h.shared < 32767

/-- Whether an acquisition may be granted now: its condition holds and no request stands before it. One whose hatch is no
longer bound is no longer held back, and faults. -/
def hacqReady (s : State) (c x : Nat) (pl : Place) (excl : Bool) : Bool :=
  let h := readHatch s pl.pa
  !h.bound || (h.grants excl && !hatchAhead s pl.pa c x)

/-- The grant of an acquisition at its hatch (R218), and for an exclusive one the core's holding (R215); the rest of its work
holds back the bundles after it. -/
def hacqTake (p : Port) (k : Ctx) (pl : Place) (excl : Bool) (s : State) : State :=
  let hh := readHatch s pl.pa
  let s := { s with hatchq := s.hatchq.filter (fun r => r ≠ (pl.pa, p.core, p.ctx, k.part)) }
  let s := sliceFetchAll s k.task pl.pa 128
  let owner := if excl then 2 ^ 63 + k.cr % 2 ^ 48 else hh.owner + 2 ^ 48
  let s := writeHatch s (.ctx p.core p.ctx) k.task pl.pa { hh with owner := owner }
  let s := match bindingOf s k.part pl.pa hh with
    | some b => if excl then modCore s p.core fun core => { core with
        holdings := core.holdings ++ [{ hatch := pl.pa, lo := b.pa, len := b.len, va := pl.va, tag := k.cr, sig := 0 }] }
      else s
    | none => s
  let s := if excl then s else modTask s k.task fun t => { t with shared := t.shared ++ [(p.core, pl.pa)] }
  addHold s p (.hatch pl excl)

/-- The slot of HACQ (R218). The grant is made as the bundle issues; what remains holds back the bundles after it. A hatch that is
not bound faults with HATCH_STATE, a case for which R213 and R218 name no fault (log entry 97); and a waiting bundle that issues
anew makes the checks anew (log entry 98). -/
def hacqOp (excl : Bool) (g : BitVec 4) (h : BitVec 4) (x : BitVec 6) (d : BitVec 6) : Op :=
  hatchSlot g h x d fun e p s =>
    let k := p.reads s
    match hatchPlace s p e h x with
    | .stall => .stall
    | .fault t => .trap t
    | .ok pl =>
      let hh := readHatch s pl.pa
      if releasing k then .stall
      else if (bindingOf s k.part pl.pa hh).isNone ∨ (hh.excl = true ∧ hh.tag = k.cr) ∨
          (excl = true ∧ 16 ≤ (getCore s p.core).holdings.length) then .trap (hatchTrap pl)
      else if hacqReady s p.core p.ctx pl excl then
        .go { works := [statusWork d hh.seq], act := hacqTake p k pl excl, turn := true }
      else .wait (.hacq pl excl) fun s =>
        if s.hatchq.contains (pl.pa, requestOf s p.core p.ctx) then s
        else { s with hatchq := s.hatchq ++ [(pl.pa, requestOf s p.core p.ctx)] }

/-- R218. -/
def opHacqX (g : BitVec 4) (h : BitVec 4) (x : BitVec 6) (d : BitVec 6) : Op := hacqOp true g h x d
/-- R218. -/
def opHacqS (g : BitVec 4) (h : BitVec 4) (x : BitVec 6) (d : BitVec 6) : Op := hacqOp false g h x d

/-- The signature bit of a line (R215). -/
def sigBit (l : Nat) : Nat := Nat.xor l (l / 512) % 512

/-- A core's record of a hatch set (R214): the oldest of 32 gives way. -/
def setRecord (s : State) (c : Nat) (r : HatchRec) : State :=
  modCore s c fun k =>
    let rest := k.hrecs.filter (fun q => q.hatch ≠ r.hatch)
    { k with hrecs := (if 32 ≤ rest.length then rest.drop 1 else rest) ++ [r] }

/-- The rest of an acquisition (R218): lines that may have changed are written back and invalidated, and the record set. -/
def hacqFinish (s : State) (c x : Nat) (pl : Place) : State :=
  let k := getCtx s c x
  let h := readHatch s pl.pa
  match bindingOf s k.part pl.pa h with
  | none => s
  | some b =>
    let known := (getCore s c).hrecs.any (fun r => r.hatch = pl.pa ∧ r.gen = h.gen ∧ h.sbase ≤ r.seq)
    let lines := (linesIn s c b.pa b.len).filter (fun l => !known || bitOf h.sig (sigBit (l - b.pa / 128)))
    let s := lines.foldl (fun s l => lineFlush s c l) s
    setRecord s c { hatch := pl.pa, gen := h.gen, seq := h.seq }

/-- A context made ready from a wait, with the other ranks of its gang (R52, R292). -/
def wakeCtx (s : State) (c x : Nat) : State :=
  (gangCores s c x).foldl (fun s r =>
    modCtx s r x fun k => if k.status = .waiting then { k with status := .ready } else k) s

/-- The pops that stand before a context's at a queue, those of contexts that are halted or swapped out among them (R304). -/
def popsBefore (q : Queue) (c x : Nat) : List (Nat × Nat) := q.waiters.takeWhile (fun w => w ≠ (c, x))
/-- Whether another's pop stands before a context's. -/
def popAhead (s : State) (q : Queue) (c x : Nat) : Bool := (popsBefore q c x).any (fun w => !sameGang s c x w.1 w.2)
/-- Whether a waiting pop can be served: nothing stands before it but pops of its own gang, and there is an entry for each of
these and for it (R292, R304). -/
def popReady (s : State) (q : Queue) (c x : Nat) : Bool :=
  !popAhead s q c x && (popsBefore q c x).length < q.items.length

/-! ### Barriers (R299, R300) -/

/-- The key of a barrier as a context of a cluster and a region names it: cluster barriers 0–15 in each cluster, device
barriers 16–31 beside the system cache. Regions with no island in common may own device barriers of one number (R282); each
has its own phase and arrivals (log entry 89). -/
def barrierKey (cluster rk b : Nat) : Nat := if b < 16 then cluster * 16 + b else 1000 + rk * 32 + b
/-- The scope of a barrier. -/
def barrierScope (b : Nat) : Scope := if b < 16 then .clu else .dev

/-- The barrier a context names, if its region owns it. -/
def barrierOf (s : State) (c : Nat) (k : Ctx) (b : Nat) : Option Barrier :=
  if b < 16 && isSampler c then none
  else
    let rk := regionKey k.part k.region
    (mfind s.barriers (barrierKey (clusterOf c) rk b)).filter (fun r => r.region = rk)

/-- R300: the arrival is performed with its release when the phase is returned. -/
def opBara (g : BitVec 4) (d : BitVec 6) (a : BitVec 6) : Op := fun e =>
  unitSlot g true e [sReg a.toNat] [sReg d.toNat] true fun p s =>
    let k := p.reads s
    let b := (readS k a.toNat).toNat % 32
    match barrierOf s p.core k b with
    | none => .trap (trapOf codeScope 0 b)
    | some _ => .go { works := [{ reg := sReg d.toNat, kind := .unit (.bara b) }] }

/-- An arrival at a barrier's home (R300): the phase before it. -/
def barrierArrive (s : State) (c rk : Nat) (b : Nat) : State × Nat :=
  let key := barrierKey (clusterOf c) rk b
  match mfind s.barriers key with
  | none => (s, 0)
  | some r =>
    let reg := getRegion s r.region
    let count := if b < 16 then reg.barc else reg.bard
    let n := r.arrivals + 1
    let r' := if n = count then { r with phase := (r.phase + 1) % 2 ^ 32, arrivals := 0 } else { r with arrivals := n }
    ({ s with barriers := mset s.barriers key r' }, r.phase)

/-- R300: a blocking wait for the phase to move, and then an acquire at the barrier's scope. -/
def opBarw (g : BitVec 4) (a : BitVec 6) (b : BitVec 6) : Op := fun e =>
  unitSlot g true e [sReg a.toNat, sReg b.toNat] [] true fun p s =>
    let k := p.reads s
    let n := (readS k a.toNat).toNat % 32
    let phase := (readS k b.toNat).toNat % 2 ^ 32
    match barrierOf s p.core k n with
    | none => .trap (trapOf codeScope 0 n)
    | some r =>
      if r.phase ≠ phase then .go { act := fun s => addHold s p (.fence 1 (barrierScope n)) }
      else .wait (.barw n phase) id

/-! ### Hardware queues (R301–R304) -/

/-- The queue an agent names: of its partition, and with it in scope. -/
def queueOf (s : State) (c : Nat) (k : Ctx) (n : Nat) : Option Queue :=
  match mfind s.queues n with
  | none => none
  | some q =>
    let inScope : Bool := match q.scope with
      | .core => !isSampler c && c = q.home
      | .clu => !isSampler c && c / 4 = q.home
      | _ => true
    if q.part = k.part && inScope then some q else none

/-- R303: the value read at issue; the push is performed with its release when the result arrives. -/
def opQpush (g : BitVec 4) (d : BitVec 6) (a : BitVec 6) (b : BitVec 6) : Op := fun e =>
  unitSlot g true e [sReg a.toNat, sReg b.toNat] [sReg d.toNat] true fun p s =>
    let k := p.reads s
    let n := (readS k a.toNat).toNat % 64
    match queueOf s p.core k n with
    | none => .trap (trapOf codeScope 0 n)
    | some _ => .go { works := [{ reg := sReg d.toNat, kind := .unit (.qpush n (readS k b.toNat).toNat) }] }

/-- A value pushed (R303): −1 when the queue is full, else the entries now held. -/
def queuePush (s : State) (n v : Nat) : State × Nat :=
  match mfind s.queues n with
  | none => (s, ones 64)
  | some q =>
    if q.cap ≤ q.items.length then (s, ones 64)
    else ({ s with queues := mset s.queues n { q with items := q.items ++ [v] } }, q.items.length + 1)

/-- The head of a queue taken. -/
def queueTake (s : State) (n : Nat) : Option (State × Nat) :=
  match mfind s.queues n with
  | some q =>
    match q.items with
    | v :: t => some ({ s with queues := mset s.queues n { q with items := t } }, v)
    | [] => none
  | none => none

/-- The entry taken as a pop issues: its waiter goes, and its work holds the entry. -/
def popIssue (p : Port) (n : Nat) (s : State) : State :=
  let drop := fun (q : Queue) => { q with waiters := q.waiters.filter (fun w => w ≠ (p.core, p.ctx)) }
  let s := match mfind s.queues n with
    | some q => { s with queues := mset s.queues n (drop q) }
    | none => s
  match queueTake s n with
  | none => s
  | some (s, v) => setWork s p (.unit (.qpop n (some v)))

/-- R304: a blocking wait while the queue is empty; the entry is taken as the bundle issues, and its register stays pending
until the acquire is done. -/
def opQpop (g : BitVec 4) (d : BitVec 6) (a : BitVec 6) : Op := fun e =>
  { unitSlot g true e [sReg a.toNat] [sReg d.toNat] true (fun p s =>
      let k := p.reads s
      let n := (readS k a.toNat).toNat % 64
      match queueOf s p.core k n with
      | none => .trap (trapOf codeScope 0 n)
      | some q =>
        if q.task then .trap (trapOf codeScope 0 n)
        else if q.items ≠ [] ∧ popAhead s q p.core p.ctx = false then
          .go { works := [{ reg := sReg d.toNat, kind := .unit (.qpop n none) }]
                act := popIssue p n
                turn := true }
        else .wait (.qpop n) fun s =>
          match mfind s.queues n with
          | some q => if q.waiters.contains (p.core, p.ctx) then s
              else { s with queues := mset s.queues n { q with waiters := q.waiters ++ [(p.core, p.ctx)] } }
          | none => s)
    with inTurn := true }

/-! ### Unit work of this file performed (R54, R57) -/

/-- Whether every access of a context before a piece of work is performed or complete (R219, R222). -/
def worksBefore (s : State) (c x id : Nat) : Bool :=
  ((getCtx s c x).works.takeWhile (fun w => w.id ≠ id)) ≠ [] || storesOut s c x

/-- The hatch after an exclusive release whose holding wrote `w` (R219). -/
def Hatch.released (h : Hatch) (w : Nat) : Hatch :=
  let many := 256 ≤ countIf (bitOf h.sig) (upTo 512)
  { h with
    sbase := if many then h.seq else h.sbase
    sig := if many then w else Nat.lor h.sig w
    seq := (h.seq + 1) % 2 ^ 64
    owner := 0 }

/-- A task's shared holding of a hatch ended: the one the core took, or else another, as releases are not matched (R219). -/
def dropShared (c pa : Nat) (t : Task) : Task :=
  { t with shared := match t.shared.find? (fun e => e = (c, pa)), t.shared.find? (fun e => e.2 = pa) with
      | some e, _ => t.shared.erase e
      | none, some e => t.shared.erase e
      | none, none => t.shared }

/-- The end of an exclusive holding of a core, once its region is written back: the hatch released at its slice with the
tracker entry's signature, or one of all ones, and the core's record (R219, R373). -/
def hatchRelease (s : State) (c : Nat) (agent : Agent) (task pa : Nat) (all : Bool := false) : State × Hatch :=
  let h := readHatch s pa
  let w := if all then ones 512 else ((getCore s c).holdings.filter (fun t => t.hatch = pa)).foldl (fun a t => Nat.lor a t.sig.toNat) 0
  let s := modCore s c fun core => { core with holdings := core.holdings.filter (fun t => t.hatch ≠ pa) }
  let h' := h.released w
  let s := writeHatch (sliceFetchAll s task pa 128) agent task pa h'
  (setRecord s c { hatch := pa, gen := h.gen, seq := h'.seq }, h')

/-- HREL performed (R219): `none` while it must wait for the context's earlier accesses, or, its region's dirty bytes being
written back, for these to be performed at their slices. -/
def hrelPerform (s : State) (c x : Nat) (id : Nat) (pl : Place) (excl : Bool) : State × Option Nat :=
  if worksBefore s c x id || lineBusy s (pl.pa / 128) then (s, none)
  else
    let k := getCtx s c x
    let h := readHatch s pl.pa
    if ¬ excl then
      let s := modTask s k.task (dropShared c pl.pa)
      (writeHatch (sliceFetchAll s k.task pl.pa 128) (.ctx c x) k.task pl.pa { h with owner := h.owner - 2 ^ 48 }, some h.seq)
    else
      let b := (bindingOf s k.part pl.pa h).map fun b => (b.pa, b.len)
      let s := match b with | some (lo, len) => writeBackRange s c lo len | none => s
      if (match b with | some (lo, len) => cacheOut s c lo len | none => false) then (s, none)
      else
        let r := hatchRelease s c (.ctx c x) k.task pl.pa
        (r.1, some r.2.seq)

/-- R219: the kind of the release is fixed, and a release of nothing faults, as the bundle issues. So does one of a hatch that is not
bound (log entry 97). -/
def opHrel (g : BitVec 4) (h : BitVec 4) (x : BitVec 6) (d : BitVec 6) : Op :=
  hatchSlot g h x d fun e p s =>
    let k := p.reads s
    match hatchPlace s p e h x with
    | .stall => .stall
    | .fault t => .trap t
    | .ok pl =>
      let hh := readHatch s pl.pa
      let go := fun (excl : Bool) => SlotRes.go { works := [{ reg := sReg d.toNat, kind := .unit (.hrel pl excl) }] }
      if (bindingOf s k.part pl.pa hh).isNone then .trap (hatchTrap pl)
      else if hh.excl then (if hh.tag = k.cr then go true else .trap (hatchTrap pl))
      else if 0 < hh.shared then go false
      else .trap (hatchTrap pl)

/-- BARA performed: its release, then the arrival (R300). -/
def baraPerform (s : State) (c x id b : Nat) : State × Option Nat :=
  if worksBefore s c x id then (s, none)
  else
    let r := releaseWork s c x (barrierScope b)
    if ¬ r.2 then (r.1, none)
    else
      let k := getCtx r.1 c x
      let q := barrierArrive r.1 c (regionKey k.part k.region) b
      (q.1, some q.2)

/-- The scope of a queue, .sys where it is gone. -/
def queueScope (s : State) (n : Nat) : Scope := match mfind s.queues n with | some q => q.scope | none => .sys

/-- QPUSH performed: its release, then the push (R226, R303). -/
def qpushPerform (s : State) (c x id n v : Nat) : State × Option Nat :=
  if worksBefore s c x id then (s, none)
  else
    let r := releaseWork s c x (queueScope s n)
    if ¬ r.2 then (r.1, none)
    else let q := queuePush r.1 n v; (q.1, some q.2)

/-- QPOP complete: the entry, after its acquire (R226, R304). -/
def qpopPerform (s : State) (c x id n : Nat) (got : Option Nat) : State × Option Nat :=
  if ((getCtx s c x).works.takeWhile (fun w => w.id ≠ id)) ≠ [] then (s, none)
  else match got with
    | some v => (acquireWork s c (queueScope s n), some v)
    | none =>
      match queueTake s n with
      | some (s, v) => (acquireWork s c (queueScope s n), some v)
      | none => (s, none)

/-! ### Waits that end (R52) -/

/-- Whether the condition a waiting context waits for holds; a DLBAR's is settled by its own events (R337). -/
def waitHolds (s : State) (c x : Nat) : Bool :=
  let k := getCtx s c x
  match k.wait with
  | none => true
  | some (.mwaitb n) => openBatches (getCore s c) k x ≤ n
  | some (.mwaitbId n) => batchDone (getCore s c) k x n
  | some (.tlwait e n) => n ≤ (getEngine s (engineKey (islandOf c) k.part e)).counter
  | some (.tagw m) => (getCore s c).tags &&& BitVec.ofNat 64 m = BitVec.ofNat 64 m
  | some (.barw b phase) => (match barrierOf s c k b with | some r => r.phase ≠ phase | none => true)
  | some (.qpop n) => (match mfind s.queues n with | some q => popReady s q c x | none => true)
  | some (.hacq pl excl) => hacqReady s c x pl excl
  | some (.dlbar _ _ _) => false
  | some (.dlbarDone _ _) => true
  | some (.idle t) => t ≤ timeNs s

/-- A waiting context whose condition holds, on every rank of a gang (R292), is ready. -/
def endWait (s : State) (c x : Nat) : State :=
  if (getCtx s c x).status = .waiting ∧ (gangCores s c x).all (fun r => waitHolds s r x) = true then wakeCtx s c x else s

/-- The wait of a context, if it is of a kind. -/
def waitIs (s : State) (c x : Nat) (f : Wait → Bool) : Bool := match (getCtx s c x).wait with | some w => f w | none => false

/-- MWAITB_SATISFIED (R172). -/
def mwaitbEnd (s : State) (c x : Nat) : State :=
  if waitIs s c x (fun w => match w with | .mwaitb _ => true | .mwaitbId _ => true | _ => false) then endWait s c x else s
/-- TAGW_SATISFIED (R244). -/
def tagwEnd (s : State) (c x : Nat) : State :=
  if waitIs s c x (fun w => match w with | .tagw _ => true | _ => false) then endWait s c x else s
/-- BARW_RELEASE (R300). -/
def barwEnd (s : State) (c x : Nat) : State :=
  if waitIs s c x (fun w => match w with | .barw _ _ => true | _ => false) then endWait s c x else s
/-- IDLE_EXPIRY (R382). -/
def idleEnd (s : State) (c x : Nat) : State :=
  if waitIs s c x (fun w => match w with | .idle _ => true | _ => false) then endWait s c x else s

/-- TLWAIT_COMPLETE (R245): the wait ends; or, after the bundle has issued, the line cache is brought up to date and later
bundles may issue. -/
def tlwaitEnd (s : State) (c x : Nat) : State :=
  match (getCtx s c x).hold.find? (fun h => match h with | .tlwait _ _ => true | _ => false) with
  | some (.tlwait e n) => dropHold (timelineAcquire s c x e n) c x (.tlwait e n)
  | _ => if waitIs s c x (fun w => match w with | .tlwait _ _ => true | _ => false) then endWait s c x else s

/-- QPOP_GRANT (R304): the pop that stands first at a queue is served, if its context is there to take the entry. -/
def qpopGrant (s : State) (n : Nat) : State :=
  match mfind s.queues n with
  | none => s
  | some q =>
    match q.waiters.head? with
    | some w => if waitIs s w.1 w.2 (fun v => v = .qpop n) then endWait s w.1 w.2 else s
    | none => s

/-- The contexts whose acquisition of a hatch has been granted and is not finished. -/
def hatchHolds (s : State) (pa : Nat) : List (Nat × Hold) :=
  s.ctxs.filterMap fun e =>
    (e.2.hold.find? (fun h => match h with | .hatch pl _ => pl.pa = pa | _ => false)).map (fun h => (e.1, h))

/-- HACQ_GRANT (R218): the first request at a hatch is granted when its condition holds, and its context is there to go on;
granted acquisitions do the rest of their work. -/
def hacqGrant (s : State) (pa : Nat) : State :=
  let s := (hatchHolds s pa).foldl (fun s e =>
    match e.2 with
    | .hatch pl _ => dropHold (hacqFinish s (e.1 / 8) (e.1 % 8) pl) (e.1 / 8) (e.1 % 8) e.2
    | _ => s) s
  match (s.hatchq.filter (fun r => r.1 = pa)).find? (fun r =>
      r.2 = requestOf s r.2.1 r.2.2.1 && waitHolds s r.2.1 r.2.2.1 &&
      waitIs s r.2.1 r.2.2.1 (fun w => match w with | .hacq p _ => p.pa = pa | _ => false)) with
  | some r => endWait s r.2.1 r.2.2.1
  | none => s

end Sys2Proof.Machine
end

