-- ==== Sys2Proof/Machine/Watch.lean ====
section
/-! DEFINITION. Peephole entries (R253–R265): installation, re-arming, status, dropping, and the placing and offering of the
tasks their triggers make. -/

namespace Sys2Proof.Machine

/-- The 8-byte words a unit reads at the slices: what stands behind the MMIO aperture is the host's. -/
def unitWords (s : State) (task pa n : Nat) : State × List Nat :=
  if isMmio pa then ({ s with free := s.free + n }, (upTo n).map (fun i => (Config.mmioRead (s.free + i)).toNat % 2 ^ 64))
  else
    let s := sliceFetchAll s task pa (8 * n)
    (s, (upTo n).map (fun i => readNat s.mem (pa + 8 * i) 8))

/-- A descriptor's address: the offset in units of 64 bytes, read permission (R263). -/
def descPlace (s : State) (p : Port) (e : Ext) (h : BitVec 4) (x : BitVec 6) : Checked :=
  let k := p.reads s
  match checkGlobal s k h.toNat (globalOff e k x 64) 64 true false {} with
  | .ok pl => if worksMeet k.works (0, pl.pa, 64) || storesMeet s p.core pl.pa 64 then .stall else .ok pl
  | r => r

/-! ### Entries -/

/-- The entry a context names: of its own partition. -/
def peepOf (s : State) (part e : Nat) : Option Peep :=
  match mfind s.peeps e with
  | some p => if p.part = part then some p else none
  | none => none

/-- The status word of an entry (R264). -/
def peepStatus (p : Peep) : Nat :=
  2 ^ 63 + natOf p.armed * 2 ^ 62 + natOf p.run * 2 ^ 61 + natOf p.pend.isSome * 2 ^ 60
    + (match p.pend with | some t => t.count | none => 0) % 2 ^ 16 * 2 ^ 32 + p.steepn % 2 ^ 17

/-- The fields of a descriptor in rule (R254). -/
def peepFieldsOk (w : List Nat) : Bool :=
  let f := fun i => wordAt w i
  f 0 < 2 ^ 57 && f 0 % 64 = 0 && f 1 % 64 = 0 && 64 ≤ f 1 && f 1 ≤ 2 ^ 24 &&
  f 2 < 2 ^ 57 && f 2 % 128 = 0 && f 3 % 128 = 0 && f 3 ≤ 2 ^ 24 &&
  f 4 % 64 = 0 && f 5 % 64 = 0 &&
  bitsOf (f 6) 12 20 = 0 && bitsOf (f 6) 0 8 = 0 && bitsOf (f 6) 8 4 ≤ 8 && f 7 = 0

/-- PWATCH.I (R263): the state after it and its result, or the mapping fault it meets. -/
def pwatchRun (s : State) (c x : Nat) (pl : Place) : State × (Int ⊕ Trap) :=
  let k := getCtx s c x
  let tr := fun (s : State) (va len : Nat) => translateRange s c k.part k.task (va % 2 ^ 57) len 140
  let fault := fun (f : Nat × Nat) => trapOf f.1 f.2 pl.z
  let (s, w) := unitWords s k.task pl.pa 8
  let ringl := bitsOf (wordAt w 6) 8 4
  let ringLen := 64 * 2 ^ ringl
  if ¬ peepFieldsOk w then (s, .inl (-2))
  else match tr s (wordAt w 0) (wordAt w 1) with
  | (s, .inr f) => (s, .inr (fault f))
  | (s, .inl range) =>
  match tr s (wordAt w 2) (wordAt w 3) with
  | (s, .inr f) => (s, .inr (fault f))
  | (s, .inl payload) =>
  match translate s c k.part k.task (wordAt w 4 % 2 ^ 57) with
  | (s, .inr e) => (s, .inr (fault (e, wordAt w 4 % 2 ^ 57)))
  | (s, .inl crt) =>
  match translate s c k.part k.task (wordAt w 5 % 2 ^ 57) with
  | (s, .inr e) => (s, .inr (fault (e, wordAt w 5 % 2 ^ 57)))
  | (s, .inl ring) =>
    let crPa := leafPa crt (wordAt w 4 % 2 ^ 57)
    let ringVa := wordAt w 5 % 2 ^ 57
    let (s, cr) := unitWords s k.task crPa 8
    let region := wordAt cr 1 % 2 ^ 12
    let quota := match mfind s.parts k.part with | some p => p.peeps | none => 0
    let used := countIf (fun (e : Nat × Peep) => e.1 < 256 && e.2.part = k.part) s.peeps
    if 2 ^ pageBits ring.size < ringVa % 2 ^ pageBits ring.size + ringLen then (s, .inl (-2))
    else if (mfind s.regions (regionKey k.part region)).isNone then (s, .inl (-2))
    else if range.any (fun g => !g.2.watched) then (s, .inl (-3))
    else match (if quota ≤ used then none else freeKey s.peeps 256) with
    | none => (s, .inl (-1))
    | some i =>
      let limit := bitsOf (wordAt w 6) 48 16
      let p : Peep := {
        part := k.part, region := region, armed := true, run := false
        range := range.map (fun g => g.1), payload := payload.map (fun g => g.1)
        crt := crPa, ring := leafPa ring ringVa, ringVa := ringVa, ringl := ringl
        limit := if limit = 0 then 4096 else limit
        cwin := bitsOf (wordAt w 6) 32 16, steepn := 0, next := 0, pend := none }
      ({ s with peeps := mset s.peeps i p }, .inl i)

/-- R263: installed as the bundle issues, so that a mapping fault changes nothing. -/
def opPwatchI (g : BitVec 4) (d : BitVec 6) (h : BitVec 4) (x : BitVec 6) : Op := fun e =>
  { memSlot g true [sReg x.toNat, .h h.toNat] [sReg d.toNat] [sReg d.toNat] true (fun p s =>
      match descPlace s p e h x with
      | .stall => .stall
      | .fault t => .trap t
      | .ok pl =>
        match pwatchRun s p.core p.ctx pl with
        | (_, .inr t) => .trap t
        | (_, .inl v) => .go {
            works := [statusWork d v], act := statusAct p fun s => pwatchRun s p.core p.ctx pl, turn := true })
    with inTurn := true }

/-- A PWATCH or PDROP that names an entry: its unit work. -/
def peepSlot (u : Nat → UnitOp) (g : BitVec 4) (d : BitVec 6) (x : BitVec 6) : Op := fun e =>
  unitSlot g true e [sReg x.toNat] [sReg d.toNat] true fun p s =>
    .go { works := [{ reg := sReg d.toNat, kind := .unit (u (readS (p.reads s) x.toNat).toNat) }] }

/-- R264: re-arm, with a new limit in s[x] bits 47:32. -/
def opPwatchR (g : BitVec 4) (d : BitVec 6) (x : BitVec 6) : Op :=
  peepSlot (fun v => .pwatchR (v % 256) (bitsOf v 32 16)) g d x
/-- R264: the status word. -/
def opPwatchQ (g : BitVec 4) (d : BitVec 6) (x : BitVec 6) : Op := peepSlot (fun v => .pwatchQ (v % 256)) g d x
/-- R265. -/
def opPdrop (g : BitVec 4) (d : BitVec 6) (x : BitVec 6) : Op := peepSlot (fun v => .pdrop (v % 256)) g d x

/-- PWATCH.R performed: the status word as it stood (R264). -/
def rearm (s : State) (part e limit : Nat) : State × Nat :=
  match peepOf s part e with
  | none => (s, ones 64)
  | some p =>
    ({ s with peeps := mset s.peeps e { p with
        armed := true, run := false, steepn := 0, limit := if limit = 0 then p.limit else limit } }, peepStatus p)
/-- PWATCH.Q performed. -/
def peepQuery (s : State) (part e : Nat) : Nat := match peepOf s part e with | some p => peepStatus p | none => ones 64
/-- The number under which a freed entry is kept for its undispatched task (R265). -/
def keptKey (s : State) (e : Nat) : Nat := ((s.peeps.map (fun p => p.1 / 256)).foldl max 0 + 1) * 256 + e % 256
/-- PDROP performed (R265): a held task goes with the entry; one that stands in its slot runs, with the triggers folded so far
and the ranges it must see (R260). -/
def peepDrop (s : State) (part e : Nat) : State × Nat :=
  match peepOf s part e with
  | none => (s, ones 64)
  | some p =>
    let out := { s with peeps := mdel s.peeps e }
    let s := if p.pend.any (fun t => t.slot.isSome) then
        let n := keptKey s e
        { out with
          peeps := mset out.peeps n { p with armed := false }
          tasks := s.tasks.map (fun t => (t.1, if t.2.peep = some e then { t.2 with peep := some n } else t.2)) }
      else out
    (s, peepStatus p)

/-! ### Placing and offering (R257, R258) -/

/-- The arguments s5 and s6 of a peephole task. -/
def peepArgs (e : Nat) (t : PeepTask) : Nat × Nat :=
  (t.va, t.count % 2 ^ 16 + e % 256 * 2 ^ 16 + natOf t.host * 2 ^ 24 + natOf t.win * 2 ^ 25)

/-- When an entry's placed task that is not yet offered is to be offered, in ns (R258). -/
def offerAt (p : Peep) : Option Nat :=
  match p.pend with
  | some t => if t.slot.isSome && !t.offered then some (t.first + p.cwin * 64) else none
  | none => none

/-- Placed tasks of an entry's number whose window of CWIN × 64 ns has passed are offered for dispatch (R258). -/
def peepOffer (s : State) (e : Nat) : State :=
  { s with peeps := s.peeps.map (fun p =>
      if p.1 % 256 = e ∧ (offerAt p.2).any (fun t => decide (t ≤ timeNs s)) = true
      then (p.1, { p.2 with pend := p.2.pend.map (fun t => { t with offered := true }) }) else p) }

/-- Whether a task may be dispatched as far as CWIN goes (R258). -/
def peepOffered (s : State) (e : Option Nat) : Bool :=
  match e with
  | none => true
  | some n => match mfind s.peeps n with
    | some { pend := some t, .. } => t.offered
    | _ => true

/-- PEEPHOLE_HELD_PLACE (R257): a held task takes the next slot of its ring once that slot is free: the template, with the
arguments in bytes 48 to 63; and the slot's address is pushed onto the task queue of its region. While that queue is full the
task stays held (log entry 39). -/
def peepPlace (s : State) (e : Nat) : State :=
  match mfind s.peeps e with
  | none => s
  | some p =>
    match p.pend with
    | some t =>
      if t.slot.isSome then s
      else
        let at_ := p.ring + 64 * p.next
        let st := bitsOf (readNat s.mem (at_ + 8) 8) 40 4
        let q := (getRegion s (regionKey p.part p.region)).tq
        let room := match mfind s.queues q with | some u => decide (u.items.length < u.cap) | none => false
        if (st ≠ 0 ∧ st ≠ 4) ∨ room = false then s
        else
          let a := peepArgs e t
          let (s, cr) := sliceRead s (forPart p.part) p.crt 48
          let s := sliceStore s .unit 0 at_ 64 (cr + a.1 * 2 ^ 384 + a.2 * 2 ^ 448) (ones 64)
          match mfind s.peeps e with
          | none => s
          | some p =>
            let s := { s with peeps := mset s.peeps e { p with
              next := (p.next + 1) % 2 ^ p.ringl, pend := p.pend.map (fun u => { u with slot := some p.next }) } }
            peepOffer (queuePush s q (p.ringVa + 64 * p.next)).1 e
    | none => s

/-- The entry whose pushed task stands at an address and is not yet popped. -/
def peepAt (s : State) (part va : Nat) : Option (Nat × Peep) :=
  s.peeps.find? (fun e => e.2.part = part &&
    (match e.2.pend with | some t => t.slot.any (fun n => e.2.ringVa + 64 * n = va) | none => false) &&
    !s.tasks.any (fun t => t.2.peep = some e.1))

/-- An entry whose task is no longer undispatched: clear for new triggers, or gone if it was freed (R258, R265). -/
def peepClear (s : State) (e : Nat) : State :=
  match mfind s.peeps e with
  | none => s
  | some p => { s with peeps := if 256 ≤ e then mdel s.peeps e else mset s.peeps e { p with pend := none } }

/-- The claim of an entry's task (R258): its arguments as folded are written to its slot, and the entry is clear for new
triggers; the ranges the task must see (R260) are returned. -/
def peepClaim (s : State) (e : Nat) : State × List (Nat × Nat) :=
  match mfind s.peeps e with
  | none => (s, [])
  | some p =>
    match p.pend with
    | some t =>
      let a := peepArgs e t
      let n := t.slot.getD 0
      let s := peepClear s e
      (sliceStore s .unit 0 (p.ring + 64 * n + 48) 16 (a.1 + a.2 * 2 ^ 64) (ones 16),
        p.payload.map (fun g => (g.pa, g.len)) ++ t.lines.map (fun l => (l * 128, 128)))
    | none => (s, [])

end Sys2Proof.Machine
end

