-- ==== Sys2Proof/Machine/Window.lean ====
section
/-! DEFINITION. The window unit (R266–R276): opening, positions, page allocation, commit and abort. -/

namespace Sys2Proof.Machine

/-- The state with a window changed. -/
def modWindow (s : State) (w : Nat) (f : Window → Window) : State := { s with windows := mset s.windows w (f (getWindow s w)) }

/-- The window a register names, if it is open in the context's partition. -/
def windowNamed (s : State) (k : Ctx) (v : Nat) : Option Nat :=
  if v ≤ 15 ∧ windowOpen s k.part v = true ∧ (getWindow s v).closing = false then some v else none

/-- WINDOW_STATE, its OBJ the window. -/
def windowTrap (v : Nat) : Trap := trapOf codeWindowState 0 (v % 16)

/-! ### WOPEN (R267) -/

/-- The fields of a descriptor in rule. -/
def windowFieldsOk (w : List Nat) : Bool :=
  let f := fun i => wordAt w i
  f 0 < 2 ^ 57 && f 0 % 128 = 0 && f 1 % 128 = 0 && f 1 ≤ 65536 && f 3 ≤ 64 && 1 ≤ f 4 && f 4 ≤ 131072 &&
  f 5 = 0 && f 6 = 0 && f 7 = 0

/-- The words of a virtual range that may cross pages: 8 bytes at each of `n` addresses. -/
def wordsAt (s : State) (c part task : Nat) : List Nat → State × (List Nat ⊕ (Nat × Nat))
  | [] => (s, .inl [])
  | va :: t =>
    match translate s c part task va with
    | (s, .inr e) => (s, .inr (e, va))
    | (s, .inl l) =>
      let (s, w) := unitWords s task (leafPa l va) 1
      match wordsAt s c part task t with
      | (s, .inl ws) => (s, .inl (wordAt w 0 :: ws))
      | r => r

/-- WOPEN (R267): the state after it and its result, or the fault of the page list's translation. -/
def wopenRun (s : State) (c x : Nat) (pl : Place) : State × (Int ⊕ Trap) :=
  let k := getCtx s c x
  let (s, w) := unitWords s k.task pl.pa 8
  if ¬ windowFieldsOk w then (s, .inl (-2))
  else match wordsAt s c k.part k.task ((upTo (wordAt w 3)).map (fun i => (wordAt w 2 + 8 * i) % 2 ^ 57)) with
  | (s, .inr f) => (s, .inr (trapOf f.1 f.2 pl.z))
  | (s, .inl pages) =>
    let mine := s.windows.filter (fun e => e.2.opened && e.2.part = k.part)
    let share := match mfind s.parts k.part with | some p => (p.windows, p.overlay) | none => (0, 0)
    if pages.any (fun p => p % 2 ^ 17 ≠ 0) then (s, .inl (-2))
    else match (if share.1 ≤ mine.length then none else (upTo 16).find? (fun i => !(getWindow s i).opened)) with
    | none => (s, .inl (-1))
    | some i =>
      if share.2 < nsum (mine.map (fun e => e.2.ovl)) + wordAt w 4 then (s, .inl (-3))
      else (modWindow s i fun old => {
        opened := true, part := k.part, count := (old.count + 1) % 256, rsbase := wordAt w 0, rslen := wordAt w 1
        pages := pages, ovl := wordAt w 4 }, .inl i)

/-- R267: opened as the bundle issues. -/
def opWopen (g : BitVec 4) (d : BitVec 6) (h : BitVec 4) (x : BitVec 6) : Op := fun e =>
  { memSlot g true [sReg x.toNat, .h h.toNat] [sReg d.toNat] [sReg d.toNat] true (fun p s =>
      match descPlace s p e h x with
      | .stall => .stall
      | .fault t => .trap t
      | .ok pl =>
        match wopenRun s p.core p.ctx pl with
        | (_, .inr t) => .trap t
        | (_, .inl v) => .go {
            works := [statusWork d v], act := statusAct p fun s => wopenRun s p.core p.ctx pl, turn := true })
    with inTurn := true }

/-! ### Positions and pages (R268, R272) -/

/-- A class D slot: it uses the system resource, with a scalar guard and no header extension. -/
def sysSlot (g : BitVec 4) (ok : Bool) (e : Ext) (reads writes var : List Reg) (sampler : Bool)
    (run : Port → State → SlotRes) : SlotInfo where
  legal := ok
  extLegal := e.x == 0
  res := .system
  guard := .scalar g.toNat
  reads := reads
  writes := writes
  varWrites := var
  sampler := sampler
  run := run

/-- R268. -/
def opWpos (g : BitVec 4) (a b c : BitVec 6) : Op := fun e =>
  sysSlot g true e [sReg a.toNat, sReg b.toNat, sReg c.toNat] [] [] true fun p s =>
    let k := p.reads s
    let v := (readS k a.toNat).toNat
    let pos := (readS k b.toNat).toNat
    let par := (readS k c.toNat).toNat
    match windowNamed s k v with
    | none => .trap (windowTrap v)
    | some w =>
      if 63 < pos ∨ ¬ (par = 64 ∨ par < pos) then .trap (windowTrap v)
      else if committing k w then .stall
      else
        let act := fun (s : State) =>
          modCtx (modWindow s w fun win => { win with parents := mput win.parents pos par 64 }) p.core p.ctx
            fun k => { k with curw := some w, curp := pos }
        .go { act := act }

/-- WALLOC at the window (R272): the page and the state after. -/
def wallocRun (s : State) (w pos : Nat) : State × Nat :=
  match (getWindow s w).pages with
  | [] => (s, 0)
  | a :: t => (modWindow s w fun win => { win with pages := t, taken := win.taken ++ [(a, pos)] }, a)

/-- R272; the ranks of a gang take their pages one after the other. -/
def opWalloc (g : BitVec 4) (d : BitVec 6) (a : BitVec 6) : Op := fun e =>
  { sysSlot g true e [sReg a.toNat] [sReg d.toNat] [sReg d.toNat] true (fun p s =>
    let k := p.reads s
    let v := (readS k a.toNat).toNat
    match windowNamed s k v with
    | none => .trap (windowTrap v)
    | some w =>
      if k.curw ≠ some w then .trap (windowTrap v)
      else if committing k w then .stall
      else
        let r := wallocRun s w k.curp
        .go { works := [statusWork d r.2], act := fun s => (wallocRun s w k.curp).1, turn := true })
    with inTurn := true }

/-! ### Commit and abort (R273–R275) -/

/-- Every position emptied: writes discarded, parents ROOT, and the pages taken by positions outside `keep` back at the front
of the list in the order they stood. -/
def emptyWindow (w : Window) (keep : Nat → Bool) : Window :=
  { w with
    overlay := [], parents := []
    pages := (w.taken.filter (fun t => !keep t.2)).map (fun t => t.1) ++ w.pages
    taken := [] }

/-- The number of ancestors of a position. -/
def depthOf (w : Window) (p : Nat) : Nat := (chainOf w p 64).length
/-- The member with the most ancestors, ties to the lower number. -/
def deepest (w : Window) : List Nat → Option Nat
  | [] => none
  | p :: t => match deepest w t with
    | some q => if depthOf w p < depthOf w q then some q else some p
    | none => some p

/-- The value a commit gives a byte of a line, if it writes it (R273): in the recurrent-state region the version of the
deepest kept position, elsewhere the write of the highest kept one. -/
def commitByte (w : Window) (keep chain : List Nat) (line i : Nat) : Option Nat :=
  let at_ := fun (rs : Bool) (p : Nat) => match mfind w.overlay (ovlKey line p) with
    | some o => if o.mask.getLsbD i && o.rs.getLsbD i == rs then some (elem 8 o.val.toNat i) else none
    | none => none
  match chain.findSome? (at_ true) with
  | some b => some b
  | none => keep.reverse.findSome? (at_ false)

/-- The lines of an overlay. -/
def overlayLines (w : Window) : List Nat := (w.overlay.map (fun e => e.1 / 64)).eraseDups

/-- A line's committed bytes: value and mask. -/
def commitLine (w : Window) (keep chain : List Nat) (line : Nat) : Nat × Nat :=
  (upTo 128).foldl (fun a i => match commitByte w keep chain line i with
    | some b => (a.1 + b * 2 ^ (8 * i), a.2 + 2 ^ i)
    | none => a) (0, 0)

/-- A commit performed (R273, R274): the issuing core's lines written back and invalidated, every replica of their pages
given up (R229), every byte performed at one point, then the triggers, each entry once; the window emptied. −2 and no change where a kept position's parent is not
kept. -/
def commitWindow (s : State) (c task w mask : Nat) : State × Int :=
  let win := getWindow s w
  let keep := (upTo 64).filter (bitOf mask)
  if keep.any (fun p => parentOf win p < 64 && !bitOf mask (parentOf win p)) then (s, -2)
  else
    let chain := match deepest win keep with | some d => chainOf win d 64 | none => []
    let lines := (overlayLines win).map (fun l => (l, commitLine win keep chain l))
    let lines := lines.filter (fun l => l.2.2 ≠ 0)
    let s := { s with replicas := s.replicas.filter (fun r => !lines.any (fun l => l.1 / 1024 = r.2)) }
    let s := lines.foldl (fun s l => lineFlush s c l.1) s
    let old := s.mem
    let s := lines.foldl (fun s l => slicePut s task (l.1 * 128) 128 l.2.1 l.2.2) s
    let words := lines.flatMap (fun l => changedWords old s.mem (l.1 * 128) 128)
    let s := triggerAll s words (lines.map (fun l => l.1)) false true
    (modWindow s w fun win => emptyWindow win (bitOf mask), keep.length)

/-- R273: performed at its WINDOW_COMMIT_POINT. -/
def opWcommit (g : BitVec 4) (d a b : BitVec 6) : Op := fun e =>
  unitSlot g true e [sReg a.toNat, sReg b.toNat] [sReg d.toNat] true fun p s =>
    let k := p.reads s
    let v := (readS k a.toNat).toNat
    match windowNamed s k v with
    | none => .trap (windowTrap v)
    | some w =>
      if committing k w then .stall
      else .go { works := [{ reg := sReg d.toNat, kind := .unit (.wcommit w (readS k b.toNat).toNat) }] }

/-- Whether a commit must wait for the context's earlier stores into the window (R273) and its earlier ordinary stores to the
lines it writes (R274), or for a store of its core, or to such a line, held at a slice (R229). -/
def commitWaits (s : State) (c x id w : Nat) : Bool :=
  let before := (getCtx s c x).works.takeWhile (fun u => u.id ≠ id)
  before.any (intoWindow w) || (overlayLines (getWindow s w)).any (fun l =>
    s.stores.any (fun u => u.pa / 128 = l || (match u.agent with | .ctx d _ => d = c | .cache d => d = c | _ => false)) ||
      worksMeet before (0, l * 128, 128))

/-- An abort of either kind (R275): every write discarded, every page back, every parent ROOT. -/
def abortWindow (s : State) (w : Nat) : State := modWindow s w fun win => emptyWindow win (fun _ => false)

/-- A WABORT slot: it waits for the context's earlier commits of the window and its stores into it (R275). -/
def wabortOp (close : Bool) (g : BitVec 4) (a : BitVec 6) : Op := fun e =>
  unitSlot g true e [sReg a.toNat] [] true fun p s =>
    let k := p.reads s
    let v := (readS k a.toNat).toNat
    match windowNamed s k v with
    | none => .trap (windowTrap v)
    | some w =>
      if committing k w || k.works.any (intoWindow w) then .stall
      else .go { act := fun s => modWindow (abortWindow s w) w fun win => { win with closing := close } }

/-- R275: the window stays open. -/
def opWabortK (g : BitVec 4) (a : BitVec 6) : Op := wabortOp false g a
/-- R275: the window closes once every handle bound to it is empty. -/
def opWabortF (g : BitVec 4) (a : BitVec 6) : Op := wabortOp true g a

/-- Whether a handle is bound to a window. -/
def boundTo (w : Nat) (h : Handle) : Bool := 2 ^ 12 ≤ h.bind.toNat && bindWindow h.bind.toNat = w
/-- The handles of a context that meet a test made empty, with a new generation (R187). -/
def emptyHandles (f : Handle → Bool) (k : Ctx) : Ctx :=
  { k with h := k.h.map (fun e => if f e.2 then (e.1, emptyHandle e.2) else e) }

/-- WINDOW_CLOSE_COMPLETE (R275): once no access through a bound handle is in progress, every handle of the partition bound
to the window, in cores and shadow stores, is emptied, and the window closes and gives up its lines. -/
def windowClose (s : State) (w : Nat) : State :=
  let win := getWindow s w
  let mine := fun (k : Ctx) => k.part = win.part
  let uses := fun (k : Ctx) => mine k && k.works.any (fun u => intoWindow w u ||
    match u.kind with | .gload p _ => p.bind ≠ 0 && bindWindow p.bind = w | .unit (.wcommit v _) => v = w | _ => false)
  let busy := s.ctxs.any (fun e => uses e.2) ||
    s.cores.any (fun e => match e.2.shadow with | some sh => sh.ctxs.any (fun x => uses x.2) | none => false)
  if ¬ win.opened ∨ ¬ win.closing ∨ busy = true then s
  else
    let clean := fun (k : Ctx) => if mine k then emptyHandles (boundTo w) k else k
    let s := { s with
      ctxs := s.ctxs.map (fun e => (e.1, clean e.2))
      cores := s.cores.map (fun e => (e.1, { e.2 with shadow := e.2.shadow.map (fun sh =>
        { sh with ctxs := sh.ctxs.map (fun x => (x.1, clean x.2)) }) })) }
    modWindow s w fun win => { count := win.count }

/-- WINDOW_STORE_ACCEPT (R269): the unit accepts the store a stalled bundle holds out, which then issues. -/
def windowAccept (s : State) (c x : Nat) : State :=
  let k := getCtx s c x
  if k.wreq then modCtx s c x fun k => { k with wreq := false, wack := true } else s

end Sys2Proof.Machine
end

