-- ==== Sys2Proof/Machine/Report.lean ====
section
/-! DEFINITION. What the module tells the host: the event ring and MSI-X (R366, R400). -/

namespace Sys2Proof.Machine

/-- A trap record as the host may see it: of a confidential partition, only CODE and ID (R366). -/
def hostRecord (s : State) (part : Nat) (r : List Nat) : List Nat :=
  if domainOf s part = 0 then r else [wordAt r 0 % 256, 0, 0, 0, 0, wordAt r 5, 0, 0]

/-- An MSI-X vector raised. -/
def raiseMsix (s : State) (v : Nat) : State := { s with control := { s.control with msix := s.control.msix ++ [v] } }

/-- The events the ring holds room for, none while it is disabled. EVHEAD and EVTAIL count events. -/
def eventRoom (c : Control) : Nat :=
  if bitOf c.evctl 8 then 2 ^ min 12 (c.evctl % 32) - (c.evhead - c.evtail) else 0

/-- One event written at EVHEAD in host memory, with its interrupt. -/
def writeEvent (s : State) (ws : List Nat) : State :=
  let c := s.control
  let at_ := 2 ^ 46 + (c.evbase + c.evhead % 2 ^ min 12 (c.evctl % 32) * 128) % 2 ^ 46
  let s := sliceStore s .control 0 at_ 128 (ofElems 64 ws) (ones 128)
  raiseMsix { s with control := { s.control with evhead := s.control.evhead + 1 } } 0

/-- Held events written while there is room. -/
def flushEvents (s : State) : (fuel : Nat) → State
  | 0 => s
  | fuel + 1 =>
    match s.control.evheld with
    | [] => s
    | e :: t =>
      if eventRoom s.control = 0 then s
      else flushEvents (writeEvent { s with control := { s.control with evheld := t } } e) fuel

/-- A list without its first entry that meets a test. -/
def dropFirst {β : Type} (f : β → Bool) : List β → List β
  | [] => []
  | x :: t => if f x then t else x :: dropFirst f t

/-- An event posted (R400): held while the ring is full, up to 256, beyond which the oldest that is not a fault request is
dropped and counted. Returns its sequence number. -/
def postEvent (s : State) (kind part : Nat) (words record : List Nat) : State × Nat :=
  let c := s.control
  let w := [kind % 256 + part % 8 * 2 ^ 8 + c.evseq % 2 ^ 32 * 2 ^ 32] ++ (words ++ List.replicate 7 0).take 7
    ++ (hostRecord s part record ++ List.replicate 8 0).take 8
  let held := c.evheld ++ [w]
  let lost : Bool := 256 < held.length
  let c := { c with
    evseq := (c.evseq + 1) % 2 ^ 32
    evheld := if lost then dropFirst (fun e => wordAt e 0 % 256 ≠ 1) held else held
    evlost := if lost then c.evlost + 1 else c.evlost }
  (flushEvents { s with control := c } 257, wordAt w 0 / 2 ^ 32)

end Sys2Proof.Machine
end

