-- ==== Sys2Proof/Machine/Sched.lean ====
section
/-! DEFINITION. Tasks and their dispatch: continuation records, energy charges, loading, eviction, retirement, selection and
the task queues (R280–R298, R311–R315). -/

namespace Sys2Proof.Machine

/-! ### Continuation records (R283, R284) -/

/-- A bit field of a word replaced. -/
def setField (w lo n v : Nat) : Nat := w - bitsOf w lo n * 2 ^ lo + v % 2 ^ n * 2 ^ lo

/-- STATE as a CR shows it. -/
def TaskState.code : TaskState → Nat
  | .queued => 1
  | .running => 2
  | .parked => 3
  | .retired => 4

/-- Whose overhead the dispatcher's accesses for a task are: the island's where it runs or last ran (R314); before it is loaded,
no island's. -/
def crPayer (t : Task) : Nat := if t.ran then afterTask t else forPart (t.region / 4096)

/-- The eight words of a task's CR, read at the slice; or those that firmware keeps. -/
def readCr (s : State) (id : Nat) : State × List Nat :=
  match mfind s.tasks id with
  | none => (s, [])
  | some t =>
    match t.own with
    | some ws => (s, ws)
    | none => let (s, v) := sliceRead s (crPayer t) t.crPa 64; (s, elems 64 v 8)

/-- A word of a task's CR written. -/
def writeCr (s : State) (id i v : Nat) : State :=
  match mfind s.tasks id with
  | none => s
  | some t =>
    match t.own with
    | some ws => modTask s id fun t => { t with own := some (setAt ws i v) }
    | none => storeAt s .unit (crPayer t) (t.crPa + 8 * i) 8 v (ones 8)

/-- STATE written, with VAR, CLASS and CORE as they stand. -/
def writeInfo (s : State) (id : Nat) (st : TaskState) : State :=
  let s := modTask s id fun t => { t with state := st }
  match mfind s.tasks id with
  | none => s
  | some t =>
    let (s, ws) := readCr s id
    let w := setField (wordAt ws 1) 40 4 st.code
    let w := setField (setField w 16 2 t.variant) 12 3 t.cls
    let w := match t.core with | some c => setField w 48 8 c | none => w
    writeCr s id 1 w

/-! ### Energy (R297, R310–R315) -/

/-- The LPDDR-6 charge of a count of lines, in nJ (R315). -/
def lpddrNj (n : Nat) : Nat := n * 3125 / 1024
/-- A task's joule counter. -/
def jouleCount (t : Task) : Nat := t.meter + lpddrNj t.lines

/-- Energy the sensors found a task to have used since they were last read (R314): a free value. -/
def meterTask (s : State) (id : Nat) : State :=
  let e := (Config.sensor s.free).toNat
  bumpFree (modTask { s with gov := { s.gov with energy := s.gov.energy + e } } id fun t => { t with meter := t.meter + e })

/-- An island's balance charged, down to its floor, or credited, up to twice its grant (R310, R311). -/
def chargeIsland (s : State) (i : Nat) (x : Int) : State :=
  modIsland s i fun isl =>
    let gc : Int := 3125 * isl.lastGrant
    let b := if 0 < x then max (isl.balance - x) (-gc) else if x = 0 then isl.balance else min (isl.balance - x) (2 * gc)
    { isl with balance := b, capLow := if b < 0 ∧ b ≤ -gc then true else if 0 ≤ b then false else isl.capLow }

/-- A region's BUDREM debited or credited, with the exhaustions a debit causes (R297). -/
def debitRegion (s : State) (rk : Nat) (x : Int) : State :=
  modRegion s rk fun r =>
    if r.budget = 0 then r
    else
      let b := r.budrem - x
      let unit : Int := 3125 * r.budget
      if 0 < x ∧ b ≤ 0 then
        let n := (-b / unit).toNat + 1
        { r with budrem := b + n * unit, eprio := min 7 (r.eprio + n), exh := min 65535 (r.exh + n), dirty := true }
      else { r with budrem := b, dirty := true }

/-- STATUS of a region (R281). -/
def regionStatus (r : Region) : Nat :=
  r.exh % 2 ^ 16 * 2 ^ 48 + natOf r.cancel * 2 ^ 39 + natOf r.pinref * 2 ^ 38 + r.eprio % 8 * 2 ^ 35
    + min r.live (ones 24)

/-- BUDREM in 1/16 BU, rounded toward −∞. -/
def budremUnits (r : Region) : Int := r.budrem / 3125

/-- BUDREM, JOULES and STATUS written back to the RCB together (R280). -/
def writeRcb (s : State) (rk : Nat) : State :=
  match mfind s.regions rk with
  | none => s
  | some r =>
    let s := modRegion s rk fun r => { r with dirty := false }
    let pay := forPart (rk / 4096)
    let s := storeAt s .unit pay (r.rcb + 0x18) 8 (narrow 64 (budremUnits r)) (ones 8)
    let s := storeAt s .unit pay (r.rcb + 0x98) 8 (r.joules % 2 ^ 64) (ones 8)
    storeAt s .unit pay (r.rcb + 0xA0) 8 (regionStatus r) (ones 8)

/-! ### What a context has left to do (R70, R71, R243) -/

/-- Whether an engine operation of a context is unfinished. -/
def engineBusy (s : State) (c x part : Nat) : Bool :=
  s.engines.any (fun e => e.2.ops.any (fun o => o.core = c && o.ctx = x && o.part = part))

/-- Whether a context has nothing pending: no results, work, walks, holds or stores on their way to a slice, no matrix work,
no engine operation. -/
def ctxQuiet (s : State) (c x : Nat) : Bool :=
  let k := getCtx s c x
  let core := getCore s c
  k.works = [] && k.flights = [] && k.snap = [] && k.hflights = [] && k.hold = [] && k.mq = [] &&
  !s.stores.any (fun w => w.agent = .ctx c x) &&
  !(match core.array.cur with | some e => e.ctx = x | none => false) &&
  !core.chains.any (fun ch => ch.ctx = chainKey k x) && !core.writes.any (fun w => w.ctx = chainKey k x) &&
  !engineBusy s c x k.part

/-- A context gone from its core: its banks are back in the pool (R71, R165). -/
def freeCtx (s : State) (c x : Nat) : State :=
  let key := chainKey (getCtx s c x) x
  let s := modCore (goneCtx s c x) c fun k => returnBanks k key
  modCore s c fun k => if k.owner = some x then { k with owner := none, last := x, owned := 0 } else k

/-- Whether another context of a context's task is occupied on its core (R70, R72). -/
def siblings (s : State) (c x : Nat) : Bool :=
  let t := (getCtx s c x).task
  (upTo 8).any (fun y => y ≠ x && occupied s c y && (getCtx s c y).task = t)

/-- Whether a context at a continuation point may be evicted (R70, R288), on every rank of a gang. -/
def evictable (s : State) (c x : Nat) : Bool :=
  (gangCores s c x).all (fun r =>
    let k := getCtx s r x
    k.cont && k.status = .ready && !k.spawned && (getCore s r).owner ≠ some x && ctxQuiet s r x && !siblings s r x)

/-! ### Retirement (R284, R289) -/

/-- The cores on which a task last ran. -/
def coresRan (s : State) (t : Task) : List Nat :=
  match t.core with
  | some c => if bitOf (getRegion s t.region).flags 0 then coresOf (c / 4) else [c]
  | none => []
/-- The cores a task last ran on. -/
def taskCores (s : State) (id : Nat) : List Nat := match mfind s.tasks id with | some t => coresRan s t | none => []
/-- The work of FENCE.REL.dev on the line caches of some cores of a cluster (R284). -/
def releaseCores (s : State) (cs : List Nat) : State :=
  match cs with
  | [] => s
  | c :: _ => cluFlush (cs.foldl writeBackAll s) (clusterOf c)
/-- Whether a write that this release sent is held at its slice (R229): RETIRED is written after it (R284). -/
def writesOut (s : State) (cs : List Nat) : Bool :=
  cs ≠ [] && s.stores.any (fun w => match w.agent with
    | .ctx d _ => cs.contains d
    | .cache d => cs.contains d
    | .unit => true
    | _ => false)
/-- The release of a task (R284). -/
def releaseTask (s : State) (id : Nat) : State := releaseCores s (taskCores s id)
/-- Whether a write of a task's release is still on its way. -/
def releaseOut (s : State) (id : Nat) : Bool := writesOut s (taskCores s id)

/-- The windows of a cancelled region's slots close once its LIVE is 0 (R343, step 5). -/
def closeCancelled (s : State) (rk : Nat) : State :=
  let r := getRegion s rk
  if r.live ≠ 0 ∨ r.toClose = [] then s
  else
    let s := r.toClose.foldl (fun s w =>
      if (getWindow s w).opened && (getWindow s w).part = rk / 4096 then
        modWindow (abortWindow s w) w fun win => { win with closing := true }
      else s) s
    modRegion s rk fun r => { r with toClose := [] }

/-- A region whose ready list is empty has a deficit of 0 everywhere (R293). -/
def clearDeficit (s : State) (rk : Nat) : State :=
  if (getRegion s rk).ready = [] then
    { s with islands := s.islands.map (fun e => (e.1, { e.2 with deficits := mdel e.2.deficits rk })) }
  else s

/-- A dispatch event is due on some islands (R293); it is served before the event that gave rise to it ends. -/
def setDue (s : State) (is : List Nat) : State := is.foldl (fun s i => modIsland s i fun isl => { isl with due := true }) s
/-- A task leaves every reservation it holds; the end of one is a dispatch event (R293, R296). -/
def endReservations (s : State) (id : Nat) : State :=
  { s with islands := s.islands.map (fun e => (e.1,
      if e.2.reserved.any (fun r => r.2 = id)
      then { e.2 with reserved := e.2.reserved.filter (fun r => r.2 ≠ id), due := true } else e.2)) }

/-- Whether a sampling job names a task: its counter and island are still asked for (R321, R333). -/
def jobsOf (s : State) (id : Nat) : Bool := s.jobs.any (fun e => e.2.any (fun j => j.task = id))
/-- Everything a task has made dirty and that is still to reach memory named for another: lines of line caches, of the system
cache and of atomic units, and stores on their way (R315). -/
def retag (s : State) (id new : Nat) : State :=
  let name := fun (n : Nat) => if n = id then new else n
  { s with
    cores := s.cores.map fun e => (e.1, { e.2 with lines := e.2.lines.map fun l => (l.1, { l.2 with task := name l.2.task }) })
    slices := s.slices.map fun e => (e.1, { e.2 with task := name e.2.task })
    cluLines := s.cluLines.map fun l => { l with task := name l.task }
    stores := s.stores.map fun w => { w with task := name w.task } }
/-- What is kept of a retired task goes; lines it left dirty are overhead of the island where it last ran (R315). -/
def forgetTask (s : State) (id : Nat) : State :=
  match mfind s.tasks id with
  | none => s
  | some t => { retag s id (afterTask t) with tasks := mdel s.tasks id }
/-- The head job of a stream ended or abandoned (R333). -/
def endJob (s : State) (n : Nat) : State :=
  let id := match mget s.jobs n [] with | j :: _ => j.task | [] => 0
  let s := { s with jobs := mset s.jobs n ((mget s.jobs n []).drop 1) }
  match mfind s.tasks id with
  | some t => if t.state = .retired ∧ jobsOf s id = false then forgetTask s id else s
  | none => s

/-- A task retires (R289): its energy is reconciled (R312) if it ever ran, its writes released, RETIRED written and LIVE
counted down. Lines that move for it from then on are overhead of the island where it last ran (R315). What its sampling jobs
still ask for is kept till the last of them ends (R321). -/
def retireTask (s : State) (id : Nat) : State :=
  let s := match mfind s.tasks id with
    | some { ran := true, .. } => meterTask s id
    | _ => s
  match mfind s.tasks id with
  | none => s
  | some t =>
    let x : Int := (jouleCount t : Int) - t.cover
    let s := if t.core.isSome then setDue (debitRegion (chargeIsland s t.island x) t.region x) [t.island] else s
    let s := match t.peep with | some e => peepClear s e | none => s
    let s := modRegion s t.region fun r => { r with joules := r.joules + jouleCount t, dirty := true }
    let s := releaseTask (retag s id (afterTask t)) id
    let s := writeInfo s id .retired
    let s := modRegion s t.region fun r => { r with live := r.live - 1, ready := r.ready.filter (· ≠ id) }
    let s := endReservations (if jobsOf s id then s else forgetTask s id) id
    closeCancelled (writeRcb (clearDeficit s t.region) t.region) t.region

/-! ### Which tasks may run where (R221, R285, R293) -/

/-- The islands a task may run on, as a mask. -/
def taskIslands (s : State) (t : Task) : Nat :=
  let r := getRegion s t.region
  if t.aff = 0 then r.islands else Nat.land r.islands t.aff
/-- The core a task that holds a hatch must resume on (R221). -/
def boundCore (s : State) (t : Task) : Option Nat :=
  if t.shared ≠ [] ∨ s.cores.any (fun c => c.2.holdings.any (fun h => h.tag = t.crPa)) = true then t.core else none
/-- Whether a task may run on an island. -/
def mayRun (s : State) (id i : Nat) : Bool :=
  match mfind s.tasks id with
  | none => false
  | some t => bitOf (taskIslands s t) i && (match boundCore s t with | some c => c / 4 = i | none => true)
/-- Whether a task is offered for dispatch (R258). -/
def offered (s : State) (id : Nat) : Bool := match mfind s.tasks id with | some t => peepOffered s t.peep | none => true
/-- The head of a region on an island: the first task of its ready list that may run there. One that is not offered yet keeps
its place, and the region has no head meanwhile (R258, R259; log entry 39). -/
def headOn (s : State) (rk i : Nat) : Option Nat := ((getRegion s rk).ready.find? (fun t => mayRun s t i)).filter (offered s)

/-- The cost of an energy class in a partition, in 1/16 BU (R312). -/
def classCost (s : State) (part cls : Nat) : Nat := match mfind s.parts part with | some p => nth p.costs cls 0 | none => 0
/-- The class of a region's variant. -/
def variantClass (r : Region) (j : Nat) : Nat := nth r.vcl j 0 % 8
/-- The variants that exist. -/
def variants (r : Region) : List Nat := (upTo 4).filter (fun j => bitOf (nth r.vcl j 0) 7)
/-- ADAPT. -/
def isAdapt (r : Region) : Bool := bitOf r.flags 3

/-- The variant a fresh task takes (R287): VAR, or for an ADAPT region the first the balance covers. -/
def pickVariant (s : State) (t : Task) (i : Nat) : Nat :=
  let r := getRegion s t.region
  if isAdapt r then
    ((variants r).find? (fun j =>
      3125 * (classCost s (t.region / 4096) (variantClass r j) : Int) ≤ (getIsland s i).balance)).getD t.variant
  else t.variant
/-- The cost a head is tested against, 0 for a resumed one (R287, R294). -/
def headCost (s : State) (t : Task) : Nat :=
  let r := getRegion s t.region
  let cost := fun j => classCost s (t.region / 4096) (variantClass r j)
  if t.cont then 0
  else if isAdapt r then (least ((variants r).map cost)).getD 0
  else cost t.variant
/-- Whether a head fits an island's balance (R295). -/
def fits (s : State) (t : Task) (i : Nat) : Bool :=
  t.cont || (0 ≤ (getIsland s i).balance && 3125 * (headCost s t : Int) ≤ (getIsland s i).balance)

/-! ### Loading and eviction (R286, R288) -/

/-- The free banks of a pool on a core. -/
def freeBanks (core : Core) (pool : Nat) : List Nat :=
  (upTo 40).filter (fun b => bitOf pool b && (mfind core.banks b).isNone)
/-- Whether a core could take a context `x` of a region now. -/
def slotFree (s : State) (r : Region) (c x : Nat) : Bool :=
  !(getCore s c).fenced && !occupied s c x && r.bper ≤ (freeBanks (getCore s c) r.pool).length
/-- The lowest context that qualifies on every core of a list. -/
def freeSlot (s : State) (r : Region) (cs : List Nat) : Option Nat :=
  (upTo 8).find? (fun x => cs.all (fun c => slotFree s r c x))

/-- TASK_EVICT (R288): the continuation is written to the task's CR, the context freed, and the task put at the tail of its
region's ready list; in a region with CANCEL the context is freed and the task retires instead of being parked. -/
def evict (s : State) (c x : Nat) : State :=
  let k := getCtx s c x
  let cs := gangCores s c x
  let rk := regionKey k.part k.region
  if (getRegion s rk).cancel then retireTask (cs.foldl (fun s r => freeCtx s r x) s) k.task
  else
    let s := modTask s k.task fun t => { t with cont := true, core := some c }
    let s := writeCr s k.task 0 (k.pc.toNat / 16 * 16 + 1)
    let s := (upTo 6).foldl (fun s i => writeCr s k.task (2 + i) (readS k (i + 1)).toNat) s
    let s := writeInfo s k.task .parked
    let s := cs.foldl (fun s r => freeCtx s r x) s
    let s := modRegion s rk fun r => { r with ready := r.ready ++ [k.task] }
    setDue s ((upTo 10).filter (bitOf (getRegion s rk).islands))

/-- A context set up on a core (R286): banks granted, zeroed, in M mode; registers; ranges the task must see brought up to
date (R260). A task made from a task-queue entry has the acquire of that queue before its first bundle (R226). -/
def placeCtx (s : State) (c x : Nat) (t : Task) (k : Ctx) : State :=
  let r := getRegion s t.region
  let s := modCore s c fun core =>
    ((freeBanks core r.pool).take r.bper).foldl (fun core b => grantBank core t.region (t.region / 4096 * 8 + x) b) core
  let s := putCtx s c x k
  let s := if t.state = .queued then acquireWork s c .dev else s
  t.flush.foldl (fun s f => flushRange s c f.1 f.2) s

/-- TASK_LOAD (R286): the claim, the debit of a fresh task's class, and the context on every core of a list. `pr` is the class
it is served at. Its joule counter starts at 0 at its first load; what the dispatcher moves for its CR is overhead of the island
(R314, R315; log entry 84). -/
def loadTask (s : State) (i pr id x : Nat) (cs : List Nat) : State :=
  match mfind s.tasks id with
  | none => s
  | some t0 =>
    let r := getRegion s t0.region
    let c := cs.headD 0
    let fresh := !t0.cont
    let cost := if fresh then classCost s (t0.region / 4096) (variantClass r (pickVariant s t0 i)) else 0
    let var := if fresh then pickVariant s t0 i else t0.variant
    let cls := if fresh then variantClass r var else t0.cls
    let nj : Int := 3125 * cost
    -- the claim
    let s := modRegion s t0.region fun r => { r with ready := r.ready.filter (· ≠ id) }
    let (s, flush) := match t0.peep with | some e => peepClaim s e | none => (s, [])
    let (s, cr) := readCr (modTask s id fun t => { t with island := i, ran := true }) id
    let s := modTask s id fun t => { t with
      lines := if t0.ran then t.lines else 0, meter := if t0.ran then t.meter else 0
      variant := var, cls := cls, core := some c, heldOn := [], peep := none, flush := t.flush ++ flush
      cover := if fresh then nj else t.cover }
    -- the debits
    let s := if fresh then debitRegion (chargeIsland s i nj) t0.region nj else s
    let empty := (getRegion s t0.region).ready = []
    let s := { s with islands := s.islands.map (fun e => (e.1, { e.2 with
      served := if e.1 = i then mset e.2.served pr t0.region else e.2.served
      deficits := if empty then mdel e.2.deficits t0.region
        else if e.1 = i then mset e.2.deficits t0.region (max (-320) (mget e.2.deficits t0.region 0 - cost))
        else e.2.deficits })) }
    let s := endReservations s id
    -- the context
    let t := mget s.tasks id t0
    let pc := if fresh then nth r.vpc var 0 else wordAt cr 0
    let k := fun c => { freshCtx s c x (t0.region / 4096) (t0.region % 4096) id t0.crPa pc ((cr.drop 2).take 6) t0.crVa with
      gang := bitOf r.flags 0 }
    let s := cs.foldl (fun s c => placeCtx s c x t (k c)) s
    writeInfo s id .running

/-- The cores a task is tried on. -/
def coresFor (s : State) (t : Task) (i : Nat) : List Nat :=
  match boundCore s t with
  | some c => [c]
  | none => coresOf i

/-- Whether a context's region has CANCEL: it is freed at its continuation point by CONTEXT_FREE (R288). -/
def ctxCancelled (s : State) (c x : Nat) : Bool := (getRegion s (regionKey (getCtx s c x).part (getCtx s c x).region)).cancel

/-- A head loaded on an island if some core qualifies, after one eviction if that is needed (R286). -/
def tryLoad (s : State) (i pr id : Nat) : Option State :=
  match mfind s.tasks id with
  | none => none
  | some t =>
    let r := getRegion s t.region
    if bitOf r.flags 0 then
      let cs := coresOf i
      match freeSlot s r cs with
      | some x => some (loadTask s i pr id x cs)
      | none =>
        (upTo 8).findSome? fun x =>
          if cs.all (fun c => !occupied s c x || evictable s c x && !ctxCancelled s c x) then
            let s' := cs.foldl (fun s c => if occupied s c x && evictable s c x then evict s c x else s) s
            (if cs.all (fun c => slotFree s' r c x) then some (loadTask s' i pr id x cs) else none)
          else none
    else
      match (coresFor s t i).findSome? (fun c => (freeSlot s r [c]).map (fun x => (c, x))) with
      | some (c, x) => some (loadTask s i pr id x [c])
      | none =>
        (coresFor s t i).findSome? fun c =>
          match (upTo 8).find? (fun x => evictable s c x && !ctxCancelled s c x && (freeSlot (evict s c x) r [c]).isSome) with
          | some x =>
            let s' := evict s c x
            (freeSlot s' r [c]).map (fun y => loadTask s' i pr id y [c])
          | none => none

/-! ### Selection (R293–R296) -/

/-- A TASK entry that makes no task, or a task that retires as one (R285, R287): the host is told. -/
def discardEvent (s : State) (part queue entry : Nat) : State := (postEvent s 3 part [queue, entry, timeNs s] []).1

/-- The time of the last steep boundary, in ns. -/
def lastBoundary (s : State) : Nat := s.gov.boundaryNs - 50000

/-- Whether an island dispatches: it and the module are powered, its partition runs, and no swap is under way. -/
def mayDispatch (s : State) (i : Nat) : Bool :=
  let isl := getIsland s i
  s.control.power = .d0 && !isl.gated && (mfind s.swaps i).isNone &&
  (match isl.cur with | some p => (match mfind s.parts p with | some q => !q.stopped | none => false) | none => false)

/-- The regions that an island's dispatcher considers, in index order. -/
def regionsFor (s : State) (i : Nat) : List Nat :=
  let p := (getIsland s i).cur.getD 8
  (s.regions.map (fun e => e.1)).filter (fun rk => rk / 4096 = p)

/-- The task that holds the reservation on an island, of those of the partition it runs (R296, R377). -/
def reservedOn (s : State) (i : Nat) : Option Nat := (getIsland s i).cur.bind (mfind (getIsland s i).reserved)

/-- A reservation begun on an island that has none (R296): of the tasks held there since 50 µs before the last boundary, the
one of the most urgent class, and of those the one held first. -/
def reserve (s : State) (i : Nat) : State :=
  match (getIsland s i).cur with
  | none => s
  | some p =>
  if (reservedOn s i).isSome then s
  else
    let heads := (regionsFor s i).filterMap (fun rk => headOn s rk i)
    let due := heads.filterMap (fun id => match mfind s.tasks id with
      | some t => (match mfind t.heldOn i with
        | some h => if h + 50000 ≤ lastBoundary s ∧ 1 ≤ s.gov.steeps then some ((getRegion s t.region).eprio * 2 ^ 64 + h, id) else none
        | none => none)
      | none => none)
    match least (due.map (fun d => d.1)) with
    | some m => match due.find? (fun d => d.1 = m) with
      | some d => modIsland s i fun isl => { isl with reserved := mset isl.reserved p d.2 }
      | none => s
    | none => s

/-- Region indices of a class in rotation, from the one after the last served. -/
def rotate (l : List Nat) (last : Option Nat) : List Nat :=
  match last with
  | some k => l.filter (fun r => k < r) ++ l.filter (fun r => ¬ k < r)
  | none => l

/-- The effective class of every region (R297). -/
def classes (s : State) : Map Nat := s.regions.map (fun e => (e.1, e.2.eprio))

/-- One selection on an island (R294): the state after one load. The task of a reservation is tried first of its class and of
the less urgent ones, the more urgent classes being considered before it (R295, R296). `cl` holds the classes as they stood
when the dispatch event began: a class lowered within it applies from the next (R297). -/
def selectOne (s : State) (cl : Map Nat) (i : Nat) : Option State :=
  let isl := getIsland s i
  let task := fun (id : Nat) => mfind s.tasks id
  let load := fun (cls id : Nat) => match task id with | some t => if fits s t i then tryLoad s i cls id else none | none => none
  let resClass := match reservedOn s i with
    | some id => (match task id with | some t => mget cl t.region 8 | none => 8)
    | none => 8
  (upTo 8).findSome? fun cls =>
    match (if cls = resClass then (reservedOn s i).bind (load cls) else none) with
    | some s => some s
    | none =>
      let rs := rotate ((regionsFor s i).filter (fun rk => mget cl rk 8 = cls)) (mfind isl.served cls)
      let heads := rs.filterMap (fun rk => (headOn s rk i).map (fun id => (rk, id)))
      let free := heads.filter (fun h => match task h.2 with
        | some t => t.cont || cls < resClass
        | none => false)
      let rich := free.filter (fun h => match task h.2 with
        | some t => (headCost s t : Int) ≤ mget isl.deficits h.1 0
        | none => false)
      match rich.findSome? (fun h => load cls h.2) with
      | some s => some s
      | none => free.findSome? (fun h => load cls h.2)

/-- A task that is head of its region retires as a discarded entry of its queue if its variant does not exist (R287, R375). -/
def dropHead (s : State) (rk i id : Nat) : State :=
  match mfind s.tasks id with
  | some t =>
    let r := getRegion s rk
    if headOn s rk i ≠ some id ∨ t.cont = true ∨ isAdapt r = true ∨ (variants r).contains t.variant = true then s
    else discardEvent (retireTask s id) (rk / 4096) t.queue t.crVa
  | none => s
/-- Every head whose variant does not exist, and any such that becomes head in its place. -/
def dropVoid (s : State) (i : Nat) : State :=
  (regionsFor s i).foldl (fun s rk => (getRegion s rk).ready.foldl (fun s id => dropHead s rk i id) s) s

/-- Heads that do not fit are held from now on (R295). -/
def holdHeads (s : State) (i : Nat) : State :=
  (regionsFor s i).foldl (fun s rk =>
    match headOn s rk i with
    | none => s
    | some id =>
      match mfind s.tasks id with
      | some t => if fits s t i || (mfind t.heldOn i).isSome then s
        else modTask s id fun t => { t with heldOn := mset t.heldOn i (timeNs s) }
      | none => s) s

/-- A dispatch event (R293, R294): tasks are selected and loaded while any class yields one. -/
def dispatchFuel (s : State) (cl : Map Nat) (i : Nat) : Nat → State
  | 0 => s
  | fuel + 1 =>
    let s := reserve (dropVoid s i) i
    match selectOne s cl i with
    | some s => dispatchFuel s cl i fuel
    | none => holdHeads s i
/-- DISPATCH_SELECT (R294). -/
def dispatchOn (s : State) (i : Nat) : State := if mayDispatch s i then dispatchFuel s (classes s) i 64 else s
/-- The dispatch events that are due, the lowest island first, and those they give rise to (R293). -/
def settle (s : State) : (fuel : Nat) → State
  | 0 => s
  | fuel + 1 =>
    match (upTo 10).find? (fun i => (getIsland s i).due) with
    | none => s
    | some i => settle (dispatchOn (modIsland s i fun isl => { isl with due := false }) i) fuel
/-- A dispatch event on an island. -/
def dispatch (s : State) (i : Nat) : State := settle (setDue s [i]) 64
/-- A dispatch event on every island of a region. -/
def dispatchRegion (s : State) (rk : Nat) : State :=
  settle (setDue s ((upTo 10).filter (bitOf (getRegion s rk).islands))) 64

/-! ### Task queues (R285) -/

/-- A task made for a region, in its ready list. -/
def addTask (s : State) (rk : Nat) (t : Task) : State × Nat :=
  let id := s.seq + 1
  let s := { s with seq := s.seq + 1, tasks := mset s.tasks id t }
  let s := modRegion s rk fun r => { r with live := r.live + 1, ready := r.ready ++ [id], dirty := true }
  (writeInfo s id .queued, id)

/-- A fresh task of a region, or one that a CR with CONT = 1 continues on the island of its CORE. -/
def newTask (rk crVa crPa : Nat) (cr : List Nat) : Task where
  crVa := crVa
  crPa := crPa
  region := rk
  state := .queued
  cont := bitOf (wordAt cr 0) 0
  variant := bitsOf (wordAt cr 1) 16 2
  cls := bitsOf (wordAt cr 1) 12 3
  aff := bitsOf (wordAt cr 1) 24 10
  core := if bitOf (wordAt cr 0) 0 then some (bitsOf (wordAt cr 1) 48 8) else none
  island := if bitOf (wordAt cr 0) 0 ∧ bitsOf (wordAt cr 1) 48 8 < 40 then bitsOf (wordAt cr 1) 48 8 / 4 else 0
  cover := 0
  meter := 0
  lines := 0
  heldOn := []
  peep := none
  flush := []
  domain := false
  kill := false
  shared := []
  own := none

/-- The tasks in a partition's ready lists. -/
def readyCount (s : State) (part : Nat) : Nat :=
  nsum ((s.regions.filter (fun e => e.1 / 4096 = part)).map (fun e => e.2.ready.length))

/-- The fault whose fault-domain task stands in a TASK queue at an address: its place, report and the task's record (R372). -/
def pushedFault (s : State) (part va : Nat) : Option (FaultItem × Nat × Nat × List Nat) :=
  s.faults.zipIdx.findSome? fun e => match e.1.stage with
    | .pushed pa at_ cr => if e.1.part = part ∧ at_ = va then some (e.1, e.2, pa, cr) else none
    | _ => none

/-- A fault-domain task made as its entry is popped (R372, R285), its record being the one that firmware keeps. One that R285
discards leaves its report as it is, to be acted on. -/
def domainTask (s : State) (n part va : Nat) (it : FaultItem) (i pa : Nat) (cr : List Nat) : State :=
  let rk := regionKey part (wordAt cr 1 % 2 ^ 12)
  let t := { newTask rk va (Config.firmwareTag s.free).toNat cr with own := some cr, domain := true, queue := n }
  let named := fun (s : State) (id : Nat) => { s with faults := setAt s.faults i { it with stage := .reported pa id } }
  if (mfind s.regions rk).isNone = true ∨ taskIslands s t = 0 then
    discardEvent { named s (s.seq + 1) with seq := s.seq + 1 } part n va
  else
    let (s, id) := addTask (bumpFree s) rk t
    if (getRegion s rk).cancel then settle (retireTask (named s id) id) 64 else dispatchRegion (named s id) rk

/-- TASK_QUEUE_POP (R285): the oldest entry makes a task of its CR's region, or is discarded; a task of a region with CANCEL
retires at once, once the release of the writes it made where it last ran is done (R284). -/
def taskPop (s : State) (n : Nat) : State :=
  match mfind s.queues n with
  | none => s
  | some q =>
    let stopped := match mfind s.parts q.part with | some p => p.stopped | none => true
    match q.items with
    | [] => s
    | va :: rest =>
      if ¬ q.task ∨ stopped = true ∨ 65536 ≤ readyCount s q.part then s
      else
        let before := s
        let s := { s with queues := mset s.queues n { q with items := rest } }
        let peep := peepAt s q.part va
        let undo := fun (s : State) => match peep with
          | some e => peepClear s e.1
          | none => s
        let drop := fun (s : State) => discardEvent (undo s) q.part n va
        match pushedFault s q.part va with
        | some (it, i, pa, cr) => domainTask s n q.part va it i pa cr
        | none =>
        if va % 64 ≠ 0 then drop s
        else match walk s q.part (forPart q.part) va with
        | (s, .inr _) => drop s
        | (s, .inl l) =>
          let pa := leafPa l va
          if ¬ isLpddr pa then drop s
          else
            let (s, v) := sliceRead s (forPart q.part) pa 64
            let cr := elems 64 v 8
            let rk := regionKey q.part (wordAt cr 1 % 2 ^ 12)
            let t := newTask rk va pa cr
            match mfind s.regions rk with
            | none => drop s
            | some r =>
              if taskIslands s t = 0 then drop s
              else if r.cancel ∧ writesOut (releaseCores before (coresRan before t)) (coresRan before t) = true then
                releaseCores before (coresRan before t)
              else
                let (s, id) := addTask s rk { t with peep := peep.map (fun e => e.1), queue := n }
                if r.cancel then settle (retireTask s id) 64 else dispatchRegion s rk

/-! ### Hatches released by firmware (R333, R373) -/

/-- The exclusive holdings of a task on some cores, as core and hatch. -/
def heldOn (s : State) (t : Task) (cs : List Nat) : List (Nat × Nat) :=
  (cs.flatMap fun c => ((getCore s c).holdings.filter (fun h => h.tag = t.crPa)).map (fun h => (c, h.hatch))).eraseDups
/-- The physical range of a hatch's region. -/
def hatchRange (s : State) (part pa : Nat) : Nat × Nat :=
  match bindingOf s part pa (readHatch s pa) with | some b => (b.pa, b.len) | none => (0, 0)

/-- A task's holdings on some cores ended as KILL does (R373): each exclusive one as an HREL whose write signature is all ones,
each shared one without publishing; or that a write-back of a region is still on its way. -/
def endHoldings (s : State) (id : Nat) (cs : List Nat) : State × Bool :=
  match mfind s.tasks id with
  | none => (s, true)
  | some t =>
    let part := t.region / 4096
    let mine := heldOn s t cs
    let some_ := t.shared.filter (fun e => cs.contains e.1)
    let s := mine.foldl (fun s e => let r := hatchRange s part e.2; writeBackRange s e.1 r.1 r.2) s
    if mine.any (fun e => let r := hatchRange s part e.2; cacheOut s e.1 r.1 r.2 || lineBusy s (e.2 / 128)) ||
        some_.any (fun e => lineBusy s (e.2 / 128)) then (s, false)
    else
      let s := some_.foldl (fun s e =>
        let h := readHatch s e.2
        writeHatch s .control id e.2 { h with owner := h.owner - 2 ^ 48 }) s
      let s := mine.foldl (fun s e => (hatchRelease s e.1 .control id e.2 true).1) s
      (modTask s id fun t => { t with shared := t.shared.filter (fun e => !cs.contains e.1) }, true)

/-! ### A context freed (R71, R288) -/

/-- Whether a task still has a context anywhere. -/
def taskRuns (s : State) (id : Nat) : Bool :=
  s.ctxs.any (fun e => e.2.task = id && e.1 < 320) ||
  s.cores.any (fun c => match c.2.shadow with | some sh => sh.ctxs.any (fun x => x.2.task = id) | none => false)

/-- CONTEXT_FREE (R71, R288): a context past END is freed once nothing of it is pending, and its task retires with its last
context; one at a continuation point is freed where its region is cancelled or its core fenced. The end of a sampling job
leaves its sampler core to the next (R333). Before a killed task retires its hatch holdings are ended (R373). -/
def contextFree (s : State) (c x : Nat) : State :=
  let k := getCtx s c x
  let rk := regionKey k.part k.region
  if k.status = .ending ∧ ctxQuiet s c x = true then
    if isSampler c then
      endJob (goneCtx (modCore s c fun k => { k with owner := none }) c x) (c - 40)
    else
      let gone := freeCtx s c x
      let last := !taskRuns gone k.task
      let kill := match mfind s.tasks k.task with | some t => t.kill | none => false
      let ended := if last && kill then endHoldings s k.task (upTo 48) else (s, true)
      let sent := releaseTask ended.1 k.task
      let gone := if last && kill then freeCtx sent c x else gone
      if ¬ ended.2 then ended.1
      else if last && releaseOut sent k.task then sent
      else
        let s := if last then retireTask gone k.task else gone
        dispatch s (islandOf c)
  else if ¬ isSampler c ∧ k.cont = true ∧ evictable s c x = true ∧
      ((getRegion s rk).cancel = true ∨ (getCore s c).fenced = true) then
    let sent := if (getRegion s rk).cancel then releaseTask s k.task else s
    if (getRegion s rk).cancel && releaseOut sent k.task then sent else dispatch (evict s c x) (islandOf c)
  else s

end Sys2Proof.Machine
end

