-- ==== Sys2Proof/Machine/Governor.lean ====
section
/-! DEFINITION. The governor (R305–R320): the steep boundary, grants, clock reductions, droops, power gating, and BUDQ, JRD and
THACK (R321–R324). -/

namespace Sys2Proof.Machine

/-! ### Grants (R305–R309) -/

/-- The limit in 1/16 W. -/
def moduleLimit (g : Governor) : Nat := let l := g.pwrlim % 2 ^ 16; if l = 0 ∨ 2400 < l then 2400 else l

/-- The thermal credit after a steep that used `e` nJ (R306), in nJ. -/
def thermalCredit (g : Governor) (e : Int) : Int × Nat :=
  let psus := g.therm % 2 ^ 16
  let qmax := (bitsOf g.therm 16 16 - psus) * bitsOf g.therm 48 16 * 62500
  (min (qmax : Int) (max 0 (g.credit + psus * 3125 - e)), qmax)

/-- The module allowance M of the coming steep in 1/16 BU (R306), the credit, and whether it is at PBURST. -/
def allowanceOf (g : Governor) (e : Int) : Nat × Int × Bool :=
  let lim := moduleLimit g
  let psus := g.therm % 2 ^ 16
  if psus = 0 then (lim, g.credit, false)
  else
    let (q, qmax) := thermalCredit g e
    let burst : Bool := 0 < q && 0 < qmax
    (min (min lim (if burst then bitsOf g.therm 16 16 else psus)) 2400, q, burst)

/-- Whether a context of a core is resident. -/
def islandHasCtx (s : State) (i : Nat) : Bool := s.ctxs.any (fun e => e.1 / 32 = i)

/-- The regions with work on an island: a context, a task in a ready list, or an unfinished engine operation of one of its
contexts (R309). -/
def regionsOn (s : State) (i : Nat) : List Nat :=
  ((s.ctxs.filter (fun e => e.1 / 32 = i)).map (fun e => regionKey e.2.part e.2.region) ++
    ((s.regions.filter (fun e => e.2.ready.any (fun t => mayRun s t i))).map (fun e => e.1)) ++
    s.engines.flatMap (fun e => (e.2.ops.filter (fun o => o.core / 4 = i)).filterMap
      (fun o => (mfind s.tasks o.task).map (fun t => t.region)))).eraseDups

/-- Whether an island is active (R309). -/
def islandActive (s : State) (i : Nat) : Bool :=
  islandHasCtx s i || s.engines.any (fun e => e.2.ops.any (fun o => o.core / 4 = i)) || regionsOn s i ≠ []

/-- The cap on an island's grant: the smallest ICAP (R308, R309). -/
def grantCap (s : State) (i : Nat) : Nat :=
  (least ((regionsOn s i).map (fun rk =>
    let c := (getRegion s rk).contract % 2 ^ 8
    if c = 0 ∨ 192 < c then 192 else c))).getD 192

/-- A share given to an island under its cap, from what is left. -/
def giveGrant (cap : Map Nat) (most : Nat) (acc : Map Nat × Nat) (i : Nat) : Map Nat × Nat :=
  let g := mget acc.1 i 0
  let give := min (min most (mget cap i 192 - g)) acc.2
  (mset acc.1 i (g + give), acc.2 - give)

/-- The real-time region of a stream (R342): of the partition that owns the stream, the root region with RT set that names it,
the lowest of several (log entry 86). -/
def rtRegion (s : State) (n : Nat) : Option Region :=
  (s.regions.find? (fun e => bitOf e.2.flags 1 && e.2.rts = n && e.2.parent = 0xFFFF &&
    (match mfind s.parts (e.1 / 4096) with | some p => bitOf p.streamMask n | none => false))).map (fun e => e.2)

/-- The real-time reservations (R309). -/
def grantRt (s : State) (active : List Nat) (cap : Map Nat) (acc : Map Nat × Nat) : Map Nat × Nat :=
  (upTo 8).foldl (fun acc n =>
    match rtRegion s n with
    | some r => (active.filter (fun i => bitOf r.islands i)).foldl
        (fun acc i => giveGrant cap (min 192 (bitsOf r.contract 8 8)) acc i) acc
    | none => acc) acc

/-- The water-fill of what is left (R309). -/
def waterFill (active : List Nat) (cap : Map Nat) (acc : Map Nat × Nat) : Nat → Map Nat × Nat
  | 0 => acc
  | fuel + 1 =>
    let opened := active.filter (fun i => mget acc.1 i 0 < mget cap i 192)
    if opened = [] ∨ acc.2 < opened.length then acc
    else
      let share := acc.2 / opened.length
      waterFill active cap (opened.foldl (fun acc i => giveGrant cap share acc i) acc) fuel

/-- Every island's grant for the coming steep (R309). -/
def grants (s : State) (active : List Nat) (a : Nat) : Map Nat :=
  let cap := active.map (fun i => (i, grantCap s i))
  (waterFill active cap (grantRt s active cap ([], a)) 100).1

/-! ### Time on the cores (R2, R172, R320, R337, R382) -/

/-- Whether the wait of a context for its matrix work is met, on every rank of a gang: it ends in the cycle in which it is
(R172), before which no core of its island goes on. -/
def batchWaitMet (s : State) (c x : Nat) : Bool :=
  let k := getCtx s c x
  k.status = .waiting && (match k.wait with | some (.mwaitb _) => true | some (.mwaitbId _) => true | _ => false) &&
  (gangCores s c x).all (fun r => waitHolds s r x)

/-- Whether a core has a cycle to run: a context holds issue or is ready, or waits for a time. -/
def coreActive (s : State) (c : Nat) : Bool :=
  (getCore s c).owner.isSome ||
  (upTo 8).any (fun x =>
    let k := getCtx s c x
    k.status = .ready || (k.status = .waiting && (match k.wait with | some (.idle _) => true | some (.dlbar _ _ _) => true | _ => false)))

/-- Whether an island counts the cycles of a stretch episode, or those that must pass before a droop that persists begins the
next (R320): its lowest core runs them where no other does. -/
def stretching (s : State) (i : Nat) : Bool :=
  let isl := getIsland s i
  !isl.gated && (isl.episode ≠ 0 || (isl.persist && isl.gap < 16))
/-- Whether a core runs cycles for its island's stretcher. -/
def countsStretch (s : State) (c : Nat) : Bool := !isSampler c && c % 4 = 0 && stretching s (islandOf c)

/-- Whether a core has anything to run a cycle for: a context that can issue or is about to, a result or handle in flight, an
array at work or running filler, or its island's stretcher. -/
def coreBusy (s : State) (c : Nat) : Bool :=
  let core := getCore s c
  coreActive s c || (upTo 8).any (batchWaitMet s c) || countsStretch s c || core.array.cur.isSome || core.array.filler || core.writes ≠ [] ||
  core.chains.any (chainClosed s c) ||
  (upTo 8).any (fun x => let k := getCtx s c x; k.flights ≠ [] || k.hflights ≠ [] || k.mq ≠ [] || timedWork k)

/-- The cores that have cycles to run. -/
def liveCores (s : State) : List Nat :=
  ((s.ctxs.map (fun (e : Nat × Ctx) => e.1 / 8) ++ s.cores.map (fun (e : Nat × Core) => e.1)).eraseDups).filter (coreBusy s)

/-- The live cores that no other of their island is behind: an island's cores, at one clock, run each cycle together. -/
def trailing (s : State) : List Nat :=
  let l := liveCores s
  l.filter fun c => isSampler c || !l.any fun d => !isSampler d && islandOf d = islandOf c && (getCore s d).cycle < (getCore s c).cycle

/-- The time of the next steep boundary. -/
def nextBoundary (s : State) : Nat := s.gov.boundaryNs * unitsPerNs

/-- The last moment to which time may go while a DLBAR waits (R337): a word ready at or before the deadline is seen before the
deadline passes, and the wait ends within 64 ns of it. An IDLE too ends within 64 ns of its time (R382). -/
def waitLimit (s : State) (k : Ctx) : Option Nat :=
  match k.status, k.wait with
  | .waiting, some (.dlbar pl expect deadline) =>
    some (if expect ≤ readNat s.mem pl.pa 8 ∧ timeNs s ≤ deadline then (deadline + 1) * unitsPerNs - 1
      else (deadline + 64) * unitsPerNs)
  | .waiting, some (.idle t) => some ((t + 64) * unitsPerNs)
  | _, _ => none
/-- Whether time may go to a moment as far as the waits that end at a time go. -/
def inLimits (s : State) (t : Nat) : Bool := s.ctxs.all (fun e => (waitLimit s e.2).all (fun l => decide (t ≤ l)))

/-- Whether nothing on a core counts cycles, so that cycles it did not run can be made up at once. -/
def coreStill (s : State) (c : Nat) : Bool :=
  let core := getCore s c
  core.owner.isNone && core.rest = 0 && core.array.cur.isNone && core.array.busy = 0 && !core.array.filler && core.writes.isEmpty &&
  !core.chains.any (chainClosed s c) && !countsStretch s c && !(upTo 8).any (batchWaitMet s c) &&
  (upTo 8).all fun x => let k := getCtx s c x; k.flights.isEmpty && k.hflights.isEmpty && k.mq.isEmpty && !timedWork k

/-- Of the cores of an island that are not still, the one that has run the most cycles. -/
def clockPeer (s : State) (c : Nat) : Option Core :=
  ((coresOf (islandOf c)).filter (fun d => d ≠ c && !coreStill s d)).foldl
    (fun (best : Option Core) d =>
      let core := getCore s d
      match best with
      | some b => if b.cycle < core.cycle then some core else best
      | none => some core) none

/-- A core that has been still caught up with its island's clock, which has gone on: with a core of the island that runs, or
else with the machine's time (R2, R29). -/
def syncCore (s : State) (c : Nat) : State :=
  let core := getCore s c
  let len := cycleLen s c
  if coreStill s c = false ∨ len = 0 then s
  else
    match (if isSampler c then none else clockPeer s c) with
    | some p =>
      let back := min ((p.tnext - s.time) / len) (p.cycle - core.cycle)
      if p.cycle < core.cycle then s
      else modCore s c fun k => { k with cycle := p.cycle - back, tnext := p.tnext - back * len }
    | none =>
      if s.time ≤ core.tnext then s
      else
        let n := (s.time - core.tnext + len - 1) / len
        modCore s c fun k => { k with cycle := k.cycle + n, tnext := k.tnext + n * len }

/-- The cores of an island at one clock (R2). -/
def syncIsland (s : State) (i : Nat) : State := (coresOf i).foldl syncCore s

/-! ### Clock reductions (R316, R317) -/

/-- Bits of THROT set in every context resident on an island, those in its shadow stores among them: a context that is swapped
in holds the warning (log entry 101). -/
def setThrot (s : State) (i : Nat) (f : BitVec 64 → BitVec 64) : State :=
  let set := fun (k : Ctx) => { k with throt := f k.throt }
  let away := fun (sh : Shadow) => { sh with ctxs := sh.ctxs.map (fun e => (e.1, set e.2)) }
  { s with
    ctxs := s.ctxs.map (fun e => if e.1 / 32 = i then (e.1, set e.2) else e)
    cores := s.cores.map (fun e => if e.1 / 4 = i then (e.1, { e.2 with shadow := e.2.shadow.map away }) else e) }

/-- CLOCK_REDUCTION_WARN (R317): a reduction ordered, or a pending one replaced, its DUE moving only later. -/
def orderReduction (s : State) (i fnew due : Nat) : State :=
  let due := match (getIsland s i).reduce with | some r => max r.due due | none => due
  let s := modIsland s i fun isl => { isl with reduce := some { fnew := fnew, due := due } }
  setThrot s i fun v =>
    BitVec.ofNat 64 (setField (setField (v.toNat ||| 1) 21 5 fnew) 32 32 due)

/-- The governor's decision for an island: a reduction with its notice, where something has set one off, or a raise (R316). -/
def governorChoice (s : State) (cause : Bool) (i : Nat) : State :=
  let v := (Config.governor s.free).toNat
  let s := bumpFree s
  let clk := (getIsland s i).clk
  let f := min 21 (v % 32)
  if cause ∧ bitOf v 5 ∧ f < clk then orderReduction s i f (timeNs s + 2000 + bitsOf v 16 16)
  else if bitOf v 6 ∧ clk < f ∧ (getIsland s i).reduce = none then modIsland (syncIsland s i) i fun isl => { isl with clk := f }
  else s

/-- CLOCK_REDUCTION (R317): at DUE, or once every context that holds the warning has acknowledged, the island takes the
lower clock, no cycle being lost; LOW is set and WARN cleared in every context there. -/
def clockReduce (s : State) (i : Nat) : State :=
  match (getIsland s i).reduce with
  | none => s
  | some r =>
    let waiting := s.ctxs.any (fun e => e.1 / 32 = i && e.2.throt.getLsbD 0)
    if timeNs s < r.due ∧ waiting = true then s
    else
      let s := modIsland (syncIsland s i) i fun isl => { isl with clk := min isl.clk r.fnew, reduce := none }
      setThrot s i fun v => (v ||| 2) &&& ~~~ (1 : BitVec 64)

/-! ### Droops (R320) -/

/-- DROOP_DETECT (R320): an episode of up to 64 stretched cycles begins, unless one runs, or the droop of the last one persists
and fewer than 16 unstretched cycles have passed since; past 8 in a steep the activity cap is lowered, and the governor may order a reduction. -/
def droopStart (s : State) (i : Nat) : State :=
  let isl := getIsland s i
  if isl.episode ≠ 0 ∨ (isl.persist ∧ isl.gap < 16) then s
  else
    let many : Bool := 8 < isl.episodes + 1
    let s := modIsland (syncIsland s i) i fun isl => { isl with
      episode := 64, gap := 0, persist := true, episodes := isl.episodes + 1, droopCap := if many then 1 else isl.droopCap }
    if many then governorChoice s true i else s

/-- STRETCH_EPISODE_END (R320): the droop clears. -/
def droopEnd (s : State) (i : Nat) : State := modIsland (syncIsland s i) i fun isl => { isl with episode := 0, persist := false }

/-- One cycle of an island counted against its episode, or toward the 16 that must pass before the next. -/
def stretchTick (isl : Island) : Island :=
  if isl.episode = 0 then { isl with gap := min 16 (isl.gap + 1) }
  else { isl with episode := isl.episode - 1, stretched := isl.stretched + 1 }

/-! ### Power gating (R305) -/

/-- The idle steeps after which an island is gated, by MODE. -/
def gateAfter (g : Governor) : Nat := let m := bitsOf g.pwrlim 18 2; if m = 2 then 0 else if m = 1 then 1 else 20

/-- ISLAND_POWER_GATE (R305): an idle island is powered down. Its line caches are written back; carves and shadow stores are
retained. -/
def powerGate (s : State) (i : Nat) : State :=
  if (getIsland s i).gated ∨ islandActive s i = true ∨ (getIsland s i).idle < gateAfter s.gov then s
  else
    let s := (coresOf i).foldl (fun s c => modCore (flushAll s c) c fun k => { k with tlb := [] }) s
    modIsland s i fun isl => { isl with gated := true }

/-- ISLAND_UNGATE (R305): a gated island is powered up for new work; its cycle counters and its cores' tags begin at 0
(R29). -/
def ungate (s : State) (i : Nat) : State :=
  if (getIsland s i).gated ∧ islandActive s i = true then
    let s := (coresOf i).foldl (fun s c => modCore s c fun k => { k with
      cycle := 0, tnext := max k.tnext s.time, tags := 0, counts := [], array := { k.array with planeEnd := 0 } }) s
    dispatch (modIsland s i fun isl => { isl with gated := false, idle := 0, slewAt := 0 }) i
  else s

/-! ### The steep boundary (R306–R312) -/

/-- The overruns of an island's running and parked tasks charged (R312). -/
def chargeOverruns (s : State) (i : Nat) : State :=
  (s.tasks.filter (fun e => e.2.island = i && e.2.core.isSome && (e.2.state = .running || e.2.state = .parked))).foldl
    (fun s e =>
      let x : Int := (jouleCount e.2 : Int) - e.2.cover
      if 0 < x then
        modTask (debitRegion (chargeIsland s i x) e.2.region x) e.1 fun t => { t with cover := jouleCount e.2 }
      else s) s

/-- The island overhead metered in the steep just ended (R314): a free value. -/
def meterIsland (s : State) (i : Nat) : State :=
  let e := (Config.sensor s.free).toNat
  bumpFree (modIsland { s with gov := { s.gov with energy := s.gov.energy + e } } i fun isl =>
    { isl with overhead := isl.overhead + e })

/-- A grant added under the carry-over cap (R310). -/
def addGrant (s : State) (i g : Nat) : State :=
  let s := modIsland s i fun isl =>
    let gc := if g = 0 then isl.lastGrant else g
    { isl with grant := g, lastGrant := gc, balance := min (isl.balance + 3125 * g) (2 * 3125 * gc) }
  chargeIsland s i 0

/-- Deficits refilled on an island (R293). -/
def refill (s : State) (i : Nat) : State :=
  (s.regions.map (fun e => e.1)).foldl (fun s rk =>
    let r := getRegion s rk
    if r.ready = [] ∨ ¬ bitOf r.islands i then s
    else modIsland s i fun isl => { isl with
      deficits := mset isl.deficits rk (min (mget isl.deficits rk 0 + r.share) (r.share + 320)) }) s

/-- An island's overhead of the steep just ended: what was metered, and its lines (R314, R315). -/
def islandSpent (isl : Island) : Nat := isl.overhead + lpddrNj isl.lines

/-- An island's part of a boundary (R310): overruns, its own overhead, the grant, deficits, and dispatch. `cause` says that the
allowance fell or the thermal credit is exhausted (R316). An island is idle for a steep once it has ended without work. -/
def islandBoundary (gs : Map Nat) (active : List Nat) (cause : Bool) (s : State) (i : Nat) : State :=
  let s := modIsland s i fun isl => { isl with
    isActive := active.contains i, idle := if active.contains i ∨ isl.isActive then 0 else isl.idle + 1
    episodes := 0, droopCap := 0 }
  let s := governorChoice s cause i
  if active.contains i then
    let s := chargeOverruns s i
    let s := chargeIsland s i (islandSpent (getIsland s i))
    let s := modIsland s i fun isl => { isl with overhead := 0, lines := 0 }
    let s := refill (addGrant s i (mget gs i 0)) i
    dispatchOn s i
  else refill (modIsland s i fun isl => { isl with grant := 0, overhead := 0, lines := 0 }) i

/-- The superblocks the system cache replaced in the steep just ended, whole; a pinned one is never evicted (R191, R364). -/
def replaceLines (s : State) : State :=
  let leaves := fun (e : Nat × SLine) => Config.replaced s.free (superOf e.1) && (pinWay s (superOf e.1)).isNone
  let out := (s.slices.filter leaves).map (fun e => e.2)
  out.foldl lineOut { s with slices := s.slices.filter (fun e => !leaves e), free := s.free + 1 }

/-- STEEP_BOUNDARY (R310). It comes once no core has a cycle to begin before it, and no wait that ends at a time is to end
before it. -/
def steep (s : State) : State :=
  if (s.time < nextBoundary s ∧ (trailing s).any (fun c => (getCore s c).tnext < nextBoundary s) = true) ∨
      inLimits s (max s.time (nextBoundary s)) = false then s
  else
    let s := replaceLines { s with time := max s.time (nextBoundary s) }
    -- what the steep used
    let running := (s.tasks.filter (fun e => e.2.state = .running)).map (fun e => e.1)
    let s := (upTo 10).foldl meterIsland (running.foldl meterTask s)
    let own := (Config.sensor s.free).toNat
    let s := bumpFree s
    let used : Int := s.gov.energy + own + lpddrNj s.gov.moved
    -- new limits and the allowance
    let g := { s.gov with pwrlim := s.gov.pwrlimNew, therm := s.gov.thermNew }
    let (m, credit, burst) := allowanceOf g used
    let cause := m < g.allowance || (g.therm % 2 ^ 16 ≠ 0 && credit = 0)
    let active := (upTo 10).filter (islandActive s)
    let idle := (upTo 10).filter (fun i => ¬ islandActive s i)
    let spent := g.overhead + own + lpddrNj g.lines + nsum (idle.map (fun i => islandSpent (getIsland s i)))
    let g := { g with allowance := m, credit := credit, burst := burst, steeps := g.steeps + 1,
                      boundaryNs := g.boundaryNs + 50000, overhead := 0, energy := 0,
                      lines := 0, moved := 0 }
    let s := { s with
      gov := g
      parts := s.parts.map (fun e => (e.1, { e.2 with costs := e.2.costsNew.getD e.2.costs, costsNew := none }))
      peeps := s.peeps.map (fun e => (e.1, { e.2 with steepn := 0 })) }
    let gs := grants s active (m - (spent + 3124) / 3125)
    let s := (upTo 10).foldl (islandBoundary gs active cause) s
    let s := settle s 64
    ((s.regions.filter (fun e => e.2.dirty)).map (fun e => e.1)).foldl writeRcb s

/-! ### BUDQ, JRD and THACK (R321–R324) -/

/-- The island a context's energy is told by: its own, or on a sampler core that of its task. -/
def budgetIsland (s : State) (c : Nat) (k : Ctx) : Nat :=
  if isSampler c then (match mfind s.tasks k.task with | some t => t.island | none => 0) else islandOf c

/-- BUDQ's items (R322). -/
def budqValue (s : State) (c : Nat) (k : Ctx) (item arg : Nat) : Nat :=
  let isl := getIsland s (budgetIsland s c k)
  let r := ctxRegion s k
  match item with
  | 0 => narrow 64 (isl.balance / 3125)
  | 1 => isl.grant
  | 2 => s.gov.allowance % 2 ^ 16 + bitsOf s.gov.pwrlim 18 2 * 2 ^ 16 + natOf s.gov.burst * 2 ^ 18
  | 3 => r.contract
  | 4 => classCost s k.part (arg % 8)
  | 5 => if r.budget = 0 then 0 else narrow 64 (budremUnits r)
  | 6 => isl.filler
  | 7 => isl.stretched
  | _ => s.gov.steeps

/-- A query of the dispatcher: an interlocked result read after the bundle issues. -/
def querySlot (g : BitVec 4) (ok : Bool) (d : BitVec 6) (reads : List Reg) (u : Ctx → UnitOp) : Op := fun e =>
  sysSlot g ok e reads [sReg d.toNat] [sReg d.toNat] true fun p s =>
    .go { works := [{ reg := sReg d.toNat, kind := .unit (u (p.reads s)) }] }

/-- R322: an item by its number; 4 is BUDQ.CCOST, 9 to 63 are illegal. -/
def opBudq (g : BitVec 4) (d i : BitVec 6) : Op :=
  querySlot g (i.toNat ≤ 8 && i != 4) d [] fun _ => .budq i.toNat 0
/-- R322: the class cost named by s[b] bits 2:0. -/
def opBudqCcost (g : BitVec 4) (d b : BitVec 6) : Op :=
  querySlot g true d [sReg b.toNat] fun k => .budq 4 ((readS k b.toNat).toNat % 8)
/-- R323. -/
def opJrd (g : BitVec 4) (d : BitVec 6) : Op := querySlot g true d [] fun _ => .jrd false
/-- R323: the count of lines. -/
def opJrdL (g : BitVec 4) (d : BitVec 6) : Op := querySlot g true d [] fun _ => .jrd true
/-- R324. -/
def opThack (g : BitVec 4) (d : BitVec 6) : Op := querySlot g true d [] fun _ => .thack

/-- JRD performed: energy metered up to now is in the counter. -/
def jrdPerform (s : State) (k : Ctx) (lines : Bool) : State × Nat :=
  let s := if lines then s else meterTask s k.task
  match mfind s.tasks k.task with
  | some t => (s, if lines then t.lines else jouleCount t)
  | none => (s, 0)

/-- THACK performed: THROT as it stood, then WARN and LOW cleared; 0 on a sampler core. -/
def thackPerform (s : State) (c x : Nat) : State × Nat :=
  if isSampler c then (s, 0)
  else
    let v := (getCtx s c x).throt
    (modCtx s c x fun k => { k with throt := k.throt &&& ~~~ (3 : BitVec 64) }, v.toNat)

end Sys2Proof.Machine
end

