-- ==== Sys2Proof/Machine/Batch.lean ====
section
/-! DEFINITION. The generation loop (R325–R342): the batching table, sampling queues and sampler cores, token-ready flags,
grammar deadlines, the strainer and lattice expansion. -/

namespace Sys2Proof.Machine

/-! ### The batching table (R325–R331) -/

/-- A slot. -/
def getSlot (s : State) (i : Nat) : Slot := mget s.slots i {}
/-- The state with a slot replaced. -/
def putSlot (s : State) (i : Nat) (sl : Slot) : State := { s with slots := mset s.slots i sl }

/-- STATE, STREAM, PV, GEN, OJ and RDY of word 0; V, PART and REGION of word 3. -/
def Slot.state (sl : Slot) : Nat := bitsOf sl.w0 60 3
def Slot.stream (sl : Slot) : Nat := bitsOf sl.w0 52 3
def Slot.pv (sl : Slot) : Bool := bitOf sl.w0 51
def Slot.gen (sl : Slot) : Nat := bitsOf sl.w0 40 8
def Slot.oj (sl : Slot) : Nat := bitsOf sl.w0 32 8
def Slot.rdy (sl : Slot) : Bool := bitOf sl.w0 63
def Slot.owned (sl : Slot) : Bool := bitOf sl.w3 63
def Slot.part (sl : Slot) : Nat := bitsOf sl.w3 56 3
def Slot.region (sl : Slot) : Nat := sl.w3 % 2 ^ 12

/-- Whether a request may change STATE so (R327). -/
def stateAllowed (now next : Nat) : Bool :=
  now = next ||
  (match now with
   | 0 => next = 1 || next = 2
   | 1 => next = 2 || next = 3 || next = 4
   | 2 => next = 1 || next = 3 || next = 4
   | 3 => next = 1 || next = 2 || next = 4
   | 4 => next = 0
   | _ => false)

/-- Whether a stream is a partition's (R342). -/
def streamOf (s : State) (part t : Nat) : Bool := match mfind s.parts part with | some p => bitOf p.streamMask t | none => false

/-- The state a request asks for: STATE where it asks to KEEP it. -/
def requestState (sl : Slot) (req : Nat) : Nat := if bitOf req 3 then sl.state else req % 8

/-- The effect of one applied request on its slot (R330). -/
def applyRequest (sl : Slot) : Slot :=
  let r := sl.req
  let keep := bitOf r 3
  let gen := if !keep && sl.state = 0 then (sl.gen + 1) % 256 else sl.gen
  let st := requestState sl r
  let w0 := setField (setField (setField sl.w0 40 8 gen) 60 3 st) 51 1 0
  let w0 := if bitOf r 4 then setField w0 55 5 (natOf (bitOf r 9) * 16 + bitsOf r 5 4) else w0
  let w0 := if bitOf r 10 then setField w0 0 32 (bitsOf r 32 32) else w0
  let w2 := if bitOf r 11 then sl.datum else sl.w2
  if st = 0 then { w0 := gen * 2 ^ 40 } else { sl with w0 := w0, w2 := w2, req := 0, datum := 0 }

/-- An iteration boundary of a stream (R330): the requests applied. -/
def boundary (s : State) (t : Nat) : State × Nat :=
  let mine := fun (sl : Slot) => sl.owned && sl.stream = t
  let n := countIf (fun (e : Nat × Slot) => mine e.2 && e.2.pv) s.slots
  ({ s with slots := s.slots.map (fun e =>
      if mine e.2 then
        let sl := if e.2.pv then applyRequest e.2 else e.2
        (e.1, { sl with w1 := setField sl.w1 42 1 0 })
      else e) }, n)

/-- A request entered in a slot (R329): it takes the place of any earlier one. -/
def enterRequest (sl : Slot) (part region req datum : Nat) : Slot :=
  let sl := if sl.owned then sl
    else { sl with w3 := 2 ^ 63 + part * 2 ^ 56 + region, w0 := setField sl.w0 52 3 (bitsOf req 12 3) }
  { sl with w0 := setField sl.w0 48 4 (8 + requestState sl req), req := req, datum := datum }

/-- BTSET at the table unit (R329): the status. A slot that drains for CANCEL takes no request but for FREE (R343). -/
def btsetPerform (s : State) (k : Ctx) (slot req datum : Nat) : State × Int :=
  let i := slot % 4096
  let sl := getSlot s i
  let strm := bitsOf req 12 3
  let st := req % 8
  let keep := bitOf req 3
  let (quota, used) := match mfind s.parts k.part with
    | some p => (p.slots, countIf (fun (e : Nat × Slot) => e.2.owned && e.2.part = k.part) s.slots)
    | none => (0, 0)
  let (s, st) : State × Int :=
    if bitOf slot 15 then (s, 0)
    else if sl.owned ∧ sl.part ≠ k.part then (s, -1)
    else if bitsOf req 16 16 ≠ 0 ∨ (keep = false ∧ 4 < st) then (s, -2)
    else if ¬ sl.owned ∧ streamOf s k.part strm = false then (s, -2)
    else if ¬ sl.owned ∧ (keep = true ∨ ¬ (st = 1 ∨ st = 2)) then (s, -3)
    else if ¬ stateAllowed sl.state (requestState sl req) then (s, -3)
    else if sl.cancelled = true ∧ (keep = true ∨ st ≠ 0) then (s, -3)
    else if ¬ sl.owned ∧ quota ≤ used then (s, -1)
    else (putSlot s i (enterRequest sl k.part k.region req datum), 0)
  if st = 0 ∧ bitOf req 15 = true then
    if streamOf s k.part strm then let r := boundary s strm; (r.1, r.2) else (s, -2)
  else (s, st)

/-- BTRD (R331): another partition's slot reads zero. -/
def btrdPerform (s : State) (k : Ctx) (slot word : Nat) : Nat :=
  let sl := getSlot s (slot % 4096)
  if sl.owned ∧ sl.part ≠ k.part then 0
  else match word with
    | 0 => sl.w0
    | 1 => sl.w1
    | 2 => sl.w2
    | _ => sl.w3

/-- R328: c6 names the request register and the next its datum; 63 is illegal. -/
def opBtset (g : BitVec 4) (d a b : BitVec 6) : Op := fun e =>
  sysSlot g (b != 63) e [sReg a.toNat, sReg b.toNat, sReg (b.toNat + 1)] [sReg d.toNat] [sReg d.toNat] true fun p s =>
    let k := p.reads s
    .go { works := [{ reg := sReg d.toNat, kind := .unit (.btset (readS k a.toNat).toNat (readS k b.toNat).toNat
            (readS k (b.toNat + 1)).toNat) }] }

/-- R328. -/
def opBtrd (g : BitVec 4) (d a : BitVec 6) (w : BitVec 2) : Op := fun e =>
  sysSlot g true e [sReg a.toNat] [sReg d.toNat] [sReg d.toNat] true fun p s =>
    .go { works := [{ reg := sReg d.toNat, kind := .unit (.btrd (readS (p.reads s) a.toNat).toNat w.toNat) }] }

/-! ### Sampling jobs (R333–R336) -/

/-- R334: not on a sampler core. -/
def opSmpq (g : BitVec 4) (d a b : BitVec 6) : Op := fun e =>
  unitSlot g true e [sReg a.toNat, sReg b.toNat] [sReg d.toNat] false fun p s =>
    let k := p.reads s
    .go { works := [{ reg := sReg d.toNat, kind := .unit (.smpq (readS k a.toNat).toNat (readS k b.toNat).toNat) }] }

/-- SMPQ at the table, after its release (R334): the status or the jobs held. -/
def smpqTable (s : State) (k : Ctx) (logits slot : Nat) : State × Int :=
  let i := slot % 4096
  let sl := getSlot s i
  let jobs := mget s.jobs sl.stream []
  if ¬ sl.owned ∨ sl.part ≠ k.part ∨ sl.state = 0 ∨ sl.state = 4 then (s, -2)
  else if 64 ≤ jobs.length then (s, -1)
  else
    let j : Job := { logits := logits, slot := i + sl.gen * 2 ^ 16, param := sl.w2, task := k.task, part := k.part,
                     region := k.region }
    let w0 := setField (setField sl.w0 32 8 (sl.oj + 1)) 63 1 0
    ({ putSlot s i { sl with w0 := w0 } with jobs := mset s.jobs sl.stream (jobs ++ [j]) }, jobs.length + 1)

/-- SMPQ performed. -/
def smpqPerform (s : State) (c x id logits slot : Nat) : State × Option Int :=
  if worksBefore s c x id then (s, none)
  else
    let r := releaseWork s c x .dev
    if ¬ r.2 then (r.1, none) else let q := smpqTable r.1 (getCtx s c x) logits slot; (q.1, some q.2)

/-- R335: the test form; its predicate pair is interlocked. -/
def opTokrdy (g p : BitVec 4) (a : BitVec 6) : Op := fun e =>
  unitSlot g (evenPred p.toNat) e [sReg a.toNat] [pReg p.toNat] true fun q s =>
    .go { works := [{ reg := pReg p.toNat, kind := .unit (.tokrdy ((readS (q.reads s) a.toNat).toNat % 4096)) }] }

/-- TOKRDY performed: an acquire when the flag is set (R335), once the context's earlier loads are complete. -/
def tokrdyPerform (s : State) (c x id slot : Nat) : State × Option Nat :=
  if ((getCtx s c x).works.takeWhile (fun w => w.id ≠ id)) ≠ [] then (s, none)
  else
    let sl := getSlot s slot
    let r := sl.rdy && !(sl.owned && sl.part ≠ (getCtx s c x).part)
    (if r then acquireWork s c .dev else s, some (natOf r))

/-- The bundles after this one held on the work its slot put in hand. -/
def holdOwn (p : Port) (s : State) : State :=
  match (getCtx s p.core p.ctx).works.reverse.find? (fun w => w.pc = p.pc ∧ w.slot = p.pos) with
  | some w => addHold s p (.work w.id)
  | none => s

/-- R336: on a sampler core only; the bundles after it stall until it has completed. -/
def opTokrdyS (g : BitVec 4) (a b : BitVec 6) : Op := fun e =>
  { unitSlot g true e [sReg a.toNat, sReg b.toNat] [] true (fun p s =>
      let k := p.reads s
      .go { works := [{ reg := .none, kind := .unit (.tokrdyS (readS k a.toNat).toNat (readS k b.toNat).toNat) }]
            act := holdOwn p })
    with samplerOnly := true }

/-- Whether TOKRDY.S finds its slot as its job left it. -/
def tokenSlot (s : State) (k : Ctx) (slot : Nat) : Bool :=
  let sl := getSlot s (slot % 4096)
  sl.owned && sl.part = k.part && sl.gen = bitsOf slot 16 8 && 1 ≤ sl.state && sl.state ≤ 3

/-- The slot with a job's result posted (R336). -/
def postToken (sl : Slot) (token : Nat) : Slot :=
  let oj := sl.oj - 1
  let w1 := setField (setField (setField (setField sl.w1 0 32 token) 32 8 (bitsOf token 32 8)) 40 1 (bitsOf token 40 1))
    41 1 (bitsOf token 41 1)
  let w0 := setField sl.w0 32 8 oj
  { sl with w1 := w1, w0 := if oj = 0 then setField w0 63 1 1 else w0 }

/-- TOKRDY.S performed (R336). -/
def tokenPerform (s : State) (c x id slot token : Nat) : State × Bool :=
  let k := getCtx s c x
  if ¬ tokenSlot s k slot then (s, true)
  else if worksBefore s c x id then (s, false)
  else
    let r := releaseWork s c x .dev
    if ¬ r.2 then (r.1, false)
    else if ¬ tokenSlot r.1 k slot then (r.1, true)
    else (putSlot r.1 (slot % 4096) (postToken (getSlot r.1 (slot % 4096)) token), true)

/-- The line cache of a sampler core as an empty context finds it. -/
def samplerCore (n : Nat) : Nat := 40 + n

/-- The word at PARAM as a job's start reads it (R333), or the fault of the job. -/
def readParam (s : State) (c : Nat) (j : Job) : State × (Nat ⊕ Nat) :=
  let va := j.param % 2 ^ 57
  match translate s c j.part j.task va with
  | (s, .inr e) => (s, .inr e)
  | (s, .inl l) =>
    let pa := leafPa l va
    if l.perm % 2 = 0 ∨ ¬ (isLpddr pa || isHostMem pa) then (s, .inr codePerm)
    else
      let (s, v) := sliceRead s j.task pa 8
      if linePoison s (pa / 128) then (s, .inr codePoison) else (s, .inl v)

/-- SAMPLER_JOB_START (R333): the next job of a stream starts, after an acquire of the line cache. -/
def jobStart (s : State) (n : Nat) : State :=
  let c := samplerCore n
  match mget s.jobs n [] with
  | [] => s
  | j :: _ =>
    let stopped := match mfind s.parts j.part with | some p => p.stopped | none => true
    if (mfind s.ctxs (c * 8)).isSome ∨ (getCore s c).fenced = true ∨ stopped = true then s
    else
      let cr := match mfind s.tasks j.task with | some t => t.crPa | none => 0
      let k : Ctx := { freshCtx s c 0 j.part j.region j.task cr 0 [j.logits, j.slot, j.param] 0 with cr := cr }
      let s := putCtx s c 0 k
      let s := acquireWork s c .dev
      match readParam s c j with
      | (s, .inl pc) => modCtx s c 0 fun k => { k with pc := BitVec.ofNat 57 (pc / 16 * 16) }
      | (s, .inr code) => takeFault s c 0 { code := code, va := j.param % 2 ^ 57, obj := 255 }

/-! ### Grammar deadlines (R337) -/

/-- R337: a blocking wait; its predicate pair is interlocked, landing after the acquire when the word was ready. An answer of a
wait holds for the word it was waiting for; where the handle has been translated anew to another frame since, the word there is
read (R362). -/
def opDlbar (g : BitVec 4) (pd : BitVec 6) (h : BitVec 4) (b : BitVec 6) : Op := fun e =>
  sysSlot g (evenPred pd.toNat && b.toNat ≤ 61) e
      [sReg b.toNat, sReg (b.toNat + 1), sReg (b.toNat + 2), .h h.toNat] [pReg pd.toNat] [pReg pd.toNat] true fun p s =>
    let k := p.reads s
    match checkGlobal s k h.toNat (readS k b.toNat).toInt 8 true false { bound := true, uncached := true } with
    | .stall => .stall
    | .fault t => .trap t
    | .ok pl =>
      let expect := (readS k (b.toNat + 1)).toNat
      let deadline := (readS k (b.toNat + 2)).toNat
      let done := fun (r : Bool) => SlotRes.go {
        works := [{ reg := pReg pd.toNat, kind := .unit (.dlbar r) }], act := fun s => sliceFetchAll s k.task pl.pa 8 }
      match (match k.wait with | some (.dlbarDone q r) => if q.pa = pl.pa then some r else none | _ => none) with
      | some r => done r
      | none =>
        if expect ≤ readNat s.mem pl.pa 8 then done true
        else if deadline < issueNs s p.core p.ctx then done false
        else .wait (.dlbar pl expect deadline) id

/-- A DLBAR's wait ends with an answer; a gang waits until every rank's can end (R292). -/
def dlbarEnd (s : State) (c x : Nat) (pl : Place) (r : Bool) : State :=
  let s := modCtx s c x fun k => { k with wait := some (.dlbarDone pl r) }
  endWait s c x

/-- DLBAR_READY (R337): the word is ready, at or before the deadline. -/
def dlbarReady (s : State) (c x : Nat) : State :=
  match (getCtx s c x).wait with
  | some (.dlbar pl expect deadline) =>
    if expect ≤ readNat s.mem pl.pa 8 ∧ timeNs s ≤ deadline then dlbarEnd s c x pl true else s
  | _ => s
/-- DLBAR_TIMEOUT (R337): the deadline has passed and the word was not ready by it. -/
def dlbarTimeout (s : State) (c x : Nat) : State :=
  match (getCtx s c x).wait with
  | some (.dlbar pl _ deadline) => if deadline < timeNs s then dlbarEnd s c x pl false else s
  | _ => s
/-! ### The strainer and lattice expansion (R339–R341) -/

/-- A node in the making: token, parent (255 the root), depth. -/
structure Node where
  token : Nat
  par : Nat
  depth : Nat
  deriving DecidableEq, Repr

/-- One step of a path added to the nodes: the step's node number. -/
def addNode (ns : List Node) (token par depth : Nat) : List Node × Nat :=
  match ns.zipIdx.find? (fun e => e.1.token = token ∧ e.1.par = par) with
  | some e => (ns, e.2)
  | none => (ns ++ [{ token := token, par := par, depth := depth }], ns.length)

/-- A path of tokens added: its last node, 255 for an empty path, and whether a node lies beyond the 64th. -/
def addPath (ns : List Node) : List Nat → (par depth : Nat) → (leaf : Nat) → (beyond : Bool) → List Node × Nat × Bool
  | [], _, _, leaf, beyond => (ns, leaf, beyond)
  | t :: rest, par, depth, _, beyond =>
    if t = 0xFFFFFFFF then (ns, par, beyond)
    else
      let (ns, n) := addNode ns t par depth
      addPath ns rest n (depth + 1) n (beyond || 64 ≤ n)

/-- Two byte ranges meet. -/
def rangesMeet (a n b m : Nat) : Bool := a < b + m && b < a + n && n ≠ 0 && m ≠ 0

/-- STRN's operands: input address, paths, steps, output address. -/
def strnArgs (a b : Nat) : Nat × Nat × Nat × Nat := (a / 4 * 4, bitsOf b 32 8, bitsOf b 40 4 + 1, b % 2 ^ 24 / 64 * 64)

/-- What STRN writes, of 576 bytes, and its result (R339). -/
def strainer (words : List Nat) (p l : Nat) : Nat × Int :=
  let (ns, leaves) := (upTo p).foldl (fun acc i =>
    let (ns, leaf, beyond) := addPath acc.1 ((words.drop (i * l)).take l) 255 0 255 false
    (ns, acc.2 ++ [if beyond then 0xFE else leaf])) (([], []) : List Node × List Nat)
  let entry := fun (i : Nat) => match ns[i]? with
    | some n => n.token + n.par * 2 ^ 32 + 255 * 2 ^ 40 + n.depth * 2 ^ 48
    | none => ones 64
  (ofElems 64 ((upTo 64).map entry) + ofElems 8 ((leaves ++ List.replicate 64 255).take 64) * 2 ^ 4096,
    if 64 < ns.length then -1 else ns.length)

/-- STRN performed: reads, computes and writes in the core scratchpad. For more than 64 paths R339 states no result: the count
and the bytes written are free values. -/
def strnPerform (s : State) (c a b : Nat) : State × Int :=
  let (inp, p, l, out) := strnArgs a b
  if p = 0 ∨ rangesMeet inp (p * l * 4) out 576 = true then (s, -2)
  else
    let wide := (Config.strainedOver s.free).toNat
    let r := if 64 < p then (wide / 2 ^ 64, ((wide % 2 ^ 64 : Nat) : Int))
      else strainer (elems 32 (spadLoad s c inp (p * l * 4)) (p * l)) p l
    let s := spadStore (if 64 < p then bumpFree s else s) c out 576 r.1
    ((if spadBad s c inp (p * l * 4) then
        modCore s c fun k => { k with poison := (k.poison ++ spadWords out 576).eraseDups } else s), r.2)

/-- Whether a node table is in rule (R340). -/
def latticeOk (ns : List Nat) : Bool :=
  ns.zipIdx.all (fun e =>
    let p0 := bitsOf e.1 32 8
    let p1 := bitsOf e.1 40 8
    (p0 = 255 || p0 < e.2) && (p1 = 255 || p1 < e.2) && !(p0 = 255 && p1 ≠ 255))

/-- The mask and depth of every node, in order (R340). -/
def latticeRows (ns : List Nat) : List (Nat × Nat) :=
  ns.zipIdx.foldl (fun acc e =>
    let p0 := bitsOf e.1 32 8
    let p1 := bitsOf e.1 40 8
    let up := fun p => if p = 255 then (0, 0) else nth acc p (0, 0)
    let mask := Nat.lor (2 ^ e.2) (Nat.lor (up p0).1 (up p1).1)
    let depth := if p0 = 255 then 0 else 1 + max (up p0).2 (up p1).2
    acc ++ [(mask, depth)]) []

/-- LEXP's operands: the table, the output address, the node count. -/
def lexpArgs (a b : Nat) : Nat × Nat × Nat := (a / 64 * 64, b % 2 ^ 24 / 128 * 128, bitsOf b 32 8)

/-- LEXP performed (R340). -/
def lexpPerform (s : State) (c a b : Nat) : State × Int :=
  let (inp, out, n) := lexpArgs a b
  let ns := (elems 64 (spadLoad s c inp 512) 64).take n
  if n = 0 ∨ 64 < n ∨ rangesMeet inp 512 out 1024 = true ∨ latticeOk ns = false then (s, -2)
  else
    let rows := latticeRows ns
    let pad := fun (l : List Nat) => ofElems 64 ((l ++ List.replicate 64 0).take 64)
    let v := pad (rows.map (fun r => r.1)) + pad ((ns.zip rows).map (fun e => e.1 % 2 ^ 32 + e.2.2 * 2 ^ 32)) * 2 ^ 4096
    let s := spadStore s c out 1024 v
    ((if spadBad s c inp 512 then
        modCore s c fun k => { k with poison := (k.poison ++ spadWords out 1024).eraseDups } else s), n)

/-- The ranges of a slot's own work placed in the operand guard (R341). -/
def rangeHold (p : Port) (i o : Nat × Nat) (s : State) : State :=
  match (getCtx s p.core p.ctx).works.reverse.find? (fun w => w.pc = p.pc ∧ w.slot = p.pos) with
  | some w => modCore s p.core fun c => { c with guard := c.guard ++
      [{ seq := 2 * w.id + 2 ^ 64, lo := i.1, size := i.2, write := false },
       { seq := 2 * w.id + 2 ^ 64 + 1, lo := o.1, size := o.2, write := true }] }
  | none => s

/-- A unit that works on the core scratchpad between two ranges (R341): carve, then two entries of the operand guard, then
its work; on the guard the entries stand under its work's number. -/
def rangeSlot (g : BitVec 4) (d a b : BitVec 6) (inLen outLen : Nat → Nat → Nat × Nat) (u : Nat → Nat → UnitOp) : Op :=
  fun e =>
  sysSlot g true e [sReg a.toNat, sReg b.toNat] [sReg d.toNat] [sReg d.toNat] false fun p s =>
    let k := p.reads s
    let v := (readS k a.toNat).toNat
    let w := (readS k b.toNat).toNat
    let i := inLen v w
    let o := outLen v w
    if 14 < guardUsed (getCore s p.core) ∨ guardMeets s p.core i.1 i.2 false = true ∨ guardMeets s p.core o.1 o.2 true = true then
      .stall
    else match firstOutside s k [i, o] with
      | some t => .trap t
      | none =>
        .go { works := [{ reg := sReg d.toNat, kind := .unit (u v w) }], act := rangeHold p i o, guards := 2 }

/-- The guard entries of a piece of work released (R341). -/
def dropRanges (s : State) (c id : Nat) : State :=
  modCore s c fun k => { k with guard := k.guard.filter (fun g => g.seq / 2 ≠ id + 2 ^ 63) }

/-- R339, R341. -/
def opStrn (g : BitVec 4) (d a b : BitVec 6) : Op :=
  rangeSlot g d a b (fun v w => let r := strnArgs v w; (r.1, r.2.1 * r.2.2.1 * 4)) (fun v w => ((strnArgs v w).2.2.2, 576)) .strn
/-- R340, R341. -/
def opLexp (g : BitVec 4) (d a b : BitVec 6) : Op :=
  rangeSlot g d a b (fun v w => ((lexpArgs v w).1, 512)) (fun v w => ((lexpArgs v w).2.1, 1024)) .lexp

end Sys2Proof.Machine
end

