-- ==== Sys2Proof/Machine/System.lean ====
section
/-! DEFINITION. The system registers, TRAP, IDLE, and the debug block as the bundle stream sees it: trace records, triggers,
breakpoints and profile counters (R29, R78, R379–R382, R406–R412). -/

namespace Sys2Proof.Machine

/-! ### Features, and the tenant's consent (R395, R412) -/

/-- Whether a feature is enabled. -/
def enabled (s : State) (bit : Nat) : Bool := bitOf s.control.enable bit
/-- Whether a partition's consent allows traces and captures (bit 0) or halts and breakpoints (bit 1), with DEBUG. -/
def consents (s : State) (part bit : Nat) : Bool :=
  enabled s 4 && (match mfind s.parts part with | some p => bitOf p.consent bit | none => false)

/-! ### System registers (R29, R78) -/

/-- STAGEV of the innermost active level (R78). -/
def stagev (k : Ctx) : Nat :=
  match innermost k with
  | none => 0
  | some l =>
    let mask := nsum ((upTo l.stages).map (fun j => if j ≤ l.count ∧ l.count + l.stages ≤ l.trip + j then 2 ^ j else 0))
    (k.loops.length - 1) * 2 ^ 20 + (l.stages - 1) * 2 ^ 16 + mask

/-- The numbers that name a system register. -/
def sysReadable (n : Nat) : Bool := n ≤ 13 || (16 ≤ n && n ≤ 23)
/-- Those that MTS may write. -/
def sysWritable (n : Nat) : Bool := n = 9 || n = 12

/-- A system register's value as context `x` of core `c` reads it. The spec gives COREID, CLUSTER and RANK to tile cores
alone: what a sampler core reads there is the model's choice (log entry 3). -/
def sysValue (s : State) (c x n : Nat) : Nat :=
  let k := getCtx s c x
  match n with
  | 0 => x
  | 1 => if isSampler c then c - 40 else c
  | 2 => if isSampler c then Config.samplerCluster.toNat else c / 4
  | 3 => if isSampler c then Config.samplerRank.toNat else c % 4
  | 4 => k.part
  | 5 => cycleOn s c x % 2 ^ 64
  | 6 => issueNs s c x % 2 ^ 64
  | 7 => (getCore s c).tags.toNat
  | 8 => batchReg k
  | 9 => k.fflags.toNat
  | 10 => stagev k
  | 11 => k.throt.toNat
  | 12 => k.mfmt.toNat
  | 13 => k.cwq.length
  | n => (mget k.trap (n - 16) 0).toNat

/-- R381. A number above 0x3F, which needs a header, is reserved. -/
def opMfs (g : BitVec 4) (d r : BitVec 6) : Op := fun e => {
  legal := e.x == 0 && sysReadable r.toNat
  res := .system
  guard := .scalar g.toNat
  writes := [sReg d.toNat]
  run := fun p s => .go { outs := [{ reg := sReg d.toNat, val := sysValue s p.core p.ctx r.toNat, lat := 2 }] } }

/-- R381: MFMT takes bits 4:0, where a reserved code is ILLEGAL_SLOT at issue; FFLAGS is replaced at the end of the cycle,
before that cycle's flags are set. -/
def opMts (g : BitVec 4) (r a : BitVec 6) : Op := fun e => {
  legal := e.x == 0 && sysWritable r.toNat
  res := .system
  guard := .scalar g.toNat
  reads := [sReg a.toNat]
  run := fun p s =>
    let v := readS (p.reads s) a.toNat
    if r = 12 then
      if 14 < v.toNat % 32 then .trap (trapOf codeIllegalSlot)
      else .go { act := fun s => modCtx s p.core p.ctx fun k => { k with mfmt := v.setWidth 5 } }
    else .go { act := fun s => modCtx s p.core p.ctx fun k => { k with fflags := (v.setWidth 6).setWidth 32 } } }

/-! ### TRAP and IDLE (R380, R382) -/

/-- A number of 6 bits with the header field above it. -/
def above6 (e : Ext) (n : BitVec 6) : Nat := e.x * 64 + n.toNat

/-- R380: raised after its bundle has issued. -/
def opTrap (g : BitVec 4) (a n : BitVec 6) : Op := fun e => {
  res := .system
  guard := .scalar g.toNat
  reads := [sReg a.toNat]
  run := fun p s =>
    .go { ctl := .after { code := codeUserTrap, aux := above6 e n, va := (readS (p.reads s) a.toNat).toNat } } }

/-- R382: a blocking wait until TIME reaches s[a]. -/
def opIdle (g : BitVec 4) (a : BitVec 6) : Op := fun e =>
  sysSlot g true e [sReg a.toNat] [] [] true fun p s =>
    let t := (readS (p.reads s) a.toNat).toNat
    if t ≤ issueNs s p.core p.ctx then .go {} else .wait (.idle t) id

/-! ### Trace records (R407, R409) -/

/-- A trace record of a context, as it stands before a bundle's effects. -/
def traceRecord (s : State) (c x payload n kind : Nat) : Trace :=
  let k := getCtx s c x
  let st := stagev k
  let active := k.loops ≠ []
  let (count, opener) := match innermost k with | some l => (l.count, l.opener) | none => (0, 0)
  let id := if isSampler c then 0x40 + (c - 40) else c
  { w0 := payload % 2 ^ 64
    w1 := issueNs s c x % 2 ^ 64
    w2 := cycleOn s c x % 2 ^ 32 * 2 ^ 32 + count % 2 ^ 16 * 2 ^ 16 + st % 2 ^ 16
    w3 := bitsOf opener 4 16 * 2 ^ 48 + bitsOf st 16 4 * 2 ^ 44 + bitsOf st 20 3 * 2 ^ 41 + natOf active * 2 ^ 40
      + n % 2 ^ 15 * 2 ^ 25 + id % 2 ^ 8 * 2 ^ 16 + x % 8 * 2 ^ 13 + k.part % 8 * 2 ^ 10 + kind % 2 ^ 8 }

/-- A record appended to a FIFO of 128; when it is full, the record is dropped and counted. -/
def pushTrace (d : Debug) (r : Trace) : Debug :=
  if d.fifo.length < 128 then { d with fifo := d.fifo ++ [r] } else { d with ovf := min 65535 (d.ovf + 1) }

/-- A record appended on a core, if the partition's consent allows it. -/
def addTrace (s : State) (c part : Nat) (r : Trace) : State :=
  if consents s part 0 then modCore s c fun k => { k with probe := pushTrace k.probe r } else s

/-- R407. -/
def opTrace (g : BitVec 4) (a n : BitVec 6) : Op := fun e => {
  res := .system
  guard := .scalar g.toNat
  reads := [sReg a.toNat]
  run := fun p s =>
    let k := p.reads s
    let r := traceRecord s p.core p.ctx (readS k a.toNat).toNat (above6 e n) 0
    .go { trace := some (above6 e n), act := fun s => addTrace s p.core k.part r } }

/-- R408: DEBUG after the bundle issues, where the breakpoint is armed and consent allows halts. -/
def opBrkpt (g : BitVec 4) (n : BitVec 6) : Op := fun e =>
  sysSlot g true e [] [] [] true fun p s =>
    if (getCore s p.core).probe.brken.getLsbD n.toNat && consents s (p.reads s).part 1 then
      .go { ctl := .after { code := codeDebug, obj := n.toNat } }
    else .go {}

/-! ### Triggers and captures (R411) -/

/-- Whether a trigger condition that a bundle can meet holds: its PC, the cycle, the TRACE numbers it executes. -/
def triggerMeets (v : BitVec 64) (pc cycle : Nat) (traces : List Nat) : Bool :=
  let x := v.toNat % 2 ^ 57
  match v.toNat / 2 ^ 60 with
  | 1 => pc = x
  | 2 => x ≤ cycle
  | 3 => traces.contains x
  | _ => false

/-- TRGCTL disarmed and closed. -/
def disarm (d : Debug) : Debug := { d with trgctl := d.trgctl &&& ~~~(0x300#64) }

/-- TRIGGER_CAPTURE (R411): a bundle of a named context opens an armed trigger, writes a capture record while it is open,
and closes it. -/
def capture (s : State) (c x pc : Nat) (traces : List Nat) : State :=
  let core := getCore s c
  let d := core.probe
  if enabled s 4 && d.trgctl.getLsbD x && d.trgctl.getLsbD 8 then
    let isOpen := d.trgctl.getLsbD 9 || triggerMeets d.trgstart pc core.cycle traces
    if isOpen then
      let s := addTrace s c (getCtx s c x).part (traceRecord s c x pc 0 1)
      let stops := triggerMeets d.trgstop pc core.cycle traces
      let set := fun (d : Debug) => if stops then disarm d else { d with trgctl := d.trgctl ||| 0x200#64 }
      modCore s c fun k => { k with probe := set k.probe }
    else s
  else s

/-- At the end of a cycle, an open trigger whose stop condition is the cycle count closes. -/
def captureTick (core : Core) : Core :=
  let d := core.probe
  if d.trgctl.getLsbD 9 ∧ d.trgstop.toNat / 2 ^ 60 = 2 ∧ d.trgstop.toNat % 2 ^ 57 ≤ core.cycle then
    { core with probe := disarm d }
  else core

/-! ### Profile counters (R410) -/

/-- The capacity of each class: scalar, vector lane groups, memory, matrix, control. -/
def profCapacity : List Nat := [2, 4, 2, 1, 3]
/-- The profile class of a resource, and how much of it one use takes. -/
def profUse : Resource → Nat × Nat
  | .scalar => (0, 1)
  | .vector width _ => (1, width / 256)
  | .memory => (2, 1)
  | .matrix => (3, 1)
  | .control => (4, 1)
  | .sequencer => (4, 1)
  | .system => (4, 1)

/-- A profile counter advanced. -/
def profAdd (d : Debug) (key n : Nat) : Debug := { d with prof := mput d.prof key ((mget d.prof key 0 + n) % 2 ^ 64) 0 }

/-- The level whose counters a context's bundles count in. -/
def profLevel (k : Ctx) : Option Nat := if k.loops = [] then none else some (k.loops.length - 1)

/-- A bundle that issues while a level is active: resources used and unused. -/
def profIssue (s : State) (c x : Nat) (rs : List Resource) : State :=
  match profLevel (getCtx s c x) with
  | none => s
  | some l =>
    if ¬ enabled s 4 then s
    else
      let used := fun (cls : Nat) => nsum ((rs.map profUse).map (fun u => if u.1 = cls then u.2 else 0))
      let add := fun (d : Debug) (e : Nat × Nat) =>
        profAdd (profAdd d (profKey x l e.2 0) (used e.2)) (profKey x l e.2 1) (e.1 - used e.2)
      modCore s c fun k => { k with probe := profCapacity.zipIdx.foldl add k.probe }

/-- A stall cycle counted in every class that holds a true-guarded slot that waits (R410). -/
def profStall (s : State) (c x : Nat) (rs : List Resource) : State :=
  match profLevel (getCtx s c x) with
  | none => s
  | some l =>
    if ¬ enabled s 4 then s
    else
      let cls := (rs.map (fun r => (profUse r).1)).eraseDups
      modCore s c fun k => { k with probe := cls.foldl (fun d e => profAdd d (profKey x l e 2) 1) k.probe }

end Sys2Proof.Machine
end

