-- ==== Sys2Proof/Machine/Cycle.lean ====
section
/-! DEFINITION. One cycle of a core as it passes, freezing at a bundle boundary, where the bundle stream goes next, and the
exchange with the shadow store (R55, R56, R58, R66, R75, R76, R378). -/

namespace Sys2Proof.Machine

/-! ### A cycle passes (R58, R318, R320) -/

/-- The contexts of a core one cycle on: results in flight and handles come nearer and land. -/
def tickCtxs (s : State) (c : Nat) : State :=
  { s with ctxs := s.ctxs.map (fun e => if e.1 / 8 = c then (e.1, tickWorks (tickHandles (tickFlights e.2))) else e) }

/-- Whether a context has matrix work on its core. -/
def matrixWork (core : Core) (k : Ctx) (x : Nat) : Bool :=
  let key := chainKey k x
  k.mq ≠ [] || (match core.array.cur with | some e => e.ctx = x | none => false) ||
  core.chains.any (fun ch => ch.ctx = key) || core.writes.any (fun w => w.ctx = key)

/-- The banks given up at YIELD.C go back to the pool once the context's matrix work is complete (R165). -/
def giveBanks (s : State) (c : Nat) : State :=
  (upTo 8).foldl (fun s x =>
    let k := getCtx s c x
    if k.giving = [] ∨ matrixWork (getCore s c) k x = true then s
    else
      let key := chainKey k x
      let s := modCore s c fun core =>
        { core with banks := core.banks.filter (fun b => ¬ (b.2.ctx = key ∧ k.giving.contains b.1 = true)) }
      modCtx s c x fun k => { k with giving := [] }) s

/-- The core of an island that counts its stretch episodes: the lowest that is active. -/
def countsIsland (s : State) (c : Nat) : Bool :=
  !isSampler c && (coresOf (islandOf c)).find? (fun d => coreBusy s d) = some c

/-- One cycle of a core passes. -/
def passCycle (s : State) (c : Nat) : State :=
  let core := getCore s c
  let len := cycleLen s c
  let fills := core.array.filler && !planeBusy core
  let counts := countsIsland s c
  let s := { s with time := max s.time core.tnext }
  let s := giveBanks (closeChains (modCore (tickCtxs s c) c arrayTick) c) c
  let s := modCore s c fun k => { captureTick k with cycle := core.cycle + 1, tnext := core.tnext + len, owned := core.owned + 1 }
  if isSampler c then s
  else
    let s := if counts then modIsland s (islandOf c) stretchTick else s
    if fills then modIsland s (islandOf c) fun i => { i with filler := i.filler + 1 } else s

/-- The fixed-latency results of a context `n` cycles on. -/
def flightsOn : Nat → Ctx → Ctx
  | 0, k => k
  | n + 1, k => flightsOn n (tickFlights k)

/-- The bundle boundary at which a context can be frozen, the end of the cycles for which its bundle holds issue (R55, R181): its
results as they stand then. The cycles themselves pass on the core after it has given up issue. -/
def toBoundary (s : State) (c x : Nat) : State :=
  if (getCore s c).owner = some x then modCtx s c x (flightsOn (getCore s c).held) else s

/-- A freeze that no fault caused, at the next bundle boundary. -/
def freezeNow (s : State) (c x : Nat) (st : Status) : State :=
  modCtx (freezeCtx (toBoundary s c x) c x) c x fun k => { k with status := st, wait := none }

/-! ### Where the bundle stream goes next (R66, R75, R76) -/

/-- The stride links of a level at an iteration's end: register and new value, read as the bundle reads it. -/
def linkWrites (k : Ctx) (m : Loop) : List (Nat × Nat) :=
  m.links.map (fun l => (l.2.1, narrow 64 ((readS k l.2.1).toNat + signed 32 l.2.2)))

/-- R75 over the levels, innermost first: the links that write, the levels with those that close marked, and the next PC if a
level decides it. -/
def loopEnds (k : Ctx) (pc : Nat) : List Loop → List (Nat × Nat) × List Loop × Option Nat
  | [] => ([], [], none)
  | m :: t =>
    if m.last = pc ∧ m.off = false then
      if m.count + 1 < m.trip ∧ m.brk = false then
        (linkWrites k m, { m with count := m.count + 1 } :: t, some m.first)
      else
        let (ls, t', next) := loopEnds k pc t
        (linkWrites k m ++ ls, { m with off := true } :: t', next.or (some (pc + 16)))
    else
      let (ls, t', next) := loopEnds k pc t
      (ls, m :: t', next)

/-- Levels, innermost first, without those that have closed above every active one; outermost first again. -/
def levelsLeft (ls : List Loop) : List Loop := (ls.dropWhile (fun m => m.off)).reverse

/-- The levels that a jump to a target leaves active (R76). -/
def loopsAt (ls : List Loop) (target : Nat) : List Loop :=
  levelsLeft (ls.takeWhile (fun m => m.off || (m.first ≤ target && target ≤ m.last))).reverse

/-- A bundle's address as the PC. -/
def asPc (a : Nat) : BitVec 57 := BitVec.ofNat 57 a

/-- The context after its bundle at PC has issued, with a taken transfer, a skipped loop body, or neither; and the stride
links that write. -/
def followOn (k : Ctx) (jump : Option (Nat × Bool)) (skip : Option Nat) : Ctx × List (Nat × Nat) :=
  let pc := k.pc.toNat
  let later := jump.map (fun j => (asPc j.1, j.2))
  match k.branch with
  | some (t, closes) =>
    let ls := if closes then loopsAt k.loops t.toNat else k.loops
    ({ k with pc := t, branch := later, loops := ls, iterEnd := ls = [] }, [])
  | none =>
    match jump, skip with
    | some _, _ => ({ k with pc := asPc (pc + 16), branch := later, iterEnd := false }, [])
    | none, some t => ({ k with pc := asPc t, iterEnd := false }, [])
    | none, none =>
      let (ls, rest, next) := loopEnds k pc k.loops.reverse
      let left := levelsLeft rest
      let outer := fun (l : List Loop) => (l.head?.map (fun m => (m.count, m.off)))
      ({ k with pc := asPc (next.getD (pc + 16)), loops := left, iterEnd := outer left ≠ outer k.loops }, ls)

/-- Whether a bundle is the last of an active level, where no transfer may be taken (R76): the level. -/
def lastOfLevel (k : Ctx) : Option Nat :=
  (k.loops.zipIdx.find? (fun m => m.1.last = k.pc.toNat && !m.1.off)).map (fun m => m.2)

/-- A context that meets YIELD.C (R70): no loop is active, its chain is closed (R157) and its write-back begins with the next
cycle (R156), its drain ends, and its banks go back once its matrix work is complete (R165). -/
def atContinuation (s : State) (c x : Nat) : State :=
  let mine := ((getCore s c).banks.filter (fun b => b.2.ctx = chainKey (getCtx s c x) x)).map (fun b => b.1)
  giveBanks (closeChains (modCtx s c x fun k =>
    { k with loops := [], mopen := none, drain := none, cont := true, giving := mine }) c) c

/-- A context that meets END (R71): no loop is active, its chain is closed (R156, R157), and its drain ends. -/
def atEnd (s : State) (c x : Nat) : State :=
  closeChains (modCtx s c x fun k => { k with status := .ending, loops := [], mopen := none, drain := none }) c

/-- Whether a register stays live across a continuation point. -/
def staysLive : Reg → Bool
  | .s n => 1 ≤ n && n ≤ 6
  | _ => false

/-- The state in which a context runs on from its continuation point (R70): that of dispatch, but for the PC, s1 to s6, s7,
and no loop level. Results of work issued before it reach only s1 to s6, and so do the faults held with them (log entry 63). -/
def fromContinuation (s : State) (c x : Nat) : State :=
  let k := getCtx s c x
  let s7 := match mfind s.tasks k.task with | some t => t.crVa | none => 0
  let n := freshCtx s c x k.part k.region k.task k.cr k.pc.toNat ((upTo 6).map (fun i => (readS k (i + 1)).toNat)) s7
  let keep := k.works.filter (fun w => match w.kind with | .value _ _ => staysLive w.reg | .timed _ _ => staysLive w.reg | _ => true)
  putCtx s c x { n with
    gang := k.gang, spawned := k.spawned, throt := k.throt, mq := k.mq, batch := k.batch, batch0 := k.batch, hold := k.hold, giving := k.giving
    works := keep.map (fun w => if staysLive w.reg then w else { w with reg := .none })
    flights := k.flights.filter (fun f => staysLive f.reg)
    deferred := k.deferred.filter (fun d => staysLive d.reg) }

/-! ### The shadow store (R378) -/

/-- The contexts of a core, by number. -/
def ctxsOf (s : State) (c : Nat) : Map Ctx := (s.ctxs.filter (fun e => e.1 / 8 = c)).map (fun e => (e.1 % 8, e.2))

/-- A core with no context of the partition in its shadow store. -/
def emptyShadow (part : Nat) : Shadow where
  part := part
  ctxs := []
  banks := []
  tiles := []
  tof := []
  tnv := []
  badRows := []
  tags := 0
  counts := []
  guard := []
  tlw := []

/-- The exchange of a core with its shadow store: the partition running there, `part`, goes out, and what the store holds
comes in. -/
def exchange (s : State) (c part : Nat) (incoming : Nat) : State :=
  let core := getCore s c
  let sh := match core.shadow with | some sh => sh | none => emptyShadow incoming
  let out : Shadow := {
    part := part, ctxs := ctxsOf s c, banks := core.banks, tiles := core.tiles, tof := core.tof, tnv := core.tnv,
    badRows := core.badRows, tags := core.tags, counts := core.counts, guard := core.guard, tlw := core.tlw }
  let rest := s.ctxs.filter (fun e => e.1 / 8 ≠ c)
  let s := { s with ctxs := sh.ctxs.foldl (fun m e => mset m (c * 8 + e.1) e.2) rest }
  modCore s c fun k => { k with
    shadow := some out, banks := sh.banks, tiles := sh.tiles, tof := sh.tof, tnv := sh.tnv, badRows := sh.badRows
    tags := sh.tags, counts := sh.counts, guard := sh.guard, tlw := sh.tlw }

/-- The partition of a core's shadow store. -/
def shadowPart (s : State) (c : Nat) : Option Nat := (getCore s c).shadow.map (fun sh => sh.part)

/-- What is done to a context that is swapped out: as it would be done on its core, on the shadow copy (R378). -/
def inShadow (s : State) (c : Nat) (f : State → State) : State :=
  match shadowPart s c with
  | none => s
  | some p =>
    let cur := (getIsland s (islandOf c)).cur.getD 8
    exchange (f (exchange s c cur p)) c p cur

end Sys2Proof.Machine
end

