-- ==== Sys2Proof/Machine/Isolation.lean ====
section
/-! DEFINITION. The shutter (R359–R362): matching handles are revoked and translations dropped, the agents acknowledge, and
the frames are scrubbed. -/

namespace Sys2Proof.Machine

/-- Whether two ranges of addresses meet. -/
def spanMeets (lo len a n : Nat) : Bool := lo < a + n && a < lo + len
/-- Whether a page meets a shutter's range. -/
def ShutterRun.hits (r : ShutterRun) (va size : Nat) : Bool :=
  r.all || spanMeets r.lo r.len (alignDown va (pageBits size)) (2 ^ pageBits size)
/-- Whether a handle's page meets it. -/
def ShutterRun.hitsHandle (r : ShutterRun) (h : Handle) : Bool := r.hits h.va.toNat h.size.toNat

/-- A handle the shutter revokes (R184, R360): no longer valid, its generation changed, its address and window kept. One whose
permissions are 00 has the fields that R184's table calls empty; here it counts as revoked, as R360 says, by a flag of its own (log
entry 95). -/
def revoke (h : Handle) : Handle := { h with valid := false, revoked := true, sought := false, gen := h.gen + 1 }

/-- The handles of a context after a shutter: those of a context halted by a debugger are all revoked (R361). A handle on
its way from an earlier lookup is revoked as it lands. -/
def shutCtx (r : ShutterRun) (k : Ctx) : Ctx :=
  let hit := fun (h : Handle) => h.valid && (r.hitsHandle h || k.status = .halted)
  { k with
    h := k.h.map (fun e => (e.1, if hit e.2 then revoke e.2 else e.2))
    hflights := k.hflights.map (fun f => if f.handle.valid && r.hitsHandle f.handle then
      { f with handle := { f.handle with valid := false, revoked := true } } else f) }

/-- The physical ranges of the pages that a shutter takes from a core. -/
def shutFrames (r : ShutterRun) (part : Nat) (core : Core) (ks : List Ctx) : List (Nat × Nat) :=
  let tlb := (core.tlb.filter (fun e => e.1 / 2 ^ 57 = part && r.hits e.2.va e.2.size)).map
    (fun e => (e.2.frame, 2 ^ pageBits e.2.size))
  let hs := ks.flatMap (fun k => (k.h.filter (fun e => e.2.valid && r.hitsHandle e.2)).map
    (fun e => (e.2.base.toNat, 2 ^ pageBits e.2.size.toNat)))
  (tlb ++ hs).eraseDups

/-- Step 2 of R360 on one core, its shadow store included (R361). -/
def shutCore (r : ShutterRun) (part : Nat) (core : Core) : Core :=
  { core with
    tlb := core.tlb.filter (fun e => ¬ (e.1 / 2 ^ 57 = part ∧ r.hits e.2.va e.2.size = true))
    blocks := core.blocks.filter (fun b => ¬ (b.part = part ∧ b.maps.any (fun m => r.hits m.1 m.2) = true))
    shadow := core.shadow.map (fun sh => if sh.part = part then
      { sh with ctxs := sh.ctxs.map (fun e => (e.1, shutCtx r e.2)) } else sh) }

/-- Whether a sampler core runs a partition, or still holds translations or blocks of it. -/
def samplerHolds (s : State) (part c : Nat) : Bool :=
  let core := getCore s c
  ((mfind s.ctxs (c * 8)).isSome && (getCtx s c 0).part = part) || core.tlb.any (fun e => e.1 / 2 ^ 57 = part) ||
  core.blocks.any (fun b => b.part = part)

/-- The cores that a partition's shutter is broadcast to: those of its islands, and the sampler cores that run it or have run
it. -/
def shutCores (s : State) (part : Nat) : List Nat :=
  let islands := match mfind s.parts part with | some p => p.islands | none => 0
  (upTo 40).filter (fun c => bitOf islands (c / 4)) ++
    ((upTo 8).map samplerCore).filter (samplerHolds s part)

/-- The agents that have to acknowledge: cores by number, and 100 + q for the engines of cluster q. -/
def shutAgents (s : State) (part : Nat) : List Nat :=
  let islands := match mfind s.parts part with | some p => p.islands | none => 0
  shutCores s part ++ ((upTo 10).filter (bitOf islands)).map (fun q => 100 + q)

/-- Whether a context's bundle is held at a wait on a word behind a page that a shutter takes: a DLBAR or a HACQ. -/
def waitsThrough (r : ShutterRun) (k : Ctx) : Bool :=
  k.status = .waiting && match k.wait with
    | some (.dlbar p _ _) => r.hits p.va p.size
    | some (.hacq p _) => r.hits p.va p.size
    | _ => false

/-- The bundles held at such waits are presented anew: they meet the revoked handle (R362). -/
def presentAnew (r : ShutterRun) (part : Nat) (s : State) : State :=
  (s.ctxs.filter fun e => e.2.part = part && waitsThrough r e.2).foldl (fun s e =>
    wakeCtx (modCtx s (e.1 / 8) (e.1 % 8) fun k => { k with wait := none }) (e.1 / 8) (e.1 % 8)) s

/-- Whether a shutter waits for an engine operation: it was accepted with a matching handle, whose captured copy the shutter
marked pending. -/
def opWaits (o : EngineOp) : Bool := o.handles.any (fun h => h.pending)
/-- The operations a partition's engines hold, those with a matching handle marked. -/
def shutOps (r : ShutterRun) (part : Nat) (e : Engine) : Engine :=
  let mark := fun (h : Handle) => if h.valid && r.hitsHandle h then { h with pending := true } else h
  { e with ops := e.ops.map (fun o => if o.part = part then { o with handles := o.handles.map mark } else o) }

/-- The contexts of a partition on a core, swapped out or not. -/
def partCtxs (s : State) (c part : Nat) : List Ctx :=
  let here : List Ctx := ((ctxsOf s c).map (fun (e : Nat × Ctx) => e.2)).filter (fun k => k.part = part)
  let away : List Ctx := match (getCore s c).shadow with
    | some sh => if sh.part = part then sh.ctxs.map (fun (e : Nat × Ctx) => e.2) else []
    | none => []
  here ++ away

/-- A shutter started (R360, steps 1 and 2). -/
def shutterStart (s : State) (part : Nat) : State :=
  match mfind s.parts part with
  | none => s
  | some p =>
    let r0 : ShutterRun := {
      lo := p.shva % 2 ^ 57 / 2 ^ 17 * 2 ^ 17, len := p.shlen * 2 ^ 17, all := bitOf p.shflags 1, scrub := bitOf p.shflags 2
      agents := shutAgents s part, frames := [], cores := shutCores s part, since := s.seq }
    let cores := r0.cores
    let frames := (cores.flatMap (fun c => shutFrames r0 part (getCore s c) (partCtxs s c part))).eraseDups
    let r := { r0 with frames := frames }
    let s := cores.foldl (fun s c => modCore s c (shutCore r part)) s
    let s := presentAnew r part s
    let s := { s with ctxs := s.ctxs.map (fun (e : Nat × Ctx) => if e.2.part = part then (e.1, shutCtx r e.2) else e) }
    let s := { s with engines := s.engines.map (fun (e : Nat × Engine) => (e.1, shutOps r part e.2)) }
    modPart s part fun p => { p with shutter := some r, shlost := false }

/-- SHUTTER_GO (R360): a write of GO, ignored and marked LOST while a shutter is in progress. -/
def shutterGo (s : State) (part : Nat) : State :=
  if answering s = false then s
  else match mfind s.parts part with
  | none => s
  | some p => if p.shutter.isSome then modPart s part fun p => { p with shlost := true } else shutterStart s part

/-- A write of SHCTL: LEN, ALL and SCRUB, and GO if it is set. -/
def shctlWrite (s : State) (part v : Nat) : State :=
  match mfind s.parts part with
  | none => s
  | some p =>
    if bitOf v 0 ∧ p.shutter.isSome then modPart s part fun p => { p with shlost := true }
    else
      let s := modPart s part fun p => { p with shlen := bitsOf v 32 32, shflags := v % 8 / 2 * 2 }
      if bitOf v 0 then shutterGo s part else s

/-- Where a global access that a piece of work makes goes. -/
def workPlace (w : Work) : Option Place :=
  match w.kind with
  | .gload p _ => some p
  | .gstore p _ _ => some p
  | .atomic _ _ p _ _ => some p
  | .unit (.hrel p _) => some p
  | _ => none

/-- Whether a context still has an access under way that was issued through a revoked handle (R360, step 3), the rest of a granted
HACQ among them; a context that is frozen, halted or swapped out delays nothing (R361). -/
def shutWaits (s : State) (r : ShutterRun) (c x : Nat) (k : Ctx) : Bool :=
  let live : Bool := k.status ≠ .frozen && k.status ≠ .halted && k.status ≠ .swapped
  live && (k.works.any (fun w => w.id ≤ r.since && (match workPlace w with | some p => r.hits p.va p.size | none => false)) ||
    k.hold.any (fun h => match h with | .hatch p _ => r.hits p.va p.size | _ => false) ||
    s.stores.any (fun w => w.agent = .ctx c x && w.id ≤ r.since && r.frames.any (fun f => spanMeets f.1 f.2 w.pa w.n)))

/-- Whether an agent may acknowledge. -/
def shutReady (s : State) (part : Nat) (r : ShutterRun) (agent : Nat) : Bool :=
  if agent < 100 then
    !((upTo 8).any (fun x => let k := getCtx s agent x; k.part = part && shutWaits s r agent x k))
  else
    !s.engines.any (fun e => e.2.ops.any (fun o => o.part = part && o.core / 4 = agent - 100 && opWaits o))

/-- SHUTTER_ACK (R360, R361). -/
def shutterAck (s : State) (part agent : Nat) : State :=
  match mfind s.parts part with
  | none => s
  | some p =>
    match p.shutter with
    | none => s
    | some r =>
      if r.agents.contains agent && shutReady s part r agent then
        modPart s part fun p => { p with shutter := some { r with agents := r.agents.filter (· ≠ agent) } }
      else s

/-- Whether write-backs into the frames of dropped translations are still on their way to their slices. -/
def scrubOut (s : State) (r : ShutterRun) : Bool :=
  r.cores.any fun c => r.frames.any fun f => cacheOut s c f.1 f.2

/-- SHUTTER_COMPLETE (R360, steps 4 and 5): the shutter ends once the write-backs of a SCRUB are performed. A PMAP that asked
for the shutter returns. -/
def shutterComplete (s : State) (part : Nat) : State :=
  match mfind s.parts part with
  | none => s
  | some p =>
    match p.shutter with
    | none => s
    | some r =>
      if r.agents ≠ [] then s
      else
        let s := if r.scrub then
            r.cores.foldl (fun s c => r.frames.foldl (fun s f => flushRange s c f.1 f.2) s) s
          else s
        if r.scrub ∧ scrubOut s r = true then s else
        let s := modPart s part fun p => { p with shutter := none, shseq := p.shseq + 1 }
        if s.control.fcmd = some (0x109, part) then { s with control := { s.control with fcmd := none } } else s

end Sys2Proof.Machine
end

