-- ==== Sys2Proof/Machine/Recovery.lean ====
section
/-! DEFINITION. What firmware does about faults: its handlers in order, reports to fault domains, dispositions, stopped
partitions, swaps of an island, and the test of a failing row (R371–R378, R386). -/

namespace Sys2Proof.Machine

/-! ### Stopping and resuming a partition (R371, R396) -/

/-- The contexts of a partition that are resident, as core and number. -/
def residents (s : State) (part : Nat) : List (Nat × Nat) :=
  (s.ctxs.filter (fun e => e.2.part = part)).map (fun e => (e.1 / 8, e.1 % 8))

/-- Every context of a partition that could run freezes, and its queued tasks stay queued. -/
def haltPartition (s : State) (part : Nat) : State :=
  let s := (residents s part).foldl (fun s e =>
    let st := (getCtx s e.1 e.2).status
    if st = .ready ∨ st = .waiting then freezeNow s e.1 e.2 .stopped else s) s
  modPart s part fun p => { p with stopped := true }

/-- PARTITION_STOP (R371, step 4): the host is told the partition, the code and the time. -/
def stopPartition (s : State) (part code : Nat) : State :=
  (postEvent (haltPartition s part) 2 part [code, timeNs s] []).1

/-- A partition resumed: every stopped context is ready, and its tasks are dispatched. -/
def resumePartition (s : State) (part : Nat) : State :=
  let s := modPart s part fun p => { p with stopped := false }
  let s := (residents s part).foldl (fun s e => modCtx s e.1 e.2 fun k =>
    if k.status = .stopped then { k with status := runStatus s e.1 part } else k) s
  ((upTo 10).filter (fun i => (getIsland s i).cur = some part)).foldl dispatch s

/-! ### Faults before firmware (R371, R374, R375) -/

/-- A fault before firmware changed. -/
def setFault (s : State) (i : Nat) (it : FaultItem) : State := { s with faults := setAt s.faults i it }
/-- A fault done with. -/
def dropFault (s : State) (i : Nat) : State := { s with faults := s.faults.take i ++ s.faults.drop (i + 1) }

/-- The context a fault froze, on the core where it is resident. -/
def faultCtx (s : State) (it : FaultItem) : Option (Nat × Nat) :=
  match it.core with
  | none => none
  | some c =>
    let k := getCtx s c it.ctx
    if k.part = it.part ∧ k.status = .frozen then some (c, it.ctx) else none

/-- Whether a fault has no frozen context to act on: a runaway trigger or a sampling job (R375). -/
def FaultItem.loose (it : FaultItem) : Bool := match it.core with | none => true | some c => isSampler c

/-- The task of a fault's context, resident or swapped out. -/
def faultTask (s : State) (it : FaultItem) : Option Nat :=
  match it.core with
  | none => none
  | some c =>
    let k := getCtx s c it.ctx
    if k.part = it.part then some k.task
    else match (getCore s c).shadow with
      | some sh => (mfind sh.ctxs it.ctx).map (fun k => k.task)
      | none => none

/-- A frame written with zeros by firmware under its new domain (R358), line by line at its slices as every store (R13). Nothing
written before reaches it any more, nor do line caches keep a copy of it. -/
def zeroFrame (s : State) (f : Nat) : State :=
  (List.range 1024).foldl (fun s i => sliceStore s .control 0 (f * 2 ^ 17 + 128 * i) 128 0 (ones 128))
    { s with
      stores := s.stores.filter (fun w => w.pa / 2 ^ 17 ≠ f)
      cores := s.cores.map (fun e => (e.1, { e.2 with lines := e.2.lines.filter (fun l => l.1 / 2 ^ 10 ≠ f) }))
      cluLines := s.cluLines.filter (fun l => l.line / 2 ^ 10 ≠ f) }

/-- Whether a frame is free: of domain 0, not retired, and in no kettle. -/
def frameFree (s : State) (f : Nat) : Bool :=
  mget s.owners f 0 = 0 && !s.retiredFrames.contains f && !s.kettles.any (fun e => e.2.contains f)
/-- A kettle refilled by firmware with a zeroed frame of its choice, where that is free (R363; log entry 6). -/
def refillKettle (s : State) (d : Nat) : State :=
  let f := (Config.kettleFrame s.free).toNat
  bumpFree (if frameFree s f then { zeroFrame s f with kettles := mset s.kettles d (mget s.kettles d [] ++ [f]) } else s)

/-- The context that a fault froze changed, resident or swapped out, with the other ranks of its gang. -/
def onFrozen (s : State) (it : FaultItem) (f : Ctx → Ctx) : State :=
  let set := fun (k : Ctx) => if k.status = .frozen then f k else k
  match faultCtx s it, it.core, faultTask s it with
  | some (c, x), _, _ => (gangCores s c x).foldl (fun s r => modCtx s r x set) s
  | none, some c, some t =>
    let away := fun (sh : Shadow) => { sh with ctxs := sh.ctxs.map (fun e =>
      if e.1 = it.ctx ∧ e.2.task = t ∧ e.2.part = it.part then (e.1, set e.2) else e) }
    { s with cores := s.cores.map (fun e => if e.1 / 4 = c / 4 then (e.1, { e.2 with shadow := e.2.shadow.map away }) else e) }
  | _, _, _ => s

/-- A context that a fault stopped with its partition runs on with it; a sampler core restarts (R333). -/
def stopFrozen (s : State) (it : FaultItem) : State :=
  if it.loose then s else onFrozen s it fun k => { k with status := .stopped }

/-- The rest of the search of R371 once firmware could not resolve a fault: the fault domain, or the partition stops. -/
def passOn (s : State) (i : Nat) (it : FaultItem) : State :=
  let domain := match (faultTask s it).bind (fun t => mfind s.tasks t) with | some t => t.domain | none => false
  if (getRegion s (regionKey it.part it.region)).faultcr ≠ 0 ∧ domain = false then setFault s i { it with stage := .domain }
  else stopPartition (dropFault (stopFrozen s it) i) it.part it.code

/-- A fault that goes to the debugger (R371): its context is halted. -/
def toDebugger (s : State) (it : FaultItem) : State := onFrozen s it fun k => { k with status := .halted }
/-- Whether the debugger has already asked for a context's resumption that stands frozen by its fault (R411). -/
def askedOn (s : State) (it : FaultItem) : Bool :=
  match faultCtx s it with | some (c, x) => (getCore s c).probe.resumes.contains x | none => false
/-- That request taken up. -/
def forgetAsk (s : State) (it : FaultItem) : State :=
  match it.core with
  | some c => modCore s c fun k => { k with probe := { k.probe with resumes := k.probe.resumes.filter (· ≠ it.ctx) } }
  | none => s

/-- The bundle of a resolved fault is issued again; that of a context swapped out, once it is back. -/
def reissue (s : State) (it : FaultItem) : State :=
  match faultCtx s it with
  | some (c, x) => resumeCtx s c x
  | none => onFrozen s it fun k => { k with status := .swapped }

/-- One fault offered to its handlers in order. A PAGE_FAULT that arose at an empty kettle is resolved by a frame there, which an
earlier one may have brought (R363, R371). -/
def serveFault (s : State) (i : Nat) (it : FaultItem) : State :=
  let resolved := fun (s : State) => dropFault (reissue s it) i
  match it.stage with
  | .fresh =>
    if it.code = codeDebug then dropFault (if askedOn s it then reissue (forgetAsk s it) it else toDebugger s it) i
    else if it.loose then passOn s i it
    else
      match it.kettle with
      | some d => resolved (if mget s.kettles d [] = [] then refillKettle s d else s)
      | none =>
        let serviced := (it.code = codePageFault || it.code = codePerm) && enabled s 2 &&
          (match mfind s.parts it.part with | some p => p.fsvc | none => false)
        if serviced then
          let (s, seq) := postEvent s 1 it.part [] it.record
          setFault s i { it with stage := .driver seq }
        else passOn s i it
  | .answered true => resolved s
  | .answered false => passOn s i it
  | _ => s

/-- The first fault, with its place, at a stage. -/
def firstFault (s : State) (f : FaultItem → Bool) : Option (FaultItem × Nat) := s.faults.zipIdx.find? (fun e => f e.1)

/-- FIRMWARE_FAULT_SERVICE (R371): the first fault that firmware has not yet placed, or whose answer has come. -/
def faultService (s : State) : State :=
  match firstFault s (fun it => match it.stage with | .fresh => true | .answered _ => true | _ => false) with
  | some (it, i) => serveFault s i it
  | none => s

/-- FSRESP_WRITE (R400): the driver's answer; one that names no outstanding request is ignored. -/
def fsresp (s : State) (v : Nat) : State :=
  match firstFault s (fun it => it.stage = .driver (v % 2 ^ 32)) with
  | some (it, i) => setFault s i { it with stage := .answered (bitOf v 32) }
  | none => s

/-! ### Reports to the fault domain (R372, R374) -/

/-- A 64-byte record or ring that firmware reads through a partition's tables: its physical address. -/
def firmwarePa (s : State) (part va n perm : Nat) : State × Option Nat :=
  match walk s part (forPart part) va with
  | (s, .inr _) => (s, none)
  | (s, .inl l) =>
    let pa := leafPa l va
    let fits := va % 2 ^ pageBits l.size + n ≤ 2 ^ pageBits l.size
    (s, if fits ∧ Nat.land l.perm perm = perm ∧ (isLpddr pa || isHostMem pa) = true then some pa else none)

/-- The faults that may have their reports written next: in a region, reports keep the order in which faults froze. -/
def reportables (s : State) : List (FaultItem × Nat) :=
  s.faults.zipIdx.filter (fun e => e.1.stage = .domain && !(s.faults.take e.2).any (fun d =>
    d.part = e.1.part && d.region = e.1.region && (match d.stage with | .reported _ _ => false | .pushed _ _ _ => false | _ => true)))

/-- What a fault domain's template gives: the words, the ring's virtual and physical address and size, the task's region;
`none` where the fault domain cannot be used. -/
def reportRing (s : State) (it : FaultItem) : State × Option (List Nat × Nat × Nat × Nat × Nat) :=
  let cr := (getRegion s (regionKey it.part it.region)).faultcr
  match firmwarePa s it.part cr 64 1 with
  | (s, none) => (s, none)
  | (s, some pa) =>
    if linePoison s (pa / 128) then (s, none)
    else
      let (s, ws) := unitWords s 0 pa 8
      let s4 := wordAt ws 5
      let ringl := s4 % 16
      let va := s4 % 2 ^ 57 / 128 * 128
      let rk := regionKey it.part (wordAt ws 1 % 2 ^ 12)
      if 8 < ringl ∨ mfind s.regions rk = none then (s, none)
      else match firmwarePa s it.part va (128 * 2 ^ ringl) 3 with
        | (s, none) => (s, none)
        | (s, some rpa) => (s, some (ws, va, rpa, ringl, rk))

/-- The report of a fault written, and the fault-domain task pushed onto the TASK queue of its region, as R257 pushes one (R372);
a fault waits while the next report of its ring is not free, or that queue is full, and stops its partition where the fault domain cannot be used (R374). -/
def reportOne (s : State) (it : FaultItem) (i : Nat) : Option State :=
    match reportRing s it with
    | (s, none) => some (stopPartition (dropFault (stopFrozen s it) i) it.part it.code)
    | (s', some (ws, va, rpa, ringl, rk)) =>
      let n := match mfind s'.parts it.part with | some p => mget p.rings va 0 | none => 0
      let idx := n % 2 ^ ringl
      let pa := rpa + 128 * idx
      let (s', d) := unitWords s' 0 (pa + 0x40) 1
      let tq := (getRegion s' rk).tq
      let room := match mfind s'.queues tq with | some u => decide (u.items.length < u.cap) | none => false
      if bitOf (wordAt d 0) 63 ∨ room = false then none
      else some <|
        let npc := (Config.reportNpc s'.free).toNat / 16 * 16
        let body := (it.record ++ List.replicate 8 0).take 8 ++ [2 ^ 63 + 3, npc] ++ (it.args ++ List.replicate 6 0).take 6
        let s := storeAt s' .control 0 pa 128 (ofElems 64 body) (ones 128)
        let s := modPart s it.part fun p => { p with rings := mset p.rings va (n + 1) }
        let cr := setAt (setAt ws 6 (va + 128 * idx)) 7 (it.code % 256 + idx * 256)
        let at_ := (Config.firmwareCr s.free).toNat
        (queuePush (setFault (bumpFree s) i { it with stage := .pushed pa at_ cr }) tq at_).1

/-- FAULT_REPORT_WRITE (R372): the first report that can be written; one whose ring is full holds back its own region alone. -/
def reportWrite (s : State) : State := ((reportables s).findSome? fun e => reportOne s e.1 e.2).getD s

/-! ### Dispositions (R373) -/

/-- A context of a killed task: it runs no more bundles, and is freed as after END once its work has drained (R71). -/
def killCtx (k : Ctx) : Ctx :=
  { k with status := .ending, flights := [], snap := [], hold := [], wait := none, loops := [], mopen := none, drain := none
           deferred := [], branch := none }

/-- KILL (R373): every context of the task ends, and leaves the queues in which it waits; its holdings end once what it has in
hand is done. -/
def killTask (s : State) (id : Nat) : State :=
  let mine := ((s.ctxs.filter (fun e => e.2.task = id && e.1 < 320)).map (fun e => (e.1 / 8, e.1 % 8)))
  let away := s.cores.flatMap (fun e => match e.2.shadow with
    | some sh => (sh.ctxs.filter (fun k => k.2.task = id)).map (fun k => (e.1, k.1, sh.part))
    | none => [])
  let gone := mine.map (fun e => (e.1, e.2, (getCtx s e.1 e.2).part)) ++ away
  let s := gone.foldl (fun s e => leaveQueues s e.1 e.2.1 e.2.2) s
  let s := mine.foldl (fun s e => modCtx (releaseIssue (toBoundary s e.1 e.2) e.1 e.2 23) e.1 e.2 killCtx) s
  let shut := fun (sh : Shadow) => { sh with ctxs := sh.ctxs.map (fun e => (e.1, if e.2.task = id then killCtx e.2 else e.2)) }
  modTask { s with cores := s.cores.map (fun e => (e.1, { e.2 with shadow := e.2.shadow.map shut })) } id fun t => { t with kill := true }

/-- Whether a frozen context could be a continuation (R70), on every rank of a gang. -/
def redirectable (s : State) (c x : Nat) : Bool :=
  (gangCores s c x).all (fun r =>
    let k := getCtx s r x
    k.works = [] && k.hflights = [] && !matrixWork (getCore s r) k x && !engineBusy s r x k.part && !siblings s r x)

/-- REDIRECT (R373): the context is a continuation at NPC, with s1 to s6 from ARGS. -/
def redirectCtx (s : State) (c x npc : Nat) (args : List Nat) : State :=
  (gangCores s c x).foldl (fun s r =>
    modCtx (atContinuation s r x) r x fun k =>
      let k := args.zipIdx.foldl (fun k a => writeS k (a.2 + 1) (BitVec.ofNat 64 a.1)) k
      { k with status := runStatus s r k.part, pc := asPc (npc / 16 * 16), branch := none, flights := [], snap := [], deferred := []
               due := .none }) s

/-- SKIP (R373): the context resumes at the bundle that would follow had every slot been false-guarded. -/
def skipBundle (s : State) (c x : Nat) : State :=
  resumeCtx ((gangCores s c x).foldl (fun s r =>
    modCtx s r x fun k =>
      let (k', ls) := followOn k none none
      ls.foldl (fun k w => writeS k w.1 (BitVec.ofNat 64 w.2)) k') s) c x

/-- The disposition of one report whose task has retired, and its FULL bit cleared (R373); `none` while its context is swapped
out, or may not yet be redirected. -/
def dispose (s : State) (it : FaultItem) (i : Nat) : Option State :=
  let pa := match it.stage with | .reported pa _ => pa | _ => 0
  let (s', ws) := unitWords s 0 (pa + 0x40) 8
  let done := fun (s : State) => some (storeAt (dropFault s i) .control 0 (pa + 0x40) 8 (wordAt ws 0 % 2 ^ 63) (ones 8))
  if it.loose then done s'
  else match faultCtx s' it with
    | none =>
      -- swapped out: firmware waits; gone: nothing is left to act on
      if (it.core.bind (fun c => shadowPart s' c)) = some it.part then none else done s'
    | some (c, x) =>
      let r := getRegion s' (regionKey it.part it.region)
      match (if r.cancel then 3 else wordAt ws 0 % 8) with
      | 0 => done (resumeCtx s' c x)
      | 1 => done (skipBundle s' c x)
      | 2 => if redirectable s' c x then done (redirectCtx s' c x (wordAt ws 1) ((ws.drop 2).take 6)) else none
      | _ => done (killTask s' (getCtx s' c x).task)

/-- The open chains of contexts that wait to be redirected are closed, so that R70 can come to allow it. -/
def closeWaiting (s : State) (its : List FaultItem) : State :=
  its.foldl (fun s it => match faultCtx s it with
    | some (c, x) => (gangCores s c x).foldl (fun s r => closeChains (modCtx s r x fun k => { k with mopen := none }) r) s
    | none => s) s

/-- Whether a task has retired. -/
def taskOver (s : State) (id : Nat) : Bool := match mfind s.tasks id with | some t => t.state = .retired | none => true
/-- The reports whose tasks have retired. -/
def answeredReports (s : State) : List (FaultItem × Nat) :=
  s.faults.zipIdx.filter (fun e => match e.1.stage with | .reported _ t => taskOver s t | _ => false)

/-- Whether a report asks for REDIRECT. -/
def asksRedirect (s : State) (it : FaultItem) : Bool :=
  match it.stage with
  | .reported pa _ => !it.loose && !(getRegion s (regionKey it.part it.region)).cancel && readNat s.mem (pa + 0x40) 8 % 8 = 2
  | _ => false

/-- FAULT_DISPOSITION (R373): the first report that can be acted on. One that must wait holds back no other. -/
def disposition (s : State) : State :=
  match (answeredReports s).findSome? (fun e => dispose s e.1 e.2) with
  | some s => s
  | none => closeWaiting s (((answeredReports s).map fun e => e.1).filter (asksRedirect s))

/-- SAMPLER_RESTART (R333): once its fault is reported, the sampler's handles are dropped and its hatch holdings ended; what the
job has in hand completes; the line cache is written back and invalidated; and the context is cleared. -/
def samplerRestart (s : State) (n : Nat) : State :=
  let c := samplerCore n
  let waits := s.faults.any (fun it => it.core = some c && (match it.stage with | .reported _ _ => false | .pushed _ _ _ => false | _ => true))
  if ¬ ((mfind s.ctxs (c * 8)).isSome ∧ (getCtx s c 0).status = .frozen ∧ waits = false) then s
  else
    let s := modCtx s c 0 (emptyHandles fun _ => true)
    let (s, ended) := endHoldings s (getCtx s c 0).task [c]
    if ended = false ∨ (getCtx s c 0).works ≠ [] ∨ s.stores.any (fun w => w.agent = .ctx c 0) = true then s
    else
      let s := flushAll s c
      if cacheOut s c 0 (2 ^ 48) then s else endJob (goneCtx (modCore s c fun k => { k with owner := none }) c 0) n

/-! ### Partition swaps (R377, R378) -/

/-- SWAP_ORDER (R377, R378, step 1): every outgoing context freezes at its next bundle boundary. `fault` gives what comes of a
fault found at that bundle, which wins (R370). -/
def swapOrder (fault : State → Nat → Nat → Option State) (s : State) (i part : Nat) : State :=
  let isl := getIsland s i
  match isl.cur, mfind s.parts part with
  | some out, some p =>
    let may := match mfind s.parts out with | some q => q.slice ≠ 0 | none => false
    if out = part ∨ ¬ bitOf p.islands i ∨ p.slice = 0 ∨ may = false ∨ (mfind s.swaps i).isSome ∨ isl.gated then s
    else
      let s := (residents s out).foldl (fun s e =>
        let st := (getCtx s e.1 e.2).status
        if e.1 / 4 = i ∧ (st = .ready ∨ st = .waiting) then (fault s e.1 e.2).getD (freezeNow s e.1 e.2 .swapped) else s) s
      { s with swaps := mset s.swaps i { outgoing := out, incoming := part } }
  | _, _ => s

/-- Whether a core's array has served the outgoing queues (R378, step 2). -/
def drained (s : State) (c : Nat) : Bool :=
  let core := getCore s c
  core.array.cur.isNone && core.array.busy = 0 && core.writes = [] && core.held = 0 &&
  (upTo 8).all (fun x => (getCtx s c x).mq = [] && (getCtx s c x).hflights = [])

/-- A context that comes in with its partition. -/
def swapIn (stopped : Bool) (k : Ctx) : Ctx :=
  if k.status = .swapped ∨ k.status = .stopped then { k with status := if stopped then .stopped else .ready } else k

/-- SWAP_EXCHANGE (R378, steps 2 to 4): open chains park, every core is exchanged with its shadow store, and the incoming
contexts are ready. Where a confidential partition takes part, line caches are written back and invalidated (R366); what a partition that
does not consent has counted is not left to be read (R412). -/
def swapExchange (s : State) (i : Nat) : State :=
  match mfind s.swaps i with
  | none => s
  | some w =>
    if ¬ ((coresOf i).all (drained s) = true) then s
    else
      let secret := domainOf s w.outgoing ≠ 0 || domainOf s w.incoming ≠ 0
      let stopped := match mfind s.parts w.incoming with | some p => p.stopped | none => true
      let s := (coresOf i).foldl (fun s c =>
        let s := if secret then flushAll s c else s
        let s := if consents s w.outgoing 0 then s else modCore s c fun k => { k with probe := { k.probe with prof := [] } }
        let s := modCore s c fun k => { k with chains := k.chains.map (fun ch => { ch with parked := true }) }
        let s := exchange s c w.outgoing w.incoming
        { s with ctxs := s.ctxs.map (fun (e : Nat × Ctx) => if e.1 / 8 = c then (e.1, swapIn stopped e.2) else e) }) s
      dispatch (modIsland { s with swaps := mdel s.swaps i } i fun isl => { isl with cur := some w.incoming }) i

/-! ### The test of a failing row (R386) -/

/-- What an error that was not corrected has left (R383, R385), by the low bits of a number: 1 a poisoned line, or a poisoned
word: 2 of a core's scratchpad, 3 of its cluster's memory, 4 of the chip scratchpad, 5 of its lanes' memory; the line or word is
the rest of the number. Otherwise the error was corrected. -/
def leavePoison (s : State) (core left : Nat) : State :=
  let n := left / 8
  match left % 8 with
  | 1 => markBad s n true
  | 2 => modCore s core fun k => { k with poison := (k.poison ++ [n % 2 ^ 32]).eraseDups }
  | 3 => { s with badCluster := (s.badCluster ++ [islandOf core * 2 ^ 20 + n % 2 ^ 20]).eraseDups }
  | 4 => { s with badChip := (s.badChip ++ [n]).eraseDups }
  | 5 => modCore s core fun k => { k with poison := (k.poison ++ [2 ^ 32 + n]).eraseDups }
  | _ => s

/-- The register entry that a number names, with its context: bits 2:0 the file (1 s, 2 the pair of predicates, 3 the pair of
lane predicates, 4 v, 5 k, 6 h), bits 5:3 the context, and the entry above. -/
def entryOf (left : Nat) : List (Nat × Reg) :=
  let x := left / 8 % 8
  let n := left / 64
  match left % 8 with
  | 1 => [(x, .s n)]
  | 2 => [(x, .p n)]
  | 3 => [(x, .q n)]
  | 4 => [(x, .v n)]
  | 5 => [(x, .k n)]
  | 6 => [(x, .h n)]
  | _ => []

/-- ERROR_ROW_TEST_DONE: the resource is named by a number: bits 1:0 what it is (0 SRAM, 1 LPDDR-6, 2 a register file, 3 any
other), bit 2 that no spare is left, bits 8:3 the core, bits 11:9 the partition, and the frame above. Of a register file, `left`
names the entry, which is whole again if the test passes; of the rest, what the error left poisoned. -/
def rowTest (s : State) (id left : Nat) (pass : Bool) : State :=
  let part := bitsOf id 9 3
  let core := bitsOf id 3 6
  let frame := id / 2 ^ 12
  let s := if id % 4 = 2 then s else leavePoison s core left
  if pass then
    let s := if id % 4 = 2 then modCore s core fun k => { k with failed := k.failed.filter (fun e => !(entryOf left).contains e) } else s
    modPart s part fun p => { p with transient := p.transient + 1 }
  else
    let s := modPart s part fun p => { p with lasting := p.lasting + 1 }
    match id % 4 with
    | 1 =>
      let s := { s with retiredFrames := (s.retiredFrames ++ [frame]).eraseDups }
      (postEvent s 5 part [frame] []).1
    | 2 => modCore s core fun k => { k with fenced := true, failed := (k.failed ++ entryOf left).eraseDups }
    | _ => if bitOf id 2 then modCore s core fun k => { k with fenced := true } else s

/-- An error in state that partitions share (R371): the module as a whole stops (log entry 30). -/
def deviceFatal (s : State) : State := (s.parts.map (fun e => e.1)).foldl (fun s p => stopPartition s p codePoison) s

/-- A data flit that arrives poisoned (R383): by the low bits of a number, 0 the line that a load in hand on a core is to fetch
into its line cache, 1 a store on its way to its slice, 2 a scratchpad load in hand; the rest of it names the line or the
access. -/
def flitBad (s : State) (core n : Nat) : State :=
  let id := n / 4
  match n % 4 with
  | 0 =>
    let fetches := fun (x : Nat) => (getCtx s core x).works.any fun w => match w.kind with
      | .gload p as => p.bind = 0 && !isMmio p.pa && p.pa / 128 = id && !lineHit s core p.pa as.bytes
      | _ => false
    match (upTo 8).find? fetches with
    | some x =>
      modCore (lineFill s core (getCtx s core x).task id) core fun k =>
        { k with lines := k.lines.map fun e => if e.1 = id then (e.1, { e.2 with poison := true }) else e }
    | none => s
  | 1 => { s with stores := s.stores.map fun w => if w.id = id then { w with bad := true } else w }
  | 2 =>
    match (upTo 8).findSome? fun x => ((getCtx s core x).works.find? fun w => w.id = id).map fun w => (x, w) with
    | some (x, w) => match w.kind with
      | .levelLoad _ a => landPoison s core x w (a % 2 ^ 57)
      | _ => s
    | none => s
  | _ => s

/-- What a detected and uncorrected error leaves (R383), by its kind: 1 a register-file entry of a core fails its parity check
till it is tested; 2 scalar or address arithmetic of a core; 3 a memory, as of `leavePoison`; 4 a line of a core's line cache;
5 a tile-bank row of a core; 6 a control flit, or other state that partitions share; 7 a data flit in flight, as of `flitBad`.
Kind 0 is the host link's own, corrected by replay. -/
def errorDetect (s : State) (kind core n : Nat) : State :=
  match kind with
  | 1 => modCore s core fun k => { k with failed := (k.failed ++ entryOf n).eraseDups }
  | 2 => modCore s core fun k => { k with residue := true }
  | 3 => leavePoison s core n
  | 4 => modCore s core fun k => { k with lines := k.lines.map (fun e => if e.1 = n then (e.1, { e.2 with poison := true }) else e) }
  | 5 => modCore s core fun k => { k with badRows := (k.badRows ++ [n]).eraseDups }
  | 6 => deviceFatal s
  | 7 => flitBad s core n
  | _ => s

/-- LINK_ERROR (R383): an error on a hop or in a memory is detected. One of the host link is reported with the error log, a word
of 64 bits; the kinds of other errors stand above it, with the core and what it struck in it. -/
def linkErrorEvent (s : State) (log : Nat) : State :=
  if log < 2 ^ 64 then (postEvent s 4 0 [log] []).1
  else errorDetect s (log / 2 ^ 64 % 8) (log % 2 ^ 6) (log % 2 ^ 64 / 2 ^ 6)

end Sys2Proof.Machine
end

