-- ==== Sys2Proof/Machine/Stream.lean ====
section
/-! DEFINITION. The Narenacy streams (R401–R405): their registers, the fetching of words, the packets, and regions as LAUNCH
creates, cancels and destroys them (R280–R282, R297, R299, R343, R364). -/

namespace Sys2Proof.Machine

/-! ### Streams and their registers (R401) -/

/-- The key of a stream. -/
def streamKey (part n : Nat) : Nat := part * 64 + n
/-- A stream. -/
def getStream (s : State) (part n : Nat) : Stream := mget s.streams (streamKey part n) {}
/-- The state with a stream changed. -/
def modStream (s : State) (part n : Nat) (f : Stream → Stream) : State :=
  { s with streams := mset s.streams (streamKey part n) (f (getStream s part n)) }

/-- The size of a ring in bytes. -/
def Stream.bytes (t : Stream) : Nat := 2 ^ t.size
/-- SIZE as it is taken: 12 to 24, other values as 12. -/
def ringSize (n : Nat) : Nat := if 12 ≤ n ∧ n ≤ 24 then n else 12

/-- A write of CSBASE: it changes only while EN is 0. -/
def csbaseWrite (s : State) (part n v : Nat) : State :=
  modStream s part n fun t => if t.en then t else { t with base := v % 2 ^ 57 / 4096 * 4096 }

/-- RESET: the ring is empty, the stream not halted, and every fetched word discarded. -/
def resetStream (t : Stream) : Stream :=
  { t with head := 0, tail := 0, halt := false, fetched := [], buffers := [], loops := [], skip := 0, wait := none
           created := false, reloaded := false, pushing := false }

/-- A write of CSCTL (R401): RESET is acted on, and SIZE changes, only where EN was 0. In FAILED it does not answer (R391). -/
def csctl (s : State) (part n v : Nat) : State :=
  if answering s = false then s
  else modStream s part n fun t =>
    let t' := if t.en then t
      else
        let t := if bitOf v 9 then resetStream t else t
        let z := ringSize (v % 32)
        { t with size := z, head := t.head % 2 ^ z, tail := t.tail % 2 ^ z }
    { t' with en := bitOf v 8 }

/-- A write of CSTAIL: an offset modulo the ring's size, in words. -/
def cstail (s : State) (part n v : Nat) : State :=
  if answering s = false then s
  else modStream s part n fun t => { t with tail := v % t.bytes / 8 * 8 }

/-- CSSTAT. -/
def csstat (t : Stream) : Nat :=
  t.off % 2 ^ 32 * 2 ^ 32 + t.lvl % 4 * 2 ^ 16 + t.reason % 2 ^ 8 * 2 ^ 8 + t.err % 2 ^ 4 * 2 ^ 4 + natOf t.halt

/-! ### Where a stream stands, and its words (R402, R405) -/

/-- The level of the executing buffer. -/
def Stream.level (t : Stream) : Nat := t.buffers.length
/-- The offset of the next packet in its buffer, at a level. -/
def Stream.posAt (t : Stream) (lvl : Nat) : Nat := if lvl = 0 then t.head else (nth t.buffers (lvl - 1) ⟨0, 0, 0⟩).pos
/-- The bytes from there on that are covered, or lie in the buffer. -/
def Stream.roomAt (t : Stream) (lvl : Nat) : Nat :=
  if lvl = 0 then (t.tail + t.bytes - t.head) % t.bytes
  else let b := nth t.buffers (lvl - 1) ⟨0, 0, 0⟩; b.len - b.pos
/-- The virtual address of an offset, a ring's wrapping. -/
def Stream.vaAt (t : Stream) (lvl off : Nat) : Nat :=
  if lvl = 0 then (t.base + off % t.bytes) % 2 ^ 57 else ((nth t.buffers (lvl - 1) ⟨0, 0, 0⟩).base + off) % 2 ^ 57
/-- The position at a level moved on. -/
def Stream.moveTo (t : Stream) (off : Nat) : Stream :=
  match t.buffers.reverse with
  | [] => { t with head := off % t.bytes }
  | b :: rest => { t with buffers := rest.reverse ++ [{ b with pos := off }] }

/-- Whether the packet at the head has begun: it waits, or has had part of its effect. Its words need not be covered any more
(R402). -/
def Stream.begun (t : Stream) : Bool := t.wait.isSome || t.created || t.reloaded || t.pushing

/-- A word held in a fetched block. -/
def heldWord (t : Stream) (lvl va : Nat) : Option Nat :=
  t.fetched.findSome? (fun f => if f.level = lvl ∧ f.va = va / 64 * 64 then f.words[va % 64 / 8]? else none)

/-- A page of a partition that a stream may reach: its physical address. -/
def streamPa (s : State) (part va perm : Nat) : State × Option Nat :=
  match walk s part (forPart part) va with
  | (s, .inr _) => (s, none)
  | (s, .inl l) => (s, if Nat.land l.perm perm = perm then some (leafPa l va) else none)

/-- A block read stands in the place of an earlier copy, which it takes over whole; one that covers less than what is held leaves
that held (R405). -/
def Stream.hold (t : Stream) (f : Fetched) : Stream :=
  let same := fun (g : Fetched) => g.level = f.level && g.va = f.va
  if t.fetched.any (fun g => same g && f.words.length < g.words.length) then t
  else { t with fetched := t.fetched.filter (fun g => !same g) ++ [f] }

/-- A block of 64 bytes fetched whole: the words of it that lie within what is covered. `at_` is an offset at the level. -/
def fetchBlock (s : State) (part n lvl at_ : Nat) : State × Bool :=
  let t := getStream s part n
  let va := t.vaAt lvl at_
  match streamPa s part va 1 with
  | (s, none) => (s, false)
  | (s, some pa) =>
    let ahead := at_ - t.posAt lvl
    let covered := (va % 64 + (t.roomAt lvl - ahead)) / 8
    let (s, ws) := unitWords s (forPart part) (pa / 64 * 64) 8
    (modStream s part n fun t =>
      t.hold { level := lvl, va := va / 64 * 64, words := ws.take covered }, true)

/-- A word of a stream at an offset of its level: from the loop it is in, from a held block, or fetched now. `none` where
its address does not translate. -/
def streamWord (s : State) (part n lvl off : Nat) : State × Option Nat :=
  let t := getStream s part n
  let looped := t.loops.findSome? (fun l =>
    let d := if lvl = 0 then (off % t.bytes + t.bytes - l.start) % t.bytes else off - l.start
    if l.level = lvl ∧ (lvl = 0 ∨ l.start ≤ off) ∧ d < l.len then l.words[d / 8]? else none)
  match looped with
  | some w => (s, some w)
  | none =>
    let va := t.vaAt lvl off
    match heldWord t lvl va with
    | some w => (s, some w)
    | none =>
      match fetchBlock s part n lvl off with
      | (s, false) => (s, none)
      | (s, true) => (s, heldWord (getStream s part n) lvl va)

/-- Words from an offset on, and the address of the first that does not translate. -/
def streamWords (s : State) (part n lvl off : Nat) : Nat → State × List Nat × Option Nat
  | 0 => (s, [], none)
  | c + 1 =>
    match streamWord s part n lvl off with
    | (s, none) => (s, [], some ((getStream s part n).vaAt lvl off))
    | (s, some w) =>
      let (s, ws, bad) := streamWords s part n lvl (off + 8) c
      (s, w :: ws, bad)

/-- CS_BLOCK_FETCH (R405): the block that is `block` after the one in which the executing packet begins, if it starts less
than 256 bytes beyond that packet's first byte and within what is covered. A held block may be read again, and executes wholly new
then; not so once the packet has begun, which goes on with the words it began with. -/
def blockFetch (s : State) (part n lvl block : Nat) : State :=
  let t := getStream s part n
  let pos := t.posAt lvl
  let mis := t.vaAt lvl pos % 64
  let ahead := if block = 0 then 0 else block * 64 - mis
  let held := t.fetched.any fun f => f.level = lvl && f.va = t.vaAt lvl (pos + ahead) / 64 * 64
  if ¬ t.en ∨ t.halt ∨ t.level < lvl ∨ 256 ≤ ahead ∨ t.roomAt lvl ≤ ahead ∨ (t.begun ∧ held) then s
  else (fetchBlock s part n lvl (pos + ahead)).1

/-! ### Halting, and moving on -/

/-- STREAM_HALT (R403): the stream stops at the failing packet, and the host is told. -/
def haltStream (s : State) (part n err reason va : Nat) : State :=
  let s := modStream s part n fun t => { t with
    halt := true, err := err, reason := reason, lvl := t.level, off := t.posAt t.level
    errva := if err = 5 then va else t.errva, wait := none }
  let t := getStream s part n
  (postEvent s 6 part [n, csstat t, t.errva] []).1

/-- A held block whose words have all executed is discarded: one behind the level's position, in ring order at level 0, or of
a level left. -/
def dropBlocks (t : Stream) : Stream :=
  let keep := fun (f : Fetched) =>
    f.level ≤ t.level &&
      (let z := if f.level = 0 then t.bytes else 2 ^ 57
       let d := (f.va + 64 + 2 ^ 57 - t.vaAt f.level (t.posAt f.level)) % z
       0 < d && d ≤ z / 2)
  { t with fetched := t.fetched.filter keep }

/-- A loop at its body's end goes round, and a buffer at its end returns to the packet after its IB. -/
def settleStream (t : Stream) : Nat → Stream
  | 0 => t
  | fuel + 1 =>
    let done := fun (l : PLoop) => l.level = t.level &&
      t.posAt t.level = (if l.level = 0 then (l.start + l.len) % t.bytes else l.start + l.len)
    match t.loops.find? done with
    | some l =>
      let rest := t.loops.filter (fun m => ¬ done m)
      if l.left ≤ 1 then settleStream { t with loops := rest } fuel
      else settleStream ({ t with loops := rest ++ [{ l with left := l.left - 1 }] }.moveTo l.start) fuel
    | none => match t.buffers.reverse with
      | [] => t
      | b :: rest =>
        if b.len ≤ b.pos then
          let t := { t with buffers := rest.reverse, skip := 0, loops := t.loops.filter (fun l => l.level < t.level) }
          settleStream (t.moveTo (t.posAt t.level + 24)) fuel
        else t

/-- The stream moved past a packet of `words` words. -/
def passPacket (s : State) (part n words : Nat) : State :=
  modStream s part n fun t =>
    let t := { t with wait := none, created := false, reloaded := false, pushing := false }
    dropBlocks (settleStream (t.moveTo (t.posAt t.level + 8 * words)) 64)

/-- The fields of a packet's header. -/
def pktOp (h : Nat) : Nat := h % 2 ^ 8
def pktNw (h : Nat) : Nat := bitsOf h 8 8
def pktFields (h : Nat) : Nat := bitsOf h 16 16
def pktArg (h : Nat) : Nat := bitsOf h 32 32

/-- Whether a packet of `n` bytes may begin at the level's position; one that runs past its indirect buffer is not waited for. -/
def Stream.covers (t : Stream) (lvl n : Nat) : Bool := t.begun || lvl ≠ 0 || n ≤ t.roomAt lvl

/-- Packets that a PRED skips are passed as they are covered (R403): an IB is one, a LOOPP one with its whole body. -/
def skipAhead (s : State) (part n : Nat) : Nat → State
  | 0 => s
  | fuel + 1 =>
    let t := getStream s part n
    let lvl := t.level
    if t.skip = 0 ∨ t.roomAt lvl < 8 then s
    else match streamWord s part n lvl (t.posAt lvl) with
      | (_, none) => s
      | (s', some h) =>
        if !t.covers lvl (8 * (pktNw h + 1)) then s'
        else
          let body := if pktOp h = 7 then pktFields h % 2 ^ 8 else 0
          skipAhead (passPacket (modStream s' part n fun t => { t with skip := t.skip - 1 + body }) part n (pktNw h + 1)) part n fuel

/-- Whether stores of host agents are still on their way: a packet's effects are complete before the next begins (R404). -/
def hostStoresOut (s : State) : Bool := s.stores.any (fun w => w.agent = .host)

/-! ### Packets in rule (R403) -/

/-- The payload words that a packet has; `none` for a NOP, which takes any. -/
def pktWords : Nat → Option Nat
  | 1 => some 2 | 2 => some 1 | 3 => some 2 | 4 => some 3 | 5 => some 3 | 6 => some 2 | 7 => some 0 | 8 => some 0 | 9 => some 2
  | _ => none

/-- The FIELDS bits a packet assigns. -/
def pktMask : Nat → Nat
  | 1 => 0x7FFF | 2 => 1 | 4 => 0xF | 5 => 0xFF0F | 7 => 0xFFF | 9 => 0x7F | _ => 0
/-- Whether a packet assigns ARG. -/
def pktHasArg (op : Nat) : Bool := op = 2 || op = 4

/-- The alignment that a packet's address word must have. -/
def pktAlign (op fields : Nat) : Nat :=
  match op with
  | 2 => if bitOf fields 0 then 1 else 4
  | 3 => 8 | 6 => 8 | 9 => 8
  | 4 => if bitOf fields 3 then 8 else 4
  | 5 => if bitOf fields 3 then 8 else 4
  | _ => 1

/-- The halt that a packet's header and address alone cause: 1 BADOP before 2 BADLEN before 8 RSVD (R403). A packet that
runs past its indirect buffer is cut short, and so of the wrong length. -/
def pktBad (ws : List Nat) : Option Nat :=
  let h := wordAt ws 0
  let op := pktOp h
  if 10 ≤ op then some 1
  else if op = 0 then none
  else if pktWords op ≠ some (pktNw h) ∨ ws.length ≠ pktNw h + 1 then some 2
  else if op = 6 ∧ (wordAt ws 2 % 8 ≠ 0 ∨ wordAt ws 2 < 8 ∨ 2 ^ 24 < wordAt ws 2) then some 2
  else
    let f := pktFields h
    let compare := op = 4 ∨ op = 5
    if f ≠ Nat.land f (pktMask op) ∨ (pktHasArg op = false ∧ pktArg h ≠ 0) ∨ (compare ∧ 6 ≤ f % 8)
      ∨ wordAt ws 1 % pktAlign op f ≠ 0 then some 8
    else none

/-- The next packet of a stream, if it is enabled, whole and covered as it begins (R402): the state once its words are
fetched, and the words; or the address whose translation failed. The payload of a NOP is not fetched, nor that of a packet
whose header is in error; one in error by what is fetched of it is in error before its translation is (R403). -/
def nextPacket (s : State) (part n : Nat) : State × Option (List Nat ⊕ Nat) :=
  let t := getStream s part n
  if ¬ t.en ∨ t.halt ∨ (mfind s.parts part).isNone ∨ s.control.power ≠ .d0 ∨ 64 ≤ n ∨ hostStoresOut s = true then (s, none)
  else
    let s := skipAhead s part n 256
    let t := getStream s part n
    let lvl := t.level
    let pos := t.posAt lvl
    if !t.covers lvl 8 then (s, none)
    else match streamWord s part n lvl pos with
      | (s, none) => (s, some (.inr (t.vaAt lvl pos)))
      | (s, some h) =>
        let nw := pktNw h
        if !t.covers lvl (8 * (nw + 1)) ∨ t.skip ≠ 0 then (s, none)
        else if pktWords (pktOp h) ≠ some nw ∨ (lvl ≠ 0 ∧ t.roomAt lvl < 8 * (nw + 1)) then (s, some (.inl [h]))
        else match streamWords s part n lvl (pos + 8) nw with
          | (s, ws, none) => (s, some (.inl (h :: ws)))
          | (s, ws, some va) =>
            let whole := h :: (ws ++ List.replicate (nw - ws.length) 8)
            (s, some (if (pktBad whole).isSome then .inl whole else .inr va))

/-- A packet event: the next packet, once fetched, halts the stream if it is bad or untranslated; otherwise it has its
effect, if it is of the event's kind. Packets that a PRED skips are passed even where no packet follows them yet. -/
def packet (s : State) (part n : Nat) (kind : List Nat → Bool) (f : State → List Nat → State) : State :=
  match nextPacket s part n with
  | (s', none) => if (getStream s' part n).skip < (getStream s part n).skip then s' else s
  | (s', some (.inr va)) => haltStream s' part n 5 0 va
  | (s', some (.inl ws)) =>
    match pktBad ws with
    | some e => haltStream s' part n e 0 0
    | none => if kind ws then f s' ws else s

/-- Whether a packet has an operation. -/
def isOp (op : Nat) (ws : List Nat) : Bool := pktOp (wordAt ws 0) = op

/-! ### Packets that store, compare and steer -/

/-- A store of a packet (R404): seen by peepholes as a host store; an MMIO address reaches the host. -/
def packetStore (s : State) (part pa n v : Nat) : State :=
  if isMmio pa then { s with mmio := s.mmio ++ [(pa, n, v % 2 ^ (8 * n))] }
  else if isNowhere pa then s
  else storeAt s .host (forPart part) pa n (v % 2 ^ (8 * n)) (ones n)

/-- A packet that stores `bytes` bytes at an address, then goes on. -/
def storePacket (s : State) (part n va bytes v : Nat) (words : Nat) : State :=
  match streamPa s part (va % 2 ^ 57) 2 with
  | (s, none) => haltStream s part n 5 0 (va % 2 ^ 57)
  | (s, some pa) => passPacket (packetStore s part pa bytes v) part n words

/-- NOP. -/
def csNop (s : State) (part n : Nat) : State :=
  packet s part n (isOp 0) fun s ws => passPacket s part n (pktNw (wordAt ws 0) + 1)

/-- WRITE32 with CONS = 0. -/
def csWrite32 (s : State) (part n : Nat) : State :=
  packet s part n (fun ws => isOp 2 ws && !bitOf (pktFields (wordAt ws 0)) 0) fun s ws =>
    storePacket s part n (wordAt ws 1) 4 (pktArg (wordAt ws 0)) 2

/-- WRITE32 with CONS = 1 (R412). -/
def csConsent (s : State) (part n : Nat) : State :=
  packet s part n (fun ws => isOp 2 ws && bitOf (pktFields (wordAt ws 0)) 0) fun s ws =>
    passPacket (modPart s part fun p => { p with consent := pktArg (wordAt ws 0) % 4 }) part n 2

/-- WRITE64. -/
def csWrite64 (s : State) (part n : Nat) : State :=
  packet s part n (isOp 3) fun s ws => storePacket s part n (wordAt ws 1) 8 (wordAt ws 2) 3

/-- SIGNAL: the vector is raised once its store is performed, in a later SIGNAL event where the store is held. -/
def csSignal (s : State) (part n : Nat) : State :=
  packet s part n (isOp 9) fun s ws =>
    let f := pktFields (wordAt ws 0)
    let raise := fun (s : State) => passPacket (if bitOf f 6 then raiseMsix s (f % 64) else s) part n 3
    if wordAt ws 1 = 0 ∨ (getStream s part n).created = true then raise s
    else
      let va := wordAt ws 1 % 2 ^ 57
      match streamPa s part va 2 with
      | (s, none) => haltStream s part n 5 0 va
      | (s, some pa) =>
        let s := packetStore s part pa 8 (wordAt ws 2)
        if hostStoresOut s then modStream s part n fun t => { t with created := true } else raise s

/-- The compare of WAITMEM and PRED (R403). -/
def compareHolds (f w ref mask : Nat) : Bool :=
  let n := if bitOf f 3 then 64 else 32
  let a := Nat.land w mask % 2 ^ n
  let b := Nat.land ref mask % 2 ^ n
  match f % 8 with
  | 0 => a = b
  | 1 => a ≠ b
  | 2 => b ≤ a
  | 3 => a < b
  | 4 => signed n b ≤ signed n a
  | _ => signed n a < signed n b

/-- The word a compare reads at the slice or at the host; `none` where its address does not translate. -/
def compareWord (s : State) (part : Nat) (ws : List Nat) : State × Option Nat :=
  let va := wordAt ws 1 % 2 ^ 57
  match streamPa s part va 1 with
  | (s, none) => (s, none)
  | (s, some pa) =>
    let (s, w) := unitWords s (forPart part) (pa / 8 * 8) 1
    (s, some (wordAt w 0 / 2 ^ (8 * (pa % 8))))

/-- A compare packet whose word has been read. -/
def comparePacket (s : State) (part n : Nat) (ws : List Nat) (f : State → Bool → State) : State :=
  match compareWord s part ws with
  | (s, none) => haltStream s part n 5 0 (wordAt ws 1 % 2 ^ 57)
  | (s, some w) => f s (compareHolds (pktFields (wordAt ws 0)) w (wordAt ws 2) (wordAt ws 3))

/-- WAITMEM: the stream goes on at once where the compare holds, and otherwise waits. -/
def csWaitmem (s : State) (part n : Nat) : State :=
  if (getStream s part n).wait.isSome then s
  else packet s part n (isOp 4) fun s ws =>
    comparePacket s part n ws fun s holds =>
      let us := pktArg (wordAt ws 0)
      if holds then passPacket s part n 4
      else modStream s part n fun t => { t with wait := some (if us = 0 then 0 else timeNs s + us * 1000) }

/-- WAITMEM_SATISFIED (R404): the wait ends, acquiring for later packets. -/
def csSatisfied (s : State) (part n : Nat) : State :=
  if (getStream s part n).wait.isNone then s
  else packet s part n (isOp 4) fun s' ws =>
    comparePacket s' part n ws fun s' holds => if holds then passPacket s' part n 4 else s

/-- WAITMEM_TIMEOUT: TIMEOUT on expiry. -/
def csTimeout (s : State) (part n : Nat) : State :=
  match (getStream s part n).wait with
  | some d => if d ≠ 0 ∧ d ≤ timeNs s then haltStream s part n 6 0 0 else s
  | none => s

/-- PRED. -/
def csPred (s : State) (part n : Nat) : State :=
  packet s part n (isOp 5) fun s ws =>
    comparePacket s part n ws fun s holds =>
      let s := if holds then s else modStream s part n fun t => { t with skip := bitsOf (pktFields (wordAt ws 0)) 8 8 }
      passPacket s part n 4

/-- IB (R405). -/
def csIbuf (s : State) (part n : Nat) : State :=
  packet s part n (isOp 6) fun s ws =>
    if 2 ≤ (getStream s part n).level then haltStream s part n 3 0 0
    else modStream s part n fun t => { t with buffers := t.buffers ++ [⟨wordAt ws 1 % 2 ^ 57, wordAt ws 2, 0⟩] }

/-- The body of a LOOPP from its start: the packets still to come, and the offset they begin at. The answer is `none` where a
word is not covered yet; the body's words; or an error, with the address that failed. -/
def loopBody (s : State) (part n lvl : Nat) (start : Nat) :
    (left : Nat) → (off : Nat) → State × Option (List Nat ⊕ (Nat × Nat))
  | 0, off => match streamWords s part n lvl start ((off - start) / 8) with
    | (s, ws, none) => (s, some (.inl ws))
    | (s, _, some va) => (s, some (.inr (5, va)))
  | left + 1, off =>
    let t := getStream s part n
    let room := t.posAt lvl + t.roomAt lvl
    if 256 < off + 8 - start then (s, some (.inr (4, 0)))
    else if room < off + 8 then (s, if lvl = 0 then none else some (.inr (4, 0)))
    else match streamWord s part n lvl off with
      | (s, none) => (s, some (.inr (5, t.vaAt lvl off)))
      | (s, some h) =>
        let next := off + 8 * (pktNw h + 1)
        if pktOp h = 7 ∨ pktOp h = 8 ∨ 256 < next - start
          ∨ (pktOp h = 5 ∧ left < bitsOf (pktFields h) 8 8) then (s, some (.inr (4, 0)))
        else if room < next then (s, if lvl = 0 then none else some (.inr (4, 0)))
        else loopBody s part n lvl start left next

/-- LOOPP (R405): the body is fetched once. -/
def csLoopp (s : State) (part n : Nat) : State :=
  packet s part n (isOp 7) fun s' ws =>
    let f := pktFields (wordAt ws 0)
    let t := getStream s' part n
    let lvl := t.level
    let start := t.posAt lvl + 8
    if f % 256 = 0 then haltStream s' part n 4 0 0
    else match loopBody s' part n lvl start (f % 256) start with
      | (_, none) => s
      | (s', some (.inr (e, va))) => haltStream s' part n e 0 va
      | (s', some (.inl words)) =>
        modStream s' part n fun t =>
          let z := if lvl = 0 then start % t.bytes else start
          let l : PLoop := { level := lvl, start := z, len := 8 * words.length, left := bitsOf f 8 4 + 1, words := words }
          { t with loops := t.loops ++ [l] }.moveTo z

/-- FFENCE (R405): every held block at every active level is discarded. -/
def csFfence (s : State) (part n : Nat) : State :=
  packet s part n (isOp 8) fun s _ =>
    passPacket (modStream s part n fun t => { t with fetched := [] }) part n 1

/-! ### Regions (R280–R282, R299, R364) -/

/-- A field of an RCB's bytes. -/
def rcbField (b : Nat) (off n : Nat) : Nat := b / 2 ^ (8 * off) % 2 ^ (8 * n)

/-- The fields that may be inherited: offset and bytes. -/
def rcbInherited : List (Nat × Nat) :=
  [(0x02, 2), (0x04, 1), (0x05, 1), (0x06, 2), (0x08, 4), (0x0C, 4), (0x10, 8), (0x20, 8), (0x28, 8), (0x30, 8), (0x38, 8),
   (0x40, 8), (0x48, 8), (0x50, 8), (0x60, 8), (0x70, 8), (0x80, 8), (0x90, 1), (0x91, 1), (0x92, 2), (0x94, 4), (0xA8, 8),
   (0xB0, 8), (0xB8, 8)]

/-- Whether a field holds all ones, to inherit. -/
def inherits (b off n : Nat) : Bool := rcbField b off n = 2 ^ (8 * n) - 1

/-- A field's effective value: the RCB's own, or the parent's. -/
def effField (b off n : Nat) (parent : Nat) : Nat := if inherits b off n then parent else rcbField b off n

/-- Whether a reserved byte, or a reserved bit of a field that is not inherited, is non-zero (R282). -/
def rcbReserved (b : Nat) : Bool :=
  let own := fun (off n lo : Nat) => !inherits b off n && rcbField b off n / 2 ^ lo != 0
  rcbField b 0xC0 64 ≠ 0 || own 0x02 2 4 || own 0x06 2 10 || own 0x0C 4 16 || own 0x28 8 48 || own 0xB8 8 12 ||
  (upTo 4).any (fun j => !inherits b (0x50 + 16 * j) 8 &&
    (rcbField b (0x58 + 16 * j) 8 / 2 ^ 8 ≠ 0 || bitsOf (rcbField b (0x58 + 16 * j) 8) 3 4 ≠ 0)) ||
  bitsOf (rcbField b 0xA0 8) 40 8 ≠ 0 || bitsOf (rcbField b 0xA0 8) 24 11 ≠ 0

/-- A carve word: base and size. -/
def carveOf (v : Nat) : Nat × Nat := (v % 2 ^ 32, v / 2 ^ 32 % 2 ^ 32)
/-- Whether a carve lies in another and keeps the 4 KiB rule (R180). -/
def carveIn (c outer : Nat × Nat) : Bool :=
  c.2 = 0 || (c.1 % 4096 = 0 && c.2 % 4096 = 0 && outer.1 ≤ c.1 && c.1 + c.2 ≤ outer.1 + outer.2)

/-- The region that an RCB's bytes give, under a parent's effective values. -/
def regionOf (b rcb : Nat) (p : Region) : Region :=
  let f := fun (off n parent : Nat) => effField b off n parent
  let carve := fun (off : Nat) (i : Nat) =>
    if inherits b off 8 then nth p.carves i (0, 0) else carveOf (rcbField b off 8)
  let banks := f 0x28 8 (p.pool + p.bper * 2 ^ 40)
  let own := f 0x94 4 p.barown
  { rcb := rcb
    parent := rcbField b 0 2
    flags := f 0x02 2 p.flags
    prio := f 0x04 1 p.prio % 8
    rts := f 0x05 1 p.rts % 8
    islands := f 0x06 2 p.islands % 2 ^ 10
    share := f 0x08 4 p.share
    contract := f 0x0C 4 p.contract
    budget := f 0x10 8 p.budget
    faultcr := f 0x20 8 p.faultcr % 2 ^ 57
    pool := banks % 2 ^ 40
    bper := banks / 2 ^ 40 % 2 ^ 8
    carves := [carve 0x30 0, carve 0x38 1, carve 0x40 2, carve 0x48 3]
    vpc := (upTo 4).map (fun j => f (0x50 + 16 * j) 8 (nth p.vpc j 0) % 2 ^ 57 / 16 * 16)
    vcl := (upTo 4).map (fun j => if inherits b (0x50 + 16 * j) 8 then nth p.vcl j 0 else rcbField b (0x58 + 16 * j) 8)
    tq := f 0x90 1 p.tq
    barc := f 0x91 1 p.barc
    bard := f 0x92 2 p.bard
    barown := own
    pinbase := f 0xA8 8 p.pinbase % 2 ^ 57
    pinlen := f 0xB0 8 p.pinlen
    gskew := f 0xB8 8 p.gskew
    budrem := 3125 * (f 0x10 8 p.budget : Int)
    joules := 0
    exh := 0
    cancel := false
    pinref := false
    eprio := f 0x04 1 p.prio % 8
    live := 0
    ready := []
    dirty := false
    toClose := [] }

/-- The barriers a region owns, by key (R299): its cluster barriers in each of its clusters, and its device barriers. -/
def barrierKeys (rk : Nat) (r : Region) : List Nat :=
  ((upTo 10).filter (bitOf r.islands)).flatMap (fun i =>
    ((upTo 16).filter (bitOf r.barown)).map (fun b => barrierKey i rk b)) ++
  ((upTo 16).filter (fun b => bitOf r.barown (16 + b))).map (fun b => barrierKey 0 rk (16 + b))
/-- Whether another live region with a common island owns a barrier that a region's BAROWN names (R282). -/
def barriersOwned (s : State) (r : Region) : Bool :=
  s.regions.any fun e => Nat.land e.2.islands r.islands ≠ 0 && Nat.land e.2.barown r.barown ≠ 0

/-- The reason for which LAUNCH refuses a region (R282, R403); 0 for none. -/
def refusal (s : State) (part idx b : Nat) : Nat :=
  let parent := rcbField b 0 2
  let root : Bool := parent = 0xFFFF
  match mfind s.parts part with
  | none => 9
  | some p =>
    let pr := getRegion s (regionKey part parent)
    let r := regionOf b 0 (if root then noRegion else pr)
    let outer := if root then p.carves else pr.carves
    if (mfind s.regions (regionKey part idx)).isSome then 9
    else if root = false ∧ (4096 ≤ parent ∨ (mfind s.regions (regionKey part parent)).isNone) then 9
    else if root ∧ rcbInherited.any (fun f => inherits b f.1 f.2) = true then 1
    else if Nat.land r.islands (if root then p.islands else Nat.land p.islands pr.islands) ≠ r.islands then 2
    else if (upTo 4).any (fun i => !carveIn (nth r.carves i (0, 0)) (nth outer i (0, 0))) then 3
    else if 40 < r.bper then 4
    else if ¬ r.vcl.any (fun v => bitOf v 7) then 5
    else if (match mfind s.queues r.tq with | some q => !(q.task && q.part = part) | none => true) then 6
    else if bitOf r.flags 0 ∧ countIf (bitOf r.islands) (upTo 10) ≠ 1 then 7
    else if barriersOwned s r = true ∨ Nat.land (r.barown % 2 ^ 16) p.barc ≠ r.barown % 2 ^ 16 ∨ Nat.land (r.barown / 2 ^ 16) p.bard ≠ r.barown / 2 ^ 16 then 8
    else if rcbReserved b then 13
    else 0

/-- The physical superblocks of a virtual range mapped with read permission (R364), or none. -/
def pinBlocks (s : State) (part va : Nat) : (n : Nat) → State × Option (List Nat)
  | 0 => (s, some [])
  | n + 1 =>
    match streamPa s part va 1 with
    | (s, none) => (s, none)
    | (s, some pa) =>
      if ¬ isLpddr pa then (s, none)
      else match pinBlocks s part (va + 512) n with
        | (s, some l) => (s, some (pa / 512 :: l))
        | (s, none) => (s, none)

/-- The superblocks that a partition's regions pin. -/
def pinsOf (p : Part) : List Nat := (p.pinned.map (fun e => e.2.1)).eraseDups
/-- The ways of a superblock's set that a list of pins, superblock and way, holds for other superblocks. -/
def pinnedWays (pins : List (Nat × Nat)) (sb : Nat) : List Nat :=
  ((pins.filter (fun e => e.1 ≠ sb && sameSet e.1 sb)).map (fun e => e.2)).eraseDups

/-- The way in which a partition may pin a superblock beside other pins (R364): the one it is pinned in already; else one of
its way mask that no pin of the set holds, the way it is held in first, where the set has fewer than 12. -/
def pinPlace (s : State) (p : Part) (pins : List (Nat × Nat)) (sb : Nat) : Option Nat :=
  match pins.find? (fun e => e.1 = sb) with
  | some e => some e.2
  | none =>
    let used := pinnedWays pins sb
    let may := (upTo 16).filter (fun w => bitOf p.ways w && !used.contains w)
    let held := (s.slices.find? (fun e => superOf e.1 = sb)).map (fun e => e.2.way)
    if 12 ≤ used.length then none else ((held.filter may.contains).or may.head?)

/-- The ways of a list of superblocks pinned together, or none. -/
def pinPlaces (s : State) (p : Part) : (pins : List (Nat × Nat)) → List Nat → Option (List (Nat × Nat))
  | _, [] => some []
  | pins, sb :: rest =>
    match pinPlace s p pins sb with
    | none => none
    | some w => (pinPlaces s p (pins ++ [(sb, w)]) rest).map (fun l => (sb, w) :: l)

/-- The lines of a superblock stand in the way it is pinned in: a superblock that stood there leaves. -/
def movePinned (s : State) (e : Nat × Nat) : State :=
  let held := s.slices.any (fun l => superOf l.1 = e.1 && l.2.way ≠ e.2)
  if ¬ held then s
  else
    let t := ((s.slices.filter (inWay e.1 e.2)).map (fun l => l.2)).foldl lineOut s
    { t with slices := (s.slices.filter (fun l => !inWay e.1 e.2 l)).map (fun l =>
        if superOf l.1 = e.1 then (l.1, { l.2 with way := e.2 }) else l) }

/-- A region's pin at creation (R364): refused whole, with PINREF, where the range is not mapped with read permission, a set
would hold a 13th pinned way, the quota would be exceeded, or a way outside the partition's mask would be needed. -/
def pinRegion (s : State) (part idx : Nat) : State :=
  let rk := regionKey part idx
  let r := getRegion s rk
  let refuse := fun (s : State) => modRegion s rk fun r => { r with pinref := true }
  let n := r.pinlen / 512
  match mfind s.parts part with
  | none => s
  | some p =>
    if r.pinlen = 0 then s
    else if r.pinbase % 512 ≠ 0 ∨ r.pinlen % 512 ≠ 0 then refuse s
    else match pinBlocks s part r.pinbase n with
      | (s, none) => refuse s
      | (s, some l) =>
        let all := s.parts.flatMap (fun e => e.2.pinned.map (fun q => q.2))
        let l := l.eraseDups
        match pinPlaces s p all l with
        | none => refuse s
        | some ways =>
          if p.pins < (pinsOf p ++ l).eraseDups.length then refuse s
          else modPart (ways.foldl movePinned s) part fun p => { p with pinned := p.pinned ++ ways.map (fun e => (idx, e)) }

/-! ### LAUNCH (R403) -/

/-- LAUNCH with an ACT. -/
def isLaunch (act : Nat) (ws : List Nat) : Bool := isOp 1 ws && bitsOf (pktFields (wordAt ws 0)) 12 2 = act

/-- The image reload (R290): the partition's instruction-store blocks are dropped. -/
def dropImage (s : State) (part : Nat) : State :=
  { s with cores := s.cores.map (fun e => (e.1, { e.2 with blocks := e.2.blocks.filter (fun b => b.part ≠ part) })) }

/-- What RELOAD does before the rest of a LAUNCH, once. -/
def reloadFirst (s : State) (part n : Nat) (ws : List Nat) : State :=
  if bitOf (pktFields (wordAt ws 0)) 14 ∧ (getStream s part n).reloaded = false then
    modStream (dropImage s part) part n fun t => { t with reloaded := true }
  else s

/-- LAUNCH_RELOAD (R290). -/
def launchReload (s : State) (part n : Nat) : State :=
  packet s part n (fun ws => isOp 1 ws && bitOf (pktFields (wordAt ws 0)) 14) fun s ws => reloadFirst s part n ws

/-- A CR pushed to a region's TASK queue, if there is space; the packet otherwise waits. -/
def pushCr (s : State) (part n idx cr : Nat) : State :=
  let tq := (getRegion s (regionKey part idx)).tq
  match mfind s.queues tq with
  | none => haltStream s part n 7 6 0
  | some q => if q.items.length < q.cap then passPacket (queuePush s tq cr).1 part n 3
    else modStream s part n fun t => { t with pushing := true }

/-- The RCB of a LAUNCH, read whole where it lies in one page of LPDDR-6 with read permission: its address and bytes. -/
def readRcb (s : State) (part va : Nat) : State × Option (Nat × Nat) :=
  match firmwarePa s part va 256 1 with
  | (s, some pa) =>
    if isLpddr pa then
      let (s, v) := sliceRead s (forPart part) pa 256
      (s, if linePoison s (pa / 128) || linePoison s (pa / 128 + 1) then none else some (pa, v))
    else (s, none)
  | (s, none) => (s, none)

/-- A region created (R280, R282, R297, R299, R364): held by the dispatcher, its barriers at 0, its pins made, and BUDREM,
JOULES and STATUS written back. -/
def createRegion (s : State) (part idx rcb b : Nat) : State :=
  let parent := rcbField b 0 2
  let r := regionOf b rcb (if parent = 0xFFFF then noRegion else getRegion s (regionKey part parent))
  let rk := regionKey part idx
  let s := { s with
    regions := mset s.regions rk r
    barriers := (barrierKeys rk r).foldl (fun m k => mset m k { region := rk, phase := 0, arrivals := 0 }) s.barriers }
  writeRcb (pinRegion s part idx) rk

/-- LAUNCH_CREATE (R282): the region is created, then its CR pushed if there is one. -/
def launchCreate (s : State) (part n : Nat) : State :=
  packet s part n (isLaunch 0) fun s ws =>
    let s := reloadFirst s part n ws
    let idx := pktFields (wordAt ws 0) % 2 ^ 12
    let cr := wordAt ws 2
    let push := fun (s : State) => if cr = 0 then passPacket s part n 3 else pushCr s part n idx (cr % 2 ^ 57)
    if (getStream s part n).created then push s
    else match readRcb s part (wordAt ws 1 % 2 ^ 57) with
      | (s, none) => haltStream s part n 7 10 0
      | (s, some (pa, b)) =>
        match refusal s part idx b with
        | 0 => push (modStream (createRegion s part idx pa b) part n fun t => { t with created := true })
        | e => haltStream s part n 7 e 0

/-- LAUNCH_PUSH. -/
def launchPush (s : State) (part n : Nat) : State :=
  packet s part n (isLaunch 1) fun s ws =>
    let s := reloadFirst s part n ws
    let idx := pktFields (wordAt ws 0) % 2 ^ 12
    if (mfind s.regions (regionKey part idx)).isNone then haltStream s part n 7 12 0
    else pushCr s part n idx (wordAt ws 2 % 2 ^ 57)

/-- Step 2 of R343: queued jobs of a region's tasks are removed; the one running, if any, stays. -/
def cancelJobs (s : State) (part idx : Nat) : State :=
  (upTo 8).foldl (fun s n =>
    let jobs := mget s.jobs n []
    let running := if (mfind s.ctxs (samplerCore n * 8)).isSome then jobs.take 1 else []
    let queued := jobs.drop running.length
    { s with jobs := mset s.jobs n (running ++ queued.filter (fun j => ¬ (j.part = part ∧ j.region = idx))) }) s

/-- Whether a window is open in a partition. -/
def openIn (s : State) (part w : Nat) : Bool := (getWindow s w).opened && (getWindow s w).part = part

/-- Steps 3 and 4 of R343: the region's slots drain, one that leaves FREE with a new generation (R326), and the windows of the
partition bound to them are aborted; the windows. -/
def cancelSlots (s : State) (part idx : Nat) : State × List Nat :=
  let mine := s.slots.filter (fun e => e.2.owned && e.2.part = part && e.2.region = idx)
  mine.foldl (fun (a : State × List Nat) e =>
    let gen := if e.2.state = 0 then (e.2.gen + 1) % 256 else e.2.gen
    let sl := { e.2 with w0 := setField (setField (setField e.2.w0 60 3 4) 48 4 8) 40 8 gen, req := 0, datum := 0,
                          cancelled := true }
    let s := putSlot a.1 e.1 sl
    let w := bitsOf e.2.w0 55 4
    if bitOf e.2.w0 59 && openIn s part w then (abortWindow s w, a.2 ++ [w])
    else (s, a.2)) (s, [])

/-- The releases of the tasks that a cancel retires (R284, R343), before it. -/
def releaseReady (s : State) (part idx : Nat) : State × Bool :=
  let ready := (getRegion s (regionKey part idx)).ready
  let s := ready.foldl releaseTask s
  (s, ready.any (releaseOut s))

/-- CANCEL set in a region (R281, R343), and the dispatch events it gives rise to (R293). -/
def cancelRegion (s : State) (part idx : Nat) : State :=
  let rk := regionKey part idx
  let s := modRegion s rk fun r => { r with cancel := true, dirty := true }
  let s := (getRegion s rk).ready.foldl retireTask s
  let (s, ws) := cancelSlots (cancelJobs s part idx) part idx
  settle (closeCancelled (modRegion s rk fun r => { r with toClose := (r.toClose ++ ws).eraseDups }) rk) 64

/-- LAUNCH_CANCEL (R343), once the writes of the release are complete; until then the packet waits. -/
def launchCancel (s : State) (part n : Nat) : State :=
  packet s part n (isLaunch 2) fun s ws =>
    let s := reloadFirst s part n ws
    let idx := pktFields (wordAt ws 0) % 2 ^ 12
    if (mfind s.regions (regionKey part idx)).isNone then haltStream s part n 7 12 0
    else
      let (s, out) := releaseReady s part idx
      if out then s else passPacket (cancelRegion s part idx) part n 3

/-- A region gone: its barriers, pins and joules. -/
def destroyRegion (s : State) (part idx : Nat) : State :=
  let rk := regionKey part idx
  let r := getRegion s rk
  let s := modPart s part fun p => { p with
    pinned := p.pinned.filter (fun e => e.1 ≠ idx), deadJoules := p.deadJoules + r.joules }
  { s with
    regions := mdel s.regions rk
    barriers := s.barriers.filter (fun e => e.2.region ≠ rk)
    islands := s.islands.map (fun e => (e.1, { e.2 with deficits := mdel e.2.deficits rk })) }

/-- LAUNCH_DESTROY: a region with LIVE 0 and no live child. -/
def launchDestroy (s : State) (part n : Nat) : State :=
  packet s part n (isLaunch 3) fun s ws =>
    let s := reloadFirst s part n ws
    let idx := pktFields (wordAt ws 0) % 2 ^ 12
    let children := s.regions.any (fun e => e.1 / 4096 = part && e.2.parent = idx)
    match mfind s.regions (regionKey part idx) with
    | some r => if r.live ≠ 0 ∨ children = true then haltStream s part n 7 11 0
      else passPacket (destroyRegion s part idx) part n 3
    | none => haltStream s part n 7 11 0

end Sys2Proof.Machine
end

