-- ==== Sys2Proof/Machine/Host.lean ====
section
/-! DEFINITION. The host's side of the module: bring-up, registers, firmware commands, host loads and stores, the debugger and
power states (R227, R391–R400, R409–R413). -/

namespace Sys2Proof.Machine

/-! ### Bring-up (R391, R394) -/

/-- The control complex changed. -/
def modControl (s : State) (f : Control → Control) : State := { s with control := f s.control }

/-- The cells of host memory, which is no part of the module. -/
def hostCells (m : List Host.Cell) : List Host.Cell := m.filter fun e => isHostMem e.1

/-- MODULE_RESET (R394): everything is as module reset leaves it; host memory and the model's own fields go on. -/
def moduleReset (s : State) : State :=
  { State.reset with
    agenda := s.agenda, focus := s.focus, latch := s.latch, free := s.free, seq := s.seq, mem := hostCells s.mem }

/-- LINK_TRAIN (R391, R394): a supported link's width is kept, and the self-test follows; any other takes the module to FAILED
with FAIL = 1. From D3cold the module comes back by a reset (R413). -/
def trainLink (s : State) (ok wide : Bool) : State :=
  modControl s fun k =>
    if k.power = .d3cold then k
    else if ¬ ok then { k with mstate := .failed, fail := 1 }
    else if k.mstate = .reset then { k with wid := if wide then 2 else 1 } else k

/-- FWCTL_GO (R394): ignored outside FWWAIT. -/
def fwctlGo (s : State) : State :=
  modControl s fun k => if k.mstate = .fwwait then { k with mstate := .fwcheck } else k

/-- The end of a check (R394): in RESET, once the link has trained, that of the self-test, which passes on to FWWAIT or fails
(4); in FWCHECK that of the image, which passes on to NEGOTIATE or fails by signature (2) or image format (3). -/
def fwCheckDone (s : State) (fail : Nat) : State :=
  modControl s fun k =>
    let tested := k.mstate = .reset ∧ k.wid ≠ 0
    if tested ∧ fail = 0 then { k with mstate := .fwwait }
    else if k.mstate = .fwcheck ∧ fail = 0 then { k with mstate := .negotiate }
    else if (k.mstate = .fwcheck ∧ (fail = 2 ∨ fail = 3)) ∨ (tested ∧ fail = 4) then
      { k with mstate := .failed, fail := fail }
    else k

/-- FWCTL_START (R394): ignored outside NEGOTIATE. -/
def fwctlStart (s : State) : State :=
  modControl s fun k => if k.mstate = .negotiate then { k with mstate := .ready } else k

/-! ### Host memory accesses (R227, R365, R392) -/

/-- The domain that owns an LPDDR-6 address's frame. -/
def frameOwner (s : State) (pa : Nat) : Nat := mget s.owners (pa / 2 ^ 17) 0
/-- Accesses refused to a domain's frames counted (R365). -/
def countRefused (s : State) (dom : Nat) : State :=
  { s with parts := s.parts.map (fun e => if e.2.dom = dom then (e.1, { e.2 with refused := e.2.refused + 1 }) else e) }

/-- Where a host address leads (R392): into LPDDR-6 through the HDM decoder, or else to host memory. -/
def hostPlace (s : State) (ha : Nat) : Nat :=
  if s.control.hdmbase ≤ ha ∧ ha < s.control.hdmbase + 2 ^ 37 then ha - s.control.hdmbase else 2 ^ 46 + ha % 2 ^ 46
/-- Whether the host reaches LPDDR-6 (R391, R395). -/
def hostReaches (s : State) : Bool := answering s && enabled s 1

/-- A host store's bytes, line by line: dropped where the frame belongs to a domain. -/
def hostStoreLines (s : State) (ha : Nat) (v : Nat) (bad : Bool) : (n fuel : Nat) → State
  | _, 0 => s
  | n, fuel + 1 =>
    if n = 0 then s
    else
      let pa := hostPlace s ha
      let k := min n (128 - pa % 128)
      let store := fun (s : State) => storeAt s .host 0 pa k (v % 2 ^ (8 * k)) (ones k) bad
      let s :=
        if isHostMem pa then store s
        else if hostReaches s = false then s
        else if frameOwner s pa ≠ 0 then countRefused s (frameOwner s pa)
        else store s
      hostStoreLines s (ha + k) (v / 2 ^ (8 * k)) bad (n - k) fuel
/-- HOST_STORE (R227, R365), an access for each line it touches; data that arrives with the link's poison mark is poisoned
(R385). -/
def hostStore (s : State) (ha : Nat) (bytes : List Byte) (bad : Bool) : State :=
  hostStoreLines s ha (bytesNat bytes) bad bytes.length (bytes.length + 1)

/-- A host load's bytes, line by line, with the state and the mark of poison that goes to the host with them (R385): the lines are read at their slices, or at the host; of a frame of a
domain the bytes are all ones, and the access is counted. What the HDM decoder does not reach reads as nothing. -/
def hostLoadLines (s : State) (ha : Nat) : (n fuel : Nat) → State × Nat × Bool
  | _, 0 => (s, 0, false)
  | n, fuel + 1 =>
    if n = 0 then (s, 0, false)
    else
      let pa := hostPlace s ha
      let k := min n (128 - pa % 128)
      let own := frameOwner s pa
      let (s, v, bad) :=
        if isHostMem pa then (s, readNat s.mem pa k, linePoison s (pa / 128))
        else if hostReaches s = false then (s, 0, false)
        else if own ≠ 0 then (countRefused s own, 2 ^ (8 * k) - 1, false)
        else let r := sliceRead s 0 pa k; (r.1, r.2, linePoison s (pa / 128))
      let (s, rest, bads) := hostLoadLines s (ha + k) (n - k) fuel
      (s, v + 2 ^ (8 * k) * rest, bad || bads)
/-- HOST_LOAD (R227, R365), an access for each line it touches. -/
def hostLoad (s : State) (ha n : Nat) : State :=
  let (s, v, bad) := hostLoadLines s ha n (n + 1)
  modControl s fun k => { k with hostRead := v, hostBad := bad }

/-! ### Limits and events (R305, R400) -/

/-- PWRLIM_WRITE (R305): refused whole for mode 11. -/
def pwrlimWrite (s : State) (v : Nat) : State :=
  if bitsOf v 18 2 = 3 then s
  else { s with gov := { s.gov with pwrlimNew := bitsOf v 18 2 * 2 ^ 18 + v % 2 ^ 16 } }
/-- THERM written (R305). -/
def thermWrite (s : State) (v : Nat) : State :=
  { s with gov := { s.gov with thermNew := bitsOf v 48 16 * 2 ^ 48 + v % 2 ^ 32 } }
/-- EVTAIL_WRITE (R400): space freed, and held events written. -/
def evtailWrite (s : State) (v : Nat) : State := flushEvents (modControl s fun k => { k with evtail := v }) 257

/-! ### Firmware commands (R396–R399) -/

/-- A write of FCMD (R396): a command starts unless one is under way or the module is not READY, or not in D0 (R413). -/
def fcmdWrite (s : State) (v : Nat) : State :=
  let code := v % 2 ^ 8
  if s.control.fcmd.isSome ∨ s.control.mstate ≠ .ready ∨ s.control.power ≠ .d0 ∨ code = 0 ∨ 0x0B < code then s
  else modControl s fun k => { k with fcmd := some (code, bitsOf v 8 3) }

/-- A command answered. -/
def fcmdEnd (s : State) (status : Int) : State :=
  modControl s fun k => { k with fcmd := none, fcmdres := narrow 32 status }

/-- A command performed when it is the one under way, and the module is powered (R413). -/
def fcmdRun (s : State) (code part : Nat) (f : State → State × Int) : State :=
  if s.control.fcmd = some (code, part) ∧ s.control.power = .d0 then let (s, r) := f s; fcmdEnd s r else s

/-- The argument block, as its 64-bit words; `none` where FCMDARG is out of rule. -/
def argBlock (s : State) : State × Option (List Nat) :=
  let a := s.control.fcmdarg
  if ¬ isLpddr a ∨ a % 256 ≠ 0 then (s, none) else let (s, ws) := unitWords s 0 a 32; (s, some ws)

/-- A command with an argument block. -/
def withBlock (s : State) (f : State → List Nat → State × Int) : State × Int :=
  match argBlock s with
  | (s, none) => (s, -2)
  | (s, some ws) => f s ws

/-- Ranges of one kind that meet, where neither is empty. -/
def carvesMeet (a b : Nat × Nat) : Bool := a.2 ≠ 0 && b.2 ≠ 0 && spanMeets a.1 a.2 b.1 b.2

/-- The default class costs (R312). -/
def defaultCosts : List Nat := [8, 16, 32, 48, 80, 128, 208, 320]

/-- The partition that a PCREATE block describes (R397). -/
def partOf (ws : List Nat) : Part where
  islands := wordAt ws 0 % 2 ^ 10
  dom := bitsOf (wordAt ws 0) 16 3
  ptroot := wordAt ws 1
  carves := (upTo 4).map (fun i => carveOf (wordAt ws (2 + i)))
  ways := wordAt ws 6 % 2 ^ 16
  pins := bitsOf (wordAt ws 6) 16 32
  windows := wordAt ws 7 % 2 ^ 5
  peeps := bitsOf (wordAt ws 7) 5 9
  slots := bitsOf (wordAt ws 7) 14 13
  streamMask := bitsOf (wordAt ws 7) 27 8
  mvuShare := bitsOf (wordAt ws 7) 35 7
  overlay := wordAt ws 8
  barc := wordAt ws 9 % 2 ^ 16
  bard := bitsOf (wordAt ws 9) 16 16
  slice := wordAt ws 10
  replica := carveOf (wordAt ws 11)
  costs := defaultCosts
  consent := if bitsOf (wordAt ws 0) 16 3 = 0 then 3 else 0

/-- Whether a block is malformed (R397): a reserved byte, a carve off the 4 KiB rule or beyond its level, a table address out
of rule, no way, a share out of range, or a replica area off its 128 KiB. -/
def partBad (ws : List Nat) : Bool :=
  let p := partOf ws
  let w0 := wordAt ws 0
  w0 / 2 ^ 19 ≠ 0 || bitsOf w0 10 6 ≠ 0 || wordAt ws 6 / 2 ^ 48 ≠ 0 || wordAt ws 7 / 2 ^ 42 ≠ 0 || wordAt ws 9 / 2 ^ 32 ≠ 0 ||
  (ws.drop 12).any (· ≠ 0) || p.ptroot % 2 ^ 13 ≠ 0 || !isLpddr p.ptroot || p.ways = 0 || p.mvuShare = 0 || 64 < p.mvuShare ||
  (p.carves.zipIdx.any (fun c => c.1.1 % 4096 ≠ 0 || c.1.2 % 4096 ≠ 0 || levelSize c.2 < c.1.1 + c.1.2)) ||
  p.replica.1 % 2 ^ 17 ≠ 0 || p.replica.2 % 2 ^ 17 ≠ 0 || levelSize 1 < p.replica.1 + p.replica.2

/-- The ranges of the chip scratchpad that queues' entries take (R301), and the size of what lies below the overlay pool, at
its top (R394). -/
def queueSpans (s : State) : List (Nat × Nat) := s.queues.map (fun (e : Nat × Queue) => (e.2.place, 8 * e.2.cap))
def chipEnd (s : State) : Nat := levelSize 2 - s.control.ovlpool * 2 ^ 20
/-- A partition's carve of the chip scratchpad. -/
def chipCarve (p : Part) : Nat × Nat := nth p.carves 2 (0, 0)

/-- The lines of the overlay pool. -/
def poolLines (s : State) : Nat := s.control.ovlpool * 2 ^ 13

/-- Whether what a partition asks for is in use or exhausted (R397). -/
def partTaken (s : State) (p : Part) : Bool :=
  let others := s.parts.map (fun (e : Nat × Part) => e.2)
  let sharing := others.filter (fun q => Nat.land q.islands p.islands ≠ 0)
  let total := fun (f : Part → Nat) => nsum (others.map f) + f p
  (upTo 10).any (fun i => bitOf p.islands i && 2 ≤ countIf (fun q => bitOf q.islands i) others) ||
  sharing.any (fun q => (upTo 4).any (fun l => carvesMeet (nth p.carves l (0, 0)) (nth q.carves l (0, 0)))) ||
  16 < total (fun q => q.windows) || 256 < total (fun q => q.peeps) || 4096 < total (fun q => q.slots) ||
  poolLines s < total (fun q => q.overlay) || 12 * 16384 < total (fun q => q.pins) ||
  others.any (fun q => carvesMeet (chipCarve p) (chipCarve q)) || (queueSpans s).any (carvesMeet (chipCarve p)) ||
  ((chipCarve p).2 ≠ 0 && chipEnd s < (chipCarve p).1 + (chipCarve p).2) ||
  others.any (fun q => Nat.land q.streamMask p.streamMask ≠ 0 || Nat.land q.bard p.bard ≠ 0 ||
    (p.dom ≠ 0 && q.dom = p.dom) || carvesMeet p.replica q.replica || carvesMeet p.replica (nth q.carves 1 (0, 0)) ||
    carvesMeet (nth p.carves 1 (0, 0)) q.replica) ||
  carvesMeet p.replica (nth p.carves 1 (0, 0)) || sharing.any (fun q => Nat.land q.barc p.barc ≠ 0)

/-- A confidential partition's level-0 table lies in a frame of its domain (R366): firmware takes a clear frame into it, written
with zeros, as PMAP does; none where the frame is another domain's, or retired (log entry 90). -/
def rootFrame (s : State) (p : Part) : Option State :=
  let f := p.ptroot / 2 ^ 17
  if p.dom = 0 then some s
  else if frameFree s f then some { zeroFrame s f with owners := mput s.owners f p.dom 0 }
  else none

/-- What the cores of an island begin with for a partition that is created on it: no tag set or counted (R244), no engine
context recorded (R245). -/
def newTags (s : State) (i : Nat) : State :=
  (coresOf i).foldl (fun s c => modCore s c fun k => { k with tags := 0, counts := [], tlw := [], guard := [] }) s

/-- PCREATE (R397): the lowest number not in use. An island with no partition runs the new one. -/
def createPart (s : State) (ws : List Nat) : State × Int :=
  if partBad ws then (s, -2)
  else
    let p := partOf ws
    if p.dom ≠ 0 ∧ enabled s 3 = false then (s, -3)
    else if partTaken s p then (s, -1)
    else match freeKey s.parts 8, rootFrame s p with
      | none, _ | _, none => (s, -1)
      | some n, some s =>
        let s := { s with parts := mset s.parts n p, engines := s.engines.filter (fun e => (e.1 / 8) % 8 ≠ n) }
        let s := ((upTo 10).filter (bitOf p.islands)).foldl (fun s i =>
          if (getIsland s i).cur.isNone then newTags (modIsland s i fun isl => { isl with cur := some n }) i else s) s
        (s, n)
/-- PCREATE. -/
def pcreate (s : State) (part : Nat) : State := fcmdRun s 1 part fun s => withBlock s createPart

/-- A context gone with its partition, and the entry of it that its core's array serves. -/
def clearPartCtx (s : State) (part : Nat) (e : Nat × Nat) : State :=
  let s := modCore (goneCtx s e.1 e.2) e.1 fun k => returnBanks k (part * 8 + e.2)
  let idle := fun (a : Array) => if a.cur.any (fun q => q.ctx = e.2) then
    { a with cur := none, left := 0, busy := 0, granted := false, moving := false } else a
  modCore (modCore s e.1 fun k => { k with array := idle k.array }) e.1 fun k =>
    if k.owner = some e.2 then { k with owner := none, last := e.2, owned := 0, held := 0 } else k

/-- Everything of a partition on one core, the hatch holdings of its tasks included. -/
def clearCore (part : Nat) (tags : List Nat) (core : Core) : Core :=
  { core with
    tlb := core.tlb.filter (fun e => e.1 / 2 ^ 57 ≠ part)
    blocks := core.blocks.filter (fun b => b.part ≠ part)
    chains := core.chains.filter (fun c => c.ctx / 8 ≠ part)
    writes := core.writes.filter (fun w => w.ctx / 8 ≠ part)
    holdings := core.holdings.filter (fun h => !tags.contains h.tag)
    shadow := match core.shadow with | some sh => if sh.part = part then none else some sh | none => none }

/-- The frames of a confidential partition's domain, written with zeros and given back to domain 0 (R358). -/
def freeFrames (s : State) (dom : Nat) : State :=
  if dom = 0 then s
  else
    let mine := (s.owners.filter (fun e => e.2 = dom)).map (fun e => e.1)
    { mine.foldl zeroFrame s with owners := s.owners.filter (fun e => e.2 ≠ dom) }

/-- An order to swap a partition in that is destroyed, undone: the contexts of the outgoing one may run on. -/
def undoSwaps (s : State) (part : Nat) : State :=
  (s.swaps.filter (fun e => e.2.incoming = part)).foldl (fun s e =>
    let stopped := match mfind s.parts e.2.outgoing with | some r => r.stopped | none => true
    dispatch { s with
      swaps := mdel s.swaps e.1
      ctxs := s.ctxs.map (fun (k : Nat × Ctx) => if k.1 / 32 = e.1 then (k.1, swapIn stopped k.2) else k) } e.1) s

/-- PDESTROY (R396): everything a stopped partition owns is freed; an island passes to the partition it shares with. -/
def destroyPart (s : State) (part : Nat) : State × Int :=
  match mfind s.parts part with
  | none => (s, -4)
  | some p =>
    if ¬ p.stopped then (s, -4)
    else
      let s := undoSwaps ((residents s part).foldl (fun s e => clearPartCtx s part e) s) part
      let heirs := (upTo 10).map (fun i => (i, ((coresOf i).findSome? (fun c => shadowPart s c)).filter (· ≠ part)))
      let s := (heirs.filter (fun h => (getIsland s h.1).cur = some part)).foldl (fun s h =>
        match h.2 with
        | none => newTags (modIsland s h.1 fun isl => { isl with cur := none }) h.1
        | some q =>
          let stopped := match mfind s.parts q with | some r => r.stopped | none => true
          let s := (coresOf h.1).foldl (fun s c =>
            let s := exchange s c part q
            { s with ctxs := s.ctxs.map (fun (e : Nat × Ctx) => if e.1 / 8 = c then (e.1, swapIn stopped e.2) else e) }) s
          modIsland s h.1 fun isl => { isl with cur := some q }) s
      let windows := s.windows.map (fun e => (e.1, if e.2.opened ∧ e.2.part = part then ({ count := e.2.count } : Window) else e.2))
      let slots := s.slots.map (fun e => if e.2.owned ∧ e.2.part = part then (e.1, ({ w0 := e.2.gen * 2 ^ 40 } : Slot)) else e)
      let tags := (s.tasks.filter (fun e => e.2.region / 4096 = part)).map (fun e => e.2.crPa)
      let s := freeFrames s p.dom
      ({ s with
          cores := s.cores.map (fun e => (e.1, clearCore part tags e.2))
          windows := windows
          slots := slots
          tasks := s.tasks.filter (fun e => e.2.region / 4096 ≠ part)
          regions := s.regions.filter (fun e => e.1 / 4096 ≠ part)
          barriers := s.barriers.filter (fun e => e.2.region / 4096 ≠ part)
          queues := s.queues.filter (fun e => e.2.part ≠ part)
          peeps := s.peeps.filter (fun e => e.2.part ≠ part)
          engines := s.engines.filter (fun e => (e.1 / 8) % 8 ≠ part)
          jobs := s.jobs.map (fun e => (e.1, e.2.filter (fun j => j.part ≠ part)))
          replicas := s.replicas.filter (fun r => r.1 / 16 ≠ part)
          streams := s.streams.filter (fun e => e.1 / 64 ≠ part)
          faults := s.faults.filter (fun f => f.part ≠ part)
          swaps := s.swaps.filter (fun e => e.2.outgoing ≠ part ∧ e.2.incoming ≠ part)
          hatchq := s.hatchq.filter (fun r => r.2.2.2 ≠ part)
          islands := s.islands.map (fun e => (e.1, { e.2 with
            reserved := mdel e.2.reserved part, deficits := e.2.deficits.filter (fun d => d.1 / 4096 ≠ part)
            served := e.2.served.filter (fun d => d.2 / 4096 ≠ part) }))
          mvuCredit := s.mvuCredit.filter (fun e => e.1 / 32 ≠ part)
          parts := mdel s.parts part }, 0)
/-- PDESTROY. -/
def pdestroy (s : State) (part : Nat) : State := fcmdRun s 2 part fun s => destroyPart s part

/-- PSTOP (R396): stops every context as step 4 of R371 does; a partition already stopped is in the wrong state. -/
def pstop (s : State) (part : Nat) : State :=
  fcmdRun s 3 part fun s => match mfind s.parts part with
    | some p => if p.stopped then (s, -4) else (haltPartition s part, 0)
    | none => (s, -4)
/-- PRESUME. -/
def presume (s : State) (part : Nat) : State :=
  fcmdRun s 4 part fun s => match mfind s.parts part with
    | some p => if p.stopped then (resumePartition s part, 0) else (s, -4)
    | none => (s, -4)

/-- A command that needs its partition. -/
def withPart (s : State) (part : Nat) (f : Part → State × Int) : State × Int :=
  match mfind s.parts part with
  | some p => f p
  | none => (s, -4)

/-- SETCOST (R312): eight entries of 1 to 384, from the next steep boundary. -/
def setcost (s : State) (part : Nat) : State :=
  fcmdRun s 5 part fun s => withPart s part fun _ => withBlock s fun s ws =>
    let es := (upTo 8).map (fun i => bitsOf (wordAt ws (i / 4)) (16 * (i % 4)) 16)
    if es.any (fun e => e = 0 || 384 < e) then (s, -2)
    else (modPart s part fun p => { p with costsNew := some es }, 0)

/-- Whether entries never fall. -/
def nonDecreasing : List Nat → Bool
  | a :: b :: t => a ≤ b && nonDecreasing (b :: t)
  | _ => true

/-- SETRAMP (R318): a ramp table of entries 1 to 4 that never fall, for an island. -/
def setramp (s : State) (part : Nat) : State :=
  fcmdRun s 6 part fun s => withBlock s fun s ws =>
    let i := wordAt ws 0
    let es := elems 8 (wordAt ws 1) 8
    if 9 < i ∨ es.any (fun e => e = 0 || 4 < e) = true ∨ nonDecreasing es = false then (s, -2)
    else (modIsland s i fun isl => { isl with ramp := es }, 0)

/-- Where firmware places a queue's entries in chip scratchpad (R17, R301): the lowest place that meets no carve, no other
queue's entries and not the overlay pool. -/
def queuePlace (s : State) (size : Nat) : Option Nat :=
  let taken := queueSpans s ++ s.parts.map (fun (e : Nat × Part) => chipCarve e.2)
  let fits := fun (a : Nat) => a + size ≤ chipEnd s && !taken.any (carvesMeet (a, size))
  least ((0 :: taken.map (fun c => c.1 + c.2)).filter fits)

/-- QCREATE (R301): −1 where the number is in use or there is no room for the entries. -/
def createQueue (s : State) (part : Nat) (p : Part) (ws : List Nat) : State × Int :=
  let w := wordAt ws 0
  let n := w % 64
  let task := bitOf w 6
  let scope := bitsOf w 7 2
  let home := bitsOf w 9 6
  let z := bitsOf w 15 4
  let island := if scope = 0 then home / 4 else home
  let local_ : Bool := scope < 2
  let cap := 16 * 2 ^ z
  if w / 2 ^ 19 ≠ 0 ∨ 12 < z ∨ (task ∧ local_) ∨ (local_ ∧ bitOf p.islands island = false) then (s, -2)
  else if (mfind s.queues n).isSome then (s, -1)
  else match queuePlace s (8 * cap) with
    | none => (s, -1)
    | some a =>
      let q : Queue := {
        part := part, task := task, scope := scopeOf scope, home := home, cap := cap, place := a, items := [], waiters := [] }
      ({ s with queues := mset s.queues n q }, 0)
/-- QCREATE. -/
def qcreate (s : State) (part : Nat) : State :=
  fcmdRun s 7 part fun s => withPart s part fun p => withBlock s fun s ws => createQueue s part p ws

/-- QDESTROY: the queue must be the partition's, and empty. -/
def qdestroy (s : State) (part : Nat) : State :=
  fcmdRun s 8 part fun s => withPart s part fun _ => withBlock s fun s ws =>
    let n := wordAt ws 0 % 64
    match mfind s.queues n with
    | none => (s, -2)
    | some q =>
      if q.part ≠ part ∨ wordAt ws 0 / 64 ≠ 0 then (s, -2)
      else if q.items ≠ [] then (s, -1)
      else ({ s with queues := mdel s.queues n }, 0)

/-- A frame taken from a kettle, its owner the kettle's domain (R363). -/
def takeKettle (s : State) (dom : Nat) : State × Option Nat :=
  match mget s.kettles dom [] with
  | [] => (s, none)
  | f :: rest => ({ s with kettles := mset s.kettles dom rest, owners := mput s.owners f dom 0 }, some f)

/-- The level-3 entry of an address, missing tables taken from the kettle (R398): its physical address, or none where a
kettle is empty or a larger page stands in the way. -/
def entryFor (s : State) (dom va table : Nat) : List Nat → State × Option Nat
  | [] => (s, some (table + 8 * bitsOf va 17 10))
  | lo :: rest =>
    let at_ := table + 8 * bitsOf va lo 10
    let (s, e) := sliceRead s 0 at_ 8
    if bitOf e 0 then
      if bitOf e 6 ∧ lo ≠ 47 then (s, none) else entryFor s dom va (bitsOf e 13 35 * 2 ^ 13) rest
    else match takeKettle s dom with
      | (s, none) => (s, none)
      | (s, some f) =>
        let s := storeAt s .control 0 at_ 8 (f * 2 ^ 17 + 1) (ones 8)
        entryFor s dom va (f * 2 ^ 17) rest

/-- PMAP's pages from `i` on (R398): the pages written, whether a valid leaf was cleared or replaced, and the status. -/
def mapPages (s : State) (p : Part) (ws : List Nat) (i : Nat) (cut : Bool) : (n : Nat) → State × Bool × Int
  | 0 => (s, cut, i)
  | n + 1 =>
    let bits := wordAt ws 3
    let clear := bitOf (wordAt ws 2) 32
    let ft := bitOf bits 3
    let va := wordAt ws 0 + 2 ^ 17 * i
    let f := wordAt ws 1 / 2 ^ 17 + i
    -- the frame and the leaf
    let owner := mget s.owners f 0
    let (s, leaf) :=
      if clear then (s, some 0)
      else if ft then (s, some (8 + p.dom * 2 ^ 8))
      else if s.retiredFrames.contains f then (s, none)
      else if owner = 0 ∧ p.dom ≠ 0 then
        ({ zeroFrame s f with owners := mput s.owners f p.dom 0 }, some (bits - bits % 2 + 1 + p.dom * 2 ^ 8 + f * 2 ^ 17))
      else if owner ≠ p.dom then (s, none)
      else (s, some (bits - bits % 2 + 1 + p.dom * 2 ^ 8 + f * 2 ^ 17))
    match leaf with
    | none => (s, cut, -1)
    | some e =>
      match entryFor s p.dom va p.ptroot [47, 37, 27] with
      | (s, none) => (s, cut, -1)
      | (s, some at_) =>
        let (s, old) := sliceRead s 0 at_ 8
        mapPages (storeAt s .control 0 at_ 8 e (ones 8)) p ws (i + 1) (cut || bitOf old 0) n

/-- Whether a PMAP block is malformed. -/
def pmapBad (ws : List Nat) : Bool :=
  let cnt := wordAt ws 2 % 2 ^ 32
  let free := bitOf (wordAt ws 2) 32 || bitOf (wordAt ws 3) 3
  wordAt ws 0 / 2 ^ 57 ≠ 0 || wordAt ws 0 % 2 ^ 17 ≠ 0 || cnt = 0 || 65536 < cnt || wordAt ws 2 / 2 ^ 33 ≠ 0 ||
  wordAt ws 3 ≠ Nat.land (wordAt ws 3) 0xBE || (ws.drop 4).any (· ≠ 0) ||
  (!free && (wordAt ws 1 % 2 ^ 17 ≠ 0 || !isLpddr (wordAt ws 1) || !isLpddr (wordAt ws 1 + (cnt - 1) * 2 ^ 17)))

/-- PMAP (R398). Firmware first sees to it that the kettle of the partition's domain holds a frame (log entry 6). Where a valid
leaf was cleared or replaced, the command returns when its shutter, with SCRUB, is complete. -/
def pmap (s : State) (part : Nat) : State :=
  if s.control.fcmd ≠ some (9, part) ∨ s.control.power ≠ .d0 then s
  else match mfind s.parts part with
    | none => fcmdEnd s (-4)
    | some p =>
      if p.shutter.isSome then s
      else match argBlock s with
        | (s, none) => fcmdEnd s (-2)
        | (s, some ws) =>
          if pmapBad ws then fcmdEnd s (-2)
          else
            let s := if mget s.kettles p.dom [] = [] then refillKettle s p.dom else s
            let cnt := wordAt ws 2 % 2 ^ 32
            match mapPages s p ws 0 false cnt with
            | (s, false, status) => fcmdEnd s status
            | (s, true, status) =>
              let s := modPart s part fun p => { p with shva := wordAt ws 0, shlen := cnt, shflags := 4 }
              let s := shutterStart s part
              modControl s fun k => { k with fcmd := some (0x109, part), fcmdres := narrow 32 status }

/-- FSVC (R371, R396): −3 without FLTSVC. -/
def fsvc (s : State) (part : Nat) : State :=
  fcmdRun s 10 part fun s => withPart s part fun _ => withBlock s fun s ws =>
    if enabled s 2 = false then (s, -3)
    else if 1 < wordAt ws 0 then (s, -2)
    else (modPart s part fun p => { p with fsvc := bitOf (wordAt ws 0) 0 }, 0)

/-- The words that PSTATS writes (R399): a retired task's energy is in its region's JOULES. -/
def statWords (s : State) (part : Nat) (p : Part) : List Nat :=
  let mine := fun (e : Nat × Region) => e.1 / 4096 = part
  let energy := p.deadJoules + nsum ((s.regions.filter (fun e => mine e)).map (fun (e : Nat × Region) => e.2.joules)) +
    nsum ((s.tasks.filter (fun e => e.2.region / 4096 = part ∧ e.2.state ≠ .retired)).map (fun (e : Nat × Task) => jouleCount e.2))
  let away := (upTo 10).any (fun i => bitOf p.islands i && (getIsland s i).cur ≠ some part)
  let state := if p.stopped then 1 else if away then 2 else 0
  let balance := (upTo 10).map (fun i => if bitOf p.islands i then narrow 64 (getIsland s i).balance else 0)
  [energy, p.refused, p.transient, p.lasting, p.faults, state] ++ balance ++ List.replicate 16 0

/-- PSTATS (R399): the block overwritten whole. -/
def pstats (s : State) (part : Nat) : State :=
  fcmdRun s 11 part fun s => withPart s part fun p =>
    let a := s.control.fcmdarg
    if ¬ isLpddr a ∨ a % 256 ≠ 0 then (s, -2)
    else (storeLines s .control 0 a (ofElems 64 (statWords s part p)) 256 3, 0)

/-! ### The debugger (R409–R411) -/

/-- HALT_REQUEST (R411): contexts named in HALTREQ bits 7:0 whose partition consents; others are ignored. -/
def haltRequest (s : State) (c v : Nat) : State :=
  if answering s = false then s
  else (upTo 8).foldl (fun s x =>
    let k := getCtx s c x
    let asked := (getCore s c).probe.halts.any (fun h => h.1 = x ∧ h.2.1 = k.part)
    if bitOf v x ∧ k.status ≠ .free ∧ k.status ≠ .ending ∧ consents s k.part 1 = true ∧ asked = false then
      modCore s c fun core => { core with probe := { core.probe with halts := core.probe.halts ++ [(x, k.part, core.cycle)] } }
    else s) s

/-- The cycle in which a halt of a context was asked for, if one was and its partition still consents (R411, R412). -/
def haltAsked (s : State) (c x : Nat) : Option Nat :=
  let part := (getCtx s c x).part
  if consents s part 1 then ((getCore s c).probe.halts.find? (fun h => h.1 = x ∧ h.2.1 = part)).map (fun h => h.2.2) else none

/-- Whether a halted context may stand at this boundary: an iteration of level 0 has just ended, or no level is active. -/
def haltPoint (k : Ctx) : Bool := k.loops = [] || k.iterEnd

/-- A halt landed: DEBUG with an object, and a halt record. -/
def landHalt (s : State) (c x obj : Nat) : State :=
  let s := toBoundary s c x
  let k := getCtx s c x
  let r := traceRecord s c x k.pc.toNat 0 2
  let s := modCore s c fun core => { core with
    probe := { pushTrace core.probe r with halts := core.probe.halts.filter (fun h => ¬ (h.1 = x ∧ h.2.1 = k.part)) } }
  takeFault s c x { code := codeDebug, obj := obj, pc := k.pc.toNat }

/-- Whether a context can be halted: it is not frozen for another cause. -/
def haltable (k : Ctx) : Bool := k.status = .ready || k.status = .waiting

/-- HALT_LAND (R411). -/
def haltLand (s : State) (c x : Nat) : State :=
  match haltAsked s c x with
  | some _ => if haltable (getCtx s c x) && haltPoint (getCtx s c x) then landHalt s c x 0xFF else s
  | none => s

/-- HALT_TIMEOUT (R411): no such boundary within 2^20 cycles. -/
def haltTimeout (s : State) (c x : Nat) : State :=
  match haltAsked s c x with
  | some t => if haltable (getCtx s c x) && t + 2 ^ 20 ≤ (getCore s c).cycle then landHalt s c x 0xFE else s
  | none => s

/-- Whether a context stands frozen by a DEBUG fault that firmware has not yet passed to the debugger. -/
def toBeHalted (s : State) (c x : Nat) : Bool :=
  s.faults.any fun it => it.stage = .fresh && it.code = codeDebug && faultCtx s it == some (c, x)

/-- RESUME_REQUEST (R411): the contexts named in HALTREQ bits 15:8 that are halted go on, as by RESUME; for one that is about to be
halted the request is kept. -/
def resumeRequest (s : State) (c v : Nat) : State :=
  if answering s = false then s
  else (upTo 8).foldl (fun s x =>
    if bitOf v (8 + x) ∧ (getCtx s c x).status = .halted then
      (gangCores s c x).foldl (fun s r => modCtx s r x fun k => if k.status = .halted then { k with status := runStatus s r k.part } else k) s
    else if bitOf v (8 + x) ∧ toBeHalted s c x = true then
      modCore s c fun k => { k with probe := { k.probe with resumes := (k.probe.resumes ++ [x]).eraseDups } }
    else s) s

/-- TRPOP_WRITE (R409). -/
def trpop (s : State) (c : Nat) : State :=
  if answering s = false then s
  else modCore s c fun core => { core with probe := { core.probe with fifo := core.probe.fifo.drop 1 } }

/-- A write to a register of a debug block (R409). -/
def debugWrite (s : State) (c off v : Nat) : State :=
  let dbg := fun (f : Debug → Debug) => modCore s c fun core => { core with probe := f core.probe }
  if ¬ enabled s 4 then s
  else match off with
    | 0x00 => resumeRequest (haltRequest s c v) c v
    | 0x08 => dbg fun d => { d with brken := BitVec.ofNat 64 v }
    | 0x10 => dbg fun d => { d with trgstart := BitVec.ofNat 64 v }
    | 0x18 => dbg fun d => { d with trgstop := BitVec.ofNat 64 v }
    | 0x20 => dbg fun d =>
        let open_ := if bitOf v 8 then d.trgctl &&& 0x200#64 else 0
        { d with trgctl := BitVec.ofNat 64 (v % 512) ||| open_ }
    | 0x30 => trpop s c
    | _ => s

/-! ### Register writes (R393) -/

/-- The core of a debug block, and the offset in it. -/
def debugBlock (off : Nat) : Option (Nat × Nat) :=
  if 0x1000000 ≤ off ∧ off < 0x1000000 + 0x20000 * 40 then some ((off - 0x1000000) / 0x20000, off % 0x20000)
  else if 0x1500000 ≤ off ∧ off < 0x1500000 + 0x20000 * 8 then some (samplerCore ((off - 0x1500000) / 0x20000), off % 0x20000)
  else none

/-- A write to a register of a partition's block: its streams, and its shutter block. -/
def partWrite (s : State) (part off v : Nat) : State :=
  if (mfind s.parts part).isNone ∨ answering s = false then s
  else if off < 0x1000 then
    match off % 64 with
    | 0x00 => csbaseWrite s part (off / 64) v
    | 0x08 => csctl s part (off / 64) v
    | 0x18 => cstail s part (off / 64) v
    | _ => s
  else if off = 0x1000 then modPart s part fun p => { p with shva := v % 2 ^ 57 }
  else if off = 0x1008 then shctlWrite s part v
  else s

/-- A write to the global block. -/
def globalWrite (s : State) (off v : Nat) : State :=
  let ctl := fun (f : Control → Control) => modControl s f
  match off with
  | 0x020 => if s.control.mstate = .negotiate then ctl fun k => { k with enable := Nat.land v Config.features.toNat } else s
  | 0x030 => ctl fun k => { k with fwaddr := v }
  | 0x038 => ctl fun k => { k with fwlen := v }
  | 0x040 => let s := if bitOf v 0 then fwctlGo s else s; if bitOf v 1 then fwctlStart s else s
  | 0x048 => if s.control.mstate = .negotiate then ctl fun k => { k with ovlpool := min 64 (v % 128) } else s
  | 0x050 => pwrlimWrite s v
  | 0x058 => thermWrite s v
  | 0x080 => fcmdWrite s v
  | 0x088 => ctl fun k => { k with fcmdarg := v }
  | 0x0C0 => ctl fun k => { k with evbase := v / 128 * 128 }
  | 0x0C8 => flushEvents (ctl fun k => { k with evctl := v % 32 + natOf (bitOf v 8) * 256 }) 257
  | 0x0D8 => evtailWrite s v
  | 0x0E0 => fsresp s v
  | _ => s

/-- REGISTER_WRITE (R393): an aligned 8-byte write in BAR0; any other is ignored. In FAILED only the global block answers. The
offset past BAR0 stands for the base of the HDM decoder, which the host programs outside BAR0 (R392; log entry 91). -/
def registerWrite (s : State) (off v0 : Nat) : State :=
  let v := v0 % 2 ^ 64
  if off % 8 ≠ 0 then s
  else if off < 0x1000 then globalWrite s off v
  else if answering s = false then s
  else if off = 0x2000000 then modControl s fun k => { k with hdmbase := v }
  else if 0x100000 ≤ off ∧ off < 0x100000 + 0x10000 * 8 then partWrite s ((off - 0x100000) / 0x10000) (off % 0x10000) v
  else match debugBlock off with
    | some (c, o) => debugWrite s c o v
    | none => s

/-! ### Register reads (R360, R393, R400, R401, R409, R412) -/

/-- STATE as MSTATE shows it. -/
def MState.code : MState → Nat
  | .reset => 0
  | .fwwait => 1
  | .fwcheck => 2
  | .negotiate => 3
  | .ready => 4
  | .failed => 5

/-- A read of the global block. A write-only register, and a reserved offset, read 0. PWRLIM and THERM read as last written. -/
def globalRead (s : State) (off : Nat) : Nat :=
  let k := s.control
  match off with
  | 0x000 => k.wid % 4 * 2 ^ 16 + k.fail % 2 ^ 8 * 2 ^ 8 + k.mstate.code
  | 0x008 => Config.moduleRevision.toNat
  | 0x010 => Config.features.toNat
  | 0x020 => k.enable
  | 0x030 => k.fwaddr
  | 0x038 => k.fwlen
  | 0x048 => k.ovlpool
  | 0x050 => s.gov.pwrlimNew
  | 0x058 => s.gov.thermNew
  | 0x088 => k.fcmdarg
  | 0x090 => natOf k.fcmd.isSome * 2 ^ 63 + k.fcmdres % 2 ^ 32
  | 0x0C0 => k.evbase
  | 0x0C8 => k.evctl
  | 0x0D0 => k.evhead
  | 0x0D8 => k.evtail
  | 0x0E8 => k.evlost
  | _ => 0

/-- A read of a stream's register. -/
def streamRead (t : Stream) (off : Nat) : Nat :=
  match off with
  | 0x00 => t.base
  | 0x08 => natOf t.en * 2 ^ 8 + t.size
  | 0x10 => t.head
  | 0x18 => t.tail
  | 0x20 => csstat t
  | 0x28 => t.errva
  | _ => 0

/-- A read of a partition's block: its streams, and its shutter block. -/
def partRead (s : State) (part off : Nat) : Nat :=
  match mfind s.parts part with
  | none => 0
  | some p =>
    if off < 0x1000 then streamRead (getStream s part (off / 64)) (off % 64)
    else if off = 0x1000 then p.shva
    else if off = 0x1008 then p.shlen % 2 ^ 32 * 2 ^ 32 + natOf p.shlost * 16 + natOf p.shutter.isSome * 8 + p.shflags % 8
    else if off = 0x1010 then p.shseq
    else 0

/-- The partition and kind of a trace record (R409). -/
def Trace.part (r : Trace) : Nat := bitsOf r.w3 10 3
/-- Whether a record may be read: its partition consents, to halts for a halt record and to traces and captures for another. -/
def Trace.open (s : State) (r : Trace) : Bool := consents s r.part (if r.w3 % 2 ^ 8 = 2 then 1 else 0)

/-- Whether the profile counters of a core's context may be read: the partition that runs there, the context's or its island's,
consents. -/
def profOpen (s : State) (c x : Nat) : Bool :=
  match mfind s.ctxs (c * 8 + x) with
  | some k => consents s k.part 0
  | none => !isSampler c && (match (getIsland s (islandOf c)).cur with | some p => consents s p 0 | none => false)

/-- A read of a debug block: what is of a partition that does not consent reads 0 (R412). Without DEBUG all of it reads 0. -/
def debugRead (s : State) (c off : Nat) : Nat :=
  let d := (getCore s c).probe
  let head := d.fifo.head?.filter (Trace.open s)
  if enabled s 4 = false then 0
  else if 0x1000 ≤ off then
    let key := (off - 0x1000) / 8
    if key < 16 * 48 ∧ profOpen s c (key / 96) = true then mget d.prof key 0 else 0
  else match off with
    | 0x08 => d.brken.toNat
    | 0x10 => d.trgstart.toNat
    | 0x18 => d.trgstop.toNat
    | 0x20 => d.trgctl.toNat
    | 0x28 => min 65535 d.ovf * 2 ^ 16 + countIf (Trace.open s) d.fifo
    | 0x40 => (head.map fun r => r.w0).getD 0
    | 0x48 => (head.map fun r => r.w1).getD 0
    | 0x50 => (head.map fun r => r.w2).getD 0
    | 0x58 => (head.map fun r => r.w3).getD 0
    | _ => 0

/-- What a read of `n` bytes of BAR0 returns (R393): registers take aligned 8-byte accesses, and any other reads 0. In FAILED only
the global block answers (R391). -/
def registerRead (s : State) (off n : Nat) : Nat :=
  if off % 8 ≠ 0 ∨ n ≠ 8 then 0
  else if off < 0x1000 then globalRead s off
  else if answering s = false then 0
  else if 0x100000 ≤ off ∧ off < 0x100000 + 0x10000 * 8 then partRead s ((off - 0x100000) / 0x10000) (off % 0x10000)
  else match debugBlock off with
    | some (c, o) => debugRead s c o
    | none => 0

/-! ### Power states (R413) -/

/-- D3HOT_ENTRY (R413): running partitions stop as by PSTOP, dirty lines are written back, and, once no store is on its way, what
the SRAM held beyond the carves and page-table state is gone; the region tables, ready lists, queues and batching table are saved. -/
def d3hotEntry (s : State) : State :=
  if s.control.power ≠ .d0 ∨ s.control.mstate ≠ .ready then s
  else
    let s := (s.parts.filter (fun e => ¬ e.2.stopped)).foldl (fun s e => haltPartition s e.1) s
    let s := s.cores.foldl (fun s e => flushAll s e.1) s
    let s := (upTo 10).foldl cluFlush s
    if s.stores ≠ [] then s
    else
    let off := fun (k : Core) => ({
      cycle := k.cycle, tnext := k.tnext, scratch := k.scratch, lane := k.lane, poison := k.poison, fenced := k.fenced
      failed := k.failed } : Core)
    { s with
      ctxs := []
      cores := s.cores.map (fun e => (e.1, off e.2))
      slices := []
      cluLines := []
      replicas := []
      peeps := []
      windows := s.windows.map (fun e => (e.1, ({ count := e.2.count } : Window)))
      engines := []
      barriers := s.barriers.map (fun e => (e.1, { e.2 with phase := 0, arrivals := 0 }))
      jobs := []
      faults := []
      swaps := []
      parts := s.parts.map (fun e => (e.1, { e.2 with shutter := none, bindings := [] }))
      queues := s.queues.map (fun e => (e.1, { e.2 with waiters := [] }))
      control := { s.control with power := .d3hot } }

/-- D3HOT_EXIT (R413): what was saved is restored; islands begin their cycle counts anew. PRESUME, one for each partition,
follows. -/
def d3hotExit (s : State) : State :=
  if s.control.power ≠ .d3hot then s
  else
    { s with
      cores := s.cores.map (fun e => (e.1, { e.2 with cycle := 0 }))
      islands := s.islands.map (fun e => (e.1, { e.2 with slewAt := 0, gated := false, idle := 0, active := 0, lam := 0 }))
      control := { s.control with power := .d0 } }

/-- D3COLD (R413): everything in the module is lost, until RESET and bring-up. -/
def d3cold (s : State) : State := modControl (moduleReset s) fun k => { k with power := .d3cold }

end Sys2Proof.Machine
end

