-- ==== Sys2Proof/Machine/Bundle.lean ====
section
/-! DEFINITION. A bundle as its four words: header, extensions, and the checks made on the encoding alone (R30–R45). -/

namespace Sys2Proof.Machine

/-- One of the four words of a bundle: empty (R34), a header (R36), an operation of a class, or a word of a class that encodes
none (R39, R46), with the operation it would be but for its reserved bits and its Q bit, which the checks of R44 still see. -/
inductive Cell where
  | empty
  | header (w : BitVec 32)
  | op (cls : Nat) (f : Op)
  | bad (cls : Nat) (f : Option Op)

/-- The bits of an operation's word that its entry leaves unassigned or gives one value (R39), and the Q bit where it must be
0 (R64). Bits that choose among variants alike in what they write and extend count with them; those of PWATCH (R262) and of
TOKRDY (R335) do not: `word` tells which form stands there, and a form that the entry does not give is none. -/
def reservedBits (cls op word : Nat) : Nat :=
  match cls with
  | 0 => nth [0x83ffff, 0x800000, 0x800fff, 0x800000, 0x83ffff, 0x83ffff, 0x83ffff, 0x83ffff, 0x800038] op 0
  | 2 => if op = 14 ∨ op = 15 then 0x3c else if op = 27 then 0xc00 else 0x3f
  | 4 => 0x1f
  | 5 => if op = 22 then 0x21f else if 19 ≤ op then 0x210 else 0x1f
  | 6 => nth [0x10, 0x10, 0x10, 0x10, 0, 0x1e, 0, 0, 0, 0, 0x200, 0x10, 0x1f, 0x1f, 0x1f, 0x1f, 0x1f, 0x21f, 0x7c1f] op 0
  | 7 => if 11 ≤ op then 0x1c else 0x1f
  | 8 => nth [0x800000, 0x800000, 0x800000, 0x80003f, 0x80003f, 0x800fbf, 0x800fff, 0x8fffff] (op / 4) 0
  | 9 => nth [0x83ffff, 0x80000e, 0x800fff, 0x8001ff, 0x801fff, 0x800fff] op 0
  | 10 => if op = 27 then 0x800003 else if op = 30 then 0x820f03 else if op = 31 then 0x830fff else 0x800000
  | 11 => nth [0x800000, 0x800000, 0x800000, 0x800000, 0x800000, 0x800000, 0x800000, 0x800000, 0x800000, 0x800000, 0x800000,
      0x830000, 0x830000, 0x830000, 0x83fffc, 0x80003f, 0x80003f, 0x83803f, 0x800e3f, 0x800fff, 0x800fff, 0x80003f, 0x80003f,
      0x800000, 0x80003f, 0x800003, 0x800000, 0x800fff, nth [0x800000, 0x800f00, 0x800f00] (word % 4) 0, 0x800f03, 0x800000,
      nth [0x80003f, 0x80f000] (bitsOf word 16 2) 0] op 0
  | 12 => nth [0x800000, 0x800000, 0x800001, 0x807fff, 0x83800f] op 0
  | 13 => nth [0x83f000, 0x80003f, 0x80003f, 0x83f000, 0x83ffc0, 0x800fff, 0x800fff, 0x800fff, 0x800fff, 0x800000, 0x80003f,
      0x800000, 0x80003c, 0x800000, 0x800000, 0x800c00] op 0
  | _ => 0

/-- A word with those bits zero. -/
def withoutReserved (w : BitVec 32) : BitVec 32 :=
  w &&& ~~~ BitVec.ofNat 32 (reservedBits (bitsOf w.toNat 28 4) (bitsOf w.toNat 18 5) w.toNat)

/-- An operation in its slot. -/
structure Placed where
  pos : Nat
  cls : Nat
  ext : Ext
  info : SlotInfo

/-- The class of a word that is not empty. -/
def Cell.cls : Cell → Option Nat
  | .empty => none
  | .header _ => some 14
  | .op c _ => some c
  | .bad c _ => some c

/-- The header of a bundle: slot 0 of class E. -/
def headerOf : List Cell → Option (BitVec 32)
  | .header w :: _ => some w
  | _ => none

/-- The words of a bundle with their slot numbers. -/
def numbered (b : List Cell) : List (Cell × Nat) := b.zipIdx

/-- An operation in a slot of a bundle, with what the header adds (R38). -/
def placeIn (b : List Cell) (n cls : Nat) (f : Op) : Placed where
  pos := n
  cls := cls
  ext := extOf (headerOf b) n
  info := f (extOf (headerOf b) n)

/-- The operations of a bundle. -/
def placedOf (b : List Cell) : List Placed :=
  (numbered b).filterMap fun e => match e.1 with | .op c f => some (placeIn b e.2 c f) | _ => none

/-- The operations that the checks of R44 see: those of words with reserved bits or an illegal Q bit among them. -/
def namedOf (b : List Cell) : List Placed :=
  (numbered b).filterMap fun e => match e.1 with
    | .op c f => some (placeIn b e.2 c f)
    | .bad c (some f) => some (placeIn b e.2 c f)
    | _ => none

/-- The slots whose class passes a test. -/
def slotsOf (b : List Cell) (f : Nat → Bool) : List Nat :=
  (numbered b).filterMap fun e => match e.1.cls with | some c => if f c then some e.2 else none | none => none

/-- A set of slots as a mask. -/
def maskOf (l : List Nat) : Nat := nsum ((upTo 4).map fun i => if l.contains i then 2 ^ i else 0)

/-- The slots of a list if it is longer than a limit. -/
def past (limit : Nat) (l : List Nat) : List Nat := if limit < l.length then l else []

/-- The lane groups a vector slot uses: from its base, how many (R38). R43 does not say how many the illegal width code 11
stands for: the model counts none, so that such a slot adds nothing to a bundle's total and shares a lane group with another
only where its base lies strictly inside that one's (log entry 80). -/
def groupsOf (e : Ext) : Nat × Nat :=
  (bitsOf e.x 5 2, match bitsOf e.x 7 2 with | 0 => 4 | 1 => 2 | 2 => 1 | _ => 0)

/-- Whether two runs of lane groups share one. -/
def groupsMeet (a b : Nat × Nat) : Bool := a.1 < b.1 + b.2 && b.1 < a.1 + a.2

/-- Pairs of slots, the lower first, that meet a test. -/
def pairs {β : Type} (l : List (Nat × β)) (f : β → β → Bool) : List Nat :=
  l.flatMap fun a => l.flatMap fun b => if a.1 < b.1 && f a.2 b.2 then [a.1, b.1] else []

/-- The vector slots that break R43. -/
def vectorErrors (sampler : Bool) (b : List Cell) : List Nat :=
  let vs := (slotsOf b (fun c => 4 ≤ c && c ≤ 7)).map (fun n => (n, groupsOf (extOf (headerOf b) n)))
  if sampler then
    past 1 (vs.map (fun v => v.1)) ++ (vs.filter (fun v => v.2 ≠ (0, 1))).map (fun v => v.1)
  else
    pairs vs groupsMeet ++ (if 4 < nsum (vs.map (fun v => v.2.2)) then vs.map (fun v => v.1) else [])

/-- Whether a destination names a register that can be written: v63, and predicates from p12 and q12, do not (R25, R26). An odd
predicate below 12, illegal in its slot, counts as its pair (log entry 92). -/
def Reg.writable : Reg → Bool
  | .v n => n < 63
  | .p i => i < 6
  | .q i => i < 6
  | .none => false
  | _ => true

/-- Whether two operations write one register (R44). -/
def writesMeet (a b : Placed) : Bool :=
  let vec := fun (p : Placed) => 4 ≤ p.cls && p.cls ≤ 7
  let apart := vec a && vec b && !groupsMeet (groupsOf a.ext) (groupsOf b.ext)
  a.info.writes.any fun r => r.writable && b.info.writes.contains r && !(apart && (match r with | .v _ => true | _ => false))

/-- The slots involved in a failed check of R44, by what is checked: placement (R34, R36, R43), the header (R37, R38),
resources (R43), write conflicts. A class 3 word with a reserved opcode counts as the class 3 operation that L = 1 needs in
slot 1 (log entry 93): R37 does not say, and such a slot is then ILLEGAL_SLOT. -/
def bundleErrors (sampler : Bool) (b : List Cell) : List Nat :=
  let hdr := headerOf b
  let long := match hdr with | some w => bitOf w.toNat 27 | none => false
  let imm := (slotsOf b (fun c => c = 3)).contains 1
  let heads := fun (l : List Nat) => l.flatMap (fun n => [0, n])
  (slotsOf b (· = 0)).filter (· ≠ 3) ++ (slotsOf b (· = 12)).filter (· < 2) ++ (slotsOf b (· = 14)).filter (· ≠ 0) ++
  (if long && !imm then [0, 1] else []) ++
  heads (((numbered b).filter (fun e => e.1.cls = none ∧ (extOf hdr e.2).x ≠ 0)).map (fun e => e.2)) ++
  heads (((namedOf b).filter (fun p => !p.info.extLegal)).map (fun p => p.pos)) ++
  past (if sampler then 1 else 2) (slotsOf b (fun c => c = 10 || c = 11)) ++
  past (if sampler then 1 else 2) (slotsOf b (fun c => (1 ≤ c && c ≤ 3) || (sampler && c = 13))) ++
  past 1 (slotsOf b (· = 13)) ++
  (if sampler then [] else past 1 (slotsOf b (fun c => c = 8 || c = 9)) ++ past 1 (slotsOf b (· = 12))) ++
  vectorErrors sampler b ++
  pairs ((namedOf b).map (fun p => (p.pos, p))) writesMeet

/-- The slots that break a rule on their own (R45), or that the core does not accept (R43, R332). -/
def slotErrors (sampler : Bool) (b : List Cell) : List Nat :=
  ((numbered b).filterMap fun e => match e.1 with | .bad _ _ => some e.2 | _ => none) ++
  ((placedOf b).filter (fun p => !p.info.legal || (if sampler then !p.info.sampler else p.info.samplerOnly))).map
    (fun p => p.pos)

/-- The decode fault of a bundle at an address (R45). -/
def decodeFault (sampler : Bool) (pc : Nat) (b : List Cell) : Option Trap :=
  let m := maskOf (bundleErrors sampler b)
  let n := maskOf (slotErrors sampler b)
  if m ≠ 0 then some { code := codeIllegalBundle, mask := m, pc := pc }
  else if n ≠ 0 then some { code := codeIllegalSlot, mask := n, pc := pc }
  else none

/-- What a context's next bundle is: its operations, a fault found as it is decoded, or a bundle that the instruction store
does not hold. -/
inductive Fetch where
  | slots (l : List Placed)
  | fault (t : Trap)
  | missing

/-- A bundle decoded. -/
def decodeBundle (sampler : Bool) (pc : Nat) (b : List Cell) : Fetch :=
  match decodeFault sampler pc b with
  | some t => .fault t
  | none => .slots (placedOf b)

/-- The bundle that holds one operation, in the slot and with the header that the latch of the model gives. -/
def oneCell (l : Latch) (cls : Nat) (f : Op) : List Cell :=
  let first : Cell := match l.hdr with | some w => .header w | none => .empty
  setAt [first, .empty, .empty, .empty] (l.slot % 4) (.op cls f)

/-- Whether a core has fetched from a block under a virtual block address. -/
def Block.mapped (b : Block) (va : Nat) : Bool := b.maps.any (fun m => m.1 = va)

/-- The block of an instruction store that holds an address of a partition (R290). -/
def blockAt (s : State) (c part va : Nat) : Option Block :=
  (getCore s c).blocks.find? (fun b => b.part = part && b.mapped (alignDown va 12))

/-- The four words of the bundle at an address. -/
def bundleWords (b : Block) (va : Nat) : List (BitVec 32) :=
  (upTo 4).map (fun i => BitVec.ofNat 32 (readNat b.bytes (va % 2 ^ 12 + 4 * i) 4))

/-- Room for a block among the 128 of an instruction store (R11, R290), in an order that is not architectural (log entry
26). -/
def blockRoom (s : State) (bs : List Block) : List Block :=
  if bs.length < 128 then bs else bs.eraseIdx (Config.blockVictim s.free).toNat

/-- IFETCH_FILL (R68, R290): the block of the bundle that a context waits for. One that the store holds under its physical
address is used as it stands; any other is read at its slices. A walk that fails, or a page that may not be read as code,
freezes the context at the target, at the bundle boundary that ends the cycles its last bundle holds (R55). -/
def fetchFill (s : State) (c x : Nat) : State :=
  let k := getCtx s c x
  let pc := k.pc.toNat
  if (getCore s c).owner ≠ some x ∨ (blockAt s c k.part pc).isSome = true then s
  else
    let fault := fun (t : State) (code : Nat) =>
      if (getCore s c).held ≠ 0 then s else takeFault t c x { code := code, va := pc, obj := 0xFF, pc := pc }
    match translate s c k.part k.task pc with
    | (s, .inr code) => fault s code
    | (s, .inl l) =>
      if l.perm % 2 = 0 ∨ isMmio l.frame = true then fault s codePerm
      else
        let pa := alignDown (leafPa l pc) 12
        let tag := fun (b : Block) => b.part = k.part && b.pa = pa
        let map := (alignDown pc 12, l.size)
        if (getCore s c).blocks.any tag then
          modCore s c fun core => { core with
            blocks := core.blocks.map fun b => if tag b then { b with maps := b.maps ++ [map] } else b }
        else
          let s := sliceFetchAll s k.task pa 4096
          let bytes := (s.mem.filter (fun e => pa ≤ e.1 && e.1 < pa + 4096)).map (fun (e : Nat × Byte) => (e.1 - pa, e.2))
          modCore (bumpFree s) c fun core => { core with
            blocks := blockRoom s core.blocks ++ [{ part := k.part, pa := pa, maps := [map], bytes := bytes }] }

end Sys2Proof.Machine
end

