-- ==== Sys2Proof/Machine/Issue.lean ====
section
/-! DEFINITION. The issue of a bundle: what holds it back, the faults found at it, and its effects; the cycles of a core,
and the passing of issue between contexts (R52–R66, R75, R76, R164, R181, R182, R291, R292, R369, R370). -/

namespace Sys2Proof.Machine

/-! ### The slots of a rank whose guards are true (R32, R62, R63, R292) -/

/-- Whether a slot steers the bundle stream, so that a gang takes its guard and operands from rank 0. -/
def Placed.steers (p : Placed) : Bool := p.cls = 0 || p.cls = 12

/-- The context whose guard and operands a slot of rank `r` uses; `c` is rank 0. -/
def guardCtx (s : State) (c x r : Nat) (p : Placed) : Ctx := getCtx s (if p.steers then c else r) x

/-- Whether a slot executes on a rank. -/
def isLive (s : State) (c x r : Nat) (p : Placed) : Bool := p.info.guard.holds (guardCtx s c x r p)

/-- The slots of a bundle that execute on a rank. -/
def liveSlots (s : State) (c x r : Nat) (ps : List Placed) : List Placed := ps.filter (isLive s c x r)

/-- Where a slot executes. -/
def portOf (s : State) (c x r : Nat) (p : Placed) : Port where
  core := r
  ctx := x
  pos := p.pos
  pc := (getCtx s r x).pc.toNat
  lead := c
  ext := p.ext
  squash := p.info.squash
  lanes := p.info.guard.lanes (guardCtx s c x r p)

/-- The registers of rank `r` that a slot reads. -/
def readsOn (c r : Nat) (p : Placed) : List Reg := if p.steers ∧ r ≠ c then p.info.ownReads else p.info.reads

/-! ### What holds a bundle back (R57, R61, R164, R222) -/

/-- Whether a slot waits for its guard. -/
def guardPends (s : State) (c x r : Nat) (p : Placed) : Bool :=
  if p.steers ∧ r ≠ c then false else isPending r (getCtx s r x) p.info.guard.reg

/-- Whether a true-guarded slot waits for its registers: pending ones, and fixed-latency results in flight to a register that
its variable-latency work is to write (R57). -/
def operandPends (s : State) (c x r : Nat) (p : Placed) : Bool :=
  let k := getCtx s r x
  (readsOn c r p).any (isPending r k) || p.info.writes.any (isPending r k) ||
  p.info.varWrites.any (fun g => g ≠ .none && k.flights.any (fun f => f.reg = g))

/-- The slots of a rank that wait. -/
def waiting (s : State) (c x r : Nat) (ps : List Placed) : List Placed :=
  ps.filter fun p => guardPends s c x r p || (isLive s c x r p && operandPends s c x r p)

/-- The tiles of a drain. -/
def Drain.tiles (d : Drain) : List Nat := if d.pair then [d.tile, d.tile + 1] else [d.tile]

/-- Whether a context's drain must wait for its next row (R164). -/
def drainWaits (s : State) (r x : Nat) : Bool :=
  let k := getCtx s r x
  match k.drain with
  | some d => d.tiles.any fun t => watermark (getCore s r) k x t ≤ d.next
  | none => false

/-- Whether the row a drain is to receive is poisoned. -/
def drainBad (s : State) (r x : Nat) : Bool :=
  match (getCtx s r x).drain with
  | some d => d.tiles.any fun t => (getCore s r).badRows.contains (t * 32 + d.next)
  | none => false

/-- Whether a register entry of a rank fails its parity check (R383, R386). -/
def regBad (s : State) (x r : Nat) (g : Reg) : Bool := (getCore s r).failed.any fun e => decide (e.1 = x ∧ e.2 = g)

/-- Whether a slot meets an error that is detected and not corrected as its bundle is presented (R383): a register entry it
reads, its guard among them, or its scalar or address arithmetic. -/
def slotBad (s : State) (c x r : Nat) (p : Placed) : Bool :=
  (!(p.steers && r ≠ c) && regBad s x r p.info.guard.reg) ||
  (isLive s c x r p && ((readsOn c r p).any (regBad s x r) ||
    ((getCore s r).residue && (p.info.res = .scalar || p.info.res = .memory))))

/-- Whether a slot of a rank meets such an error. -/
def entryBad (s : State) (c x r : Nat) (ps : List Placed) : Bool := ps.any (slotBad s c x r)

/-- The next row in the drain latch, before the bundle's slots read it (R164). -/
def fillLatch (s : State) (r x : Nat) : State :=
  match (getCtx s r x).drain with
  | some d =>
    let row := fun (t : Nat) => tileRow (getCore s r).tiles t d.next
    modCtx s r x fun k =>
      { k with latch := BitVec.ofNat 1024 (row d.tile + if d.pair then row (d.tile + 1) * 2 ^ 512 else 0), latchRow := d.next }
  | none => s

/-- A drain one row on; after the 32nd it ends. -/
def stepDrain (k : Ctx) : Ctx :=
  match k.drain with
  | some d => { k with drain := if d.next = 31 then none else some { d with next := d.next + 1 } }
  | none => k

/-! ### Deferred faults (R65, R197) -/

/-- The deferred fault that a bundle raises by naming its register in a true-guarded slot: the earliest. A load to s0 leaves no
register to name: R197 does not say that reading s0 raises its fault, which here waits for the next yield point (log entry
88). -/
def touchedFault (s : State) (c x r : Nat) (ps : List Placed) : Option Deferred :=
  let regs := (liveSlots s c x r ps).flatMap (fun p => readsOn c r p ++ p.info.writes)
  (getCtx s r x).deferred.find? (fun d => d.reg ≠ .none && regs.contains d.reg)

/-- The first rank of a list for which a function answers, with its answer. -/
def firstRank {β : Type} (rs : List Nat) (f : Nat → Option β) : Option (Nat × β) :=
  rs.findSome? fun r => (f r).map fun a => (r, a)

/-! ### The plan of a bundle -/

/-- What comes of a bundle at its presentation: it stalls, with the slots that wait on each rank and the requests it leaves; a fault on a
rank, a deferred one with its place in issue order; a blocking wait whose condition is not met; or its effects by rank. -/
inductive Plan where
  | stall (slots : List (Nat × Placed)) (ask : State → State)
  | fault (rank : Nat) (t : Trap) (held : Option Nat)
  | wait (waits : List (Nat × Wait)) (ask : State → State)
  | go (effects : List (Nat × List (Placed × Effect)))

/-- The state a slot's turn leaves for the slots that meet a unit after it; the window unit has accepted all of the
bundle's stores or none (R269). -/
def SlotRes.turned (r x : Nat) : SlotRes → State → State
  | .go e, t => if e.turn then modCtx (e.act t) r x fun k => { k with wack := (getCtx t r x).wack } else t
  | _, t => t

/-- What the true-guarded slots of a rank answer, the units standing as in `t` for those that meet them in turn; and what
they leave the next. A slot that meets an uncorrected error answers POISON (R383). -/
def answers (s : State) (c x r : Nat) (ps : List Placed) (t : State) : State × List (Placed × SlotRes) :=
  (ps.filter fun p => isLive s c x r p || slotBad s c x r p).foldl (fun a p =>
    let v := if slotBad s c x r p then .trap (trapOf codePoison)
      else p.info.run (portOf s c x r p) (if p.info.inTurn then a.1 else s)
    (v.turned r x a.1, a.2 ++ [(p, v)])) (t, [])

/-- What the slots of every rank answer. -/
def allAnswers (s : State) (c x : Nat) (rs : List Nat) (ps : List Placed) : List (Nat × List (Placed × SlotRes)) :=
  (rs.foldl (fun a r => let v := answers s c x r ps a.1; (v.1, a.2 ++ [(r, v.2)])) (s, [])).2

/-- Whether a slot's answer stalls its bundle. -/
def SlotRes.stalls : SlotRes → Bool
  | .stall => true
  | .stallAsk _ => true
  | .prep _ => true
  | _ => false

/-- The request a stalled or waiting slot leaves; a cycle of a descriptor read is counted. -/
def SlotRes.asks (r x : Nat) : SlotRes → State → State
  | .stallAsk f, s => f s
  | .wait _ f, s => f s
  | .prep n, s => modCtx s r x fun k => { k with preStall := n }
  | _, s => s

/-- A stalled slot waits at its handles: one that is revoked is to be translated anew (R362). -/
def seekHandles (r x : Nat) (p : Placed × SlotRes) (s : State) : State :=
  if p.2.stalls then modCtx s r x fun k =>
    p.1.info.reads.foldl (fun k g => match g with | .h n => seekHandle n k | _ => k) k
  else s

/-- The requests of every rank's slots. -/
def allAsks (x : Nat) (as : List (Nat × List (Placed × SlotRes))) (s : State) : State :=
  as.foldl (fun s a => a.2.foldl (fun s p => seekHandles a.1 x p (p.2.asks a.1 x s)) s) s

/-- Whether the slots of a rank together ask for more operand guard entries than its core has left (R162). -/
def guardFull (s : State) (r : Nat) (l : List (Placed × SlotRes)) : Bool :=
  let n := (l.map fun p => match p.2 with | .go e => e.guards | _ => 0).sum
  n ≠ 0 && 16 < guardUsed (getCore s r) + n

/-- The wait of a rank: that of its first slot that waits. -/
def waitOf (l : List (Placed × SlotRes)) : Option Wait := l.findSome? fun p => match p.2 with | .wait w _ => some w | _ => none

/-- The fault of the lowest slot that has one (R370). -/
def slotTrap (l : List (Placed × SlotRes)) : Option Trap :=
  l.findSome? fun p => match p.2 with | .trap t => some { t with mask := 2 ^ p.1.pos } | _ => none

/-- The effects of a rank. -/
def effectsOf (l : List (Placed × SlotRes)) : List (Placed × Effect) :=
  l.filterMap fun p => match p.2 with | .go e => some (p.1, e) | _ => none

/-- Whether a control effect is a yield point (R52). -/
def Ctl.yields : Ctl → Bool
  | .yield => true
  | .yieldC => true
  | .stop => true
  | _ => false

/-- The transfer that the effects of a rank take. -/
def jumpOf (l : List (Placed × Effect)) : Option (Nat × Bool) :=
  l.findSome? fun p => match p.2.ctl with | .jump t b => some (t, b) | _ => none
/-- The loop body they skip (R74). -/
def skipOf (l : List (Placed × Effect)) : Option Nat :=
  l.findSome? fun p => match p.2.ctl with | .skip t => some t | _ => none
/-- The yield point among them. -/
def yieldOf (l : List (Placed × Effect)) : Option Ctl := (l.find? fun p => p.2.ctl.yields).map fun p => p.2.ctl
/-- The fault that follows the bundle (R380). -/
def afterOf (l : List (Placed × Effect)) : Option Trap :=
  l.findSome? fun p => match p.2.ctl with | .after t => some { t with mask := 2 ^ p.1.pos } | _ => none

/-- LOOP_NEST of a bundle that is the last of a level and holds, or follows, a taken transfer (R76). -/
def nestFault (k : Ctx) (es : List (Placed × Effect)) : Option Trap :=
  match lastOfLevel k with
  | none => none
  | some l =>
    if k.branch.isSome then some (trapOf codeLoopNest 0 l)
    else if (jumpOf es).isSome then some { trapOf codeLoopNest 0 l with mask := 8 } else none

/-- The plan of a bundle of context `x` on its ranks, rank 0 first, in the order of R57 and R370: what stalls it; a deferred
fault of a register it names, or at a yield point; a wait; poison in the drain latch; the lowest slot's fault. -/
def planBundle (s : State) (c x : Nat) (rs : List Nat) (ps : List Placed) : Plan :=
  let held := rs.any fun r => (getCtx s r x).hold ≠ [] || drainWaits s r x
  let waits := rs.flatMap fun r => (waiting s c x r ps).map fun p => (r, p)
  if held then .stall (rs.flatMap fun r => (liveSlots s c x r ps).map fun p => (r, p)) id
  else if ¬ waits.isEmpty then .stall waits id
  else match firstRank rs (fun r => touchedFault s c x r ps) with
  | some (r, d) => .fault r d.trap (some d.seq)
  | none =>
    let s' := rs.foldl (fun s r => fillLatch s r x) s
    let as := allAnswers s' c x rs ps
    let stalled := as.flatMap fun a => (a.2.filter fun p => p.2.stalls || guardFull s' a.1 a.2).map fun p => (a.1, p.1)
    let blocked := as.any fun a => (waitOf a.2).isSome
    let yields := as.any fun a => (yieldOf (effectsOf a.2)).isSome
    if ¬ stalled.isEmpty then .stall stalled (allAsks x as)
    else match (if yields || blocked then firstRank rs (fun r => (getCtx s r x).deferred.head?) else none) with
    | some (r, d) => .fault r d.trap (some d.seq)
    | none =>
      if blocked then .wait (as.filterMap fun a => (waitOf a.2).map fun w => (a.1, w)) (allAsks x as)
      else match rs.find? (fun r => drainBad s r x) with
      | some r => .fault r (trapOf codePoison) none
      | none =>
      match as.findSome? (fun a => (slotTrap a.2).map fun t => (a.1, t)) with
      | some (r, t) => .fault r t none
      | none =>
        match as.findSome? (fun a => (nestFault (getCtx s a.1 x) (effectsOf a.2)).map fun t => (a.1, t)) with
        | some (r, t) => .fault r t none
        | none => .go (as.map fun a => (a.1, effectsOf a.2))

/-! ### Effects (R35, R58, R65, R181, R182) -/

/-- Whether work stores. -/
def WorkKind.stores : WorkKind → Bool
  | .levelStore _ _ _ => true
  | .gstore _ _ _ => true
  | _ => false

/-- A fault that travels with a result (R65, R197). -/
def deferFault (p : Port) (seq : Nat) (r : Reg) (t : Trap) : Deferred where
  seq := seq
  reg := r
  squash := p.squash
  trap := { t with pc := p.pc, deferred := true, mask := 2 ^ p.pos }

/-- The faults a context holds with one more, if there is one. -/
def withFault (k : Ctx) (p : Port) (seq : Nat) (r : Reg) (t : Option Trap) : Ctx :=
  match t with
  | some t => { k with deferred := k.deferred ++ [deferFault p seq r t] }
  | none => k

/-- A piece of work put in hand (R57). -/
def putWork (p : Port) (s : State) (w : NewWork) : State :=
  let n : Work := { id := s.seq, reg := w.reg, kind := w.kind, squash := p.squash, pc := p.pc, slot := p.pos }
  modCtx { s with seq := s.seq + 1 } p.core p.ctx fun k => withFault { k with works := k.works ++ [n] } p n.id w.reg w.fault

/-- A fixed-latency result put in flight (R58); with a fault and no data it writes nothing when it lands. -/
def putOut (p : Port) (conflict : Nat) (s : State) (o : Out) : State :=
  let data : Bool := match o.fault with | some t => t.code = codePoison | none => true
  let f : Flight := {
    reg := if data then o.reg else .none
    mask := BitVec.ofNat 1024 o.mask
    val := BitVec.ofNat 1024 o.val
    fl := o.fl
    left := o.lat + if o.spad then conflict else 0
    squash := p.squash && !o.keep
    seq := s.seq }
  modCtx { s with seq := s.seq + 1 } p.core p.ctx fun k => withFault { k with flights := k.flights ++ [f] } p f.seq o.reg o.fault

/-- The cycles for which a bundle holds issue: the most distinct words that one bank serves for it, less one, and at least
those that a PLST takes (R181, R203). -/
def conflictOf (es : List (Placed × Effect)) : Nat :=
  let words := (es.flatMap fun e => e.2.words).eraseDups
  max ((upTo 32).foldl (fun n b => max n (countIf (fun w => w % 32 = b) words)) 0 - 1)
    (es.foldl (fun n e => max n e.2.heldMore) 0)

/-- The slots with Q = 1 whose results have not landed are killed (R65). -/
def killSquash (k : Ctx) : Ctx :=
  let gone := (k.flights.filter fun f => f.squash).map (fun f => f.seq) ++ (k.works.filter fun w => w.squash).map (fun w => w.id)
  { k with
    flights := k.flights.filter fun f => !f.squash
    works := k.works.filter fun w => !w.squash
    deferred := k.deferred.filter fun d => !gone.contains d.seq }

/-- The effects of a rank's slots: loads are put in hand before stores, then everything else takes effect in slot order; then
the stream goes on, and the stride links and results are in flight. R182 does not place an atomic among the stores of its own
bundle: here it is put in hand with the loads, before every store, whatever the slots (log entry 87). -/
def commitRank (s : State) (c x r conflict : Nat) (ps : List Placed) (es : List (Placed × Effect)) : State :=
  let k := getCtx s r x
  let at_ := fun (p : Placed) => portOf s c x r p
  let s := capture s r x k.pc.toNat (if consents s k.part 0 then es.filterMap fun e => e.2.trace else [])
  let s := profIssue s r x (ps.map fun p => p.info.res)
  let s := modCtx (fillLatch s r x) r x fun k => { stepDrain k with stall := 0, preStall := 0, wait := none }
  let put := fun (stores : Bool) (s : State) (e : Placed × Effect) =>
    (e.2.works.filter fun w => w.kind.stores == stores).foldl (putWork (at_ e.1)) s
  let s := es.foldl (put true) (es.foldl (put false) s)
  let s := es.foldl (fun s e => e.2.act s) s
  let s := es.foldl (fun s e => e.2.outs.foldl (putOut (at_ e.1) conflict) s) s
  let jump := jumpOf es
  let links := fun (k : Ctx) (ls : List (Nat × Nat)) =>
    { k with flights := k.flights ++ ls.map fun (l : Nat × Nat) =>
        { reg := .s l.1, mask := BitVec.allOnes 1024, val := BitVec.ofNat 1024 l.2, fl := 0, left := 1, squash := false,
          seq := s.seq } }
  modCtx s r x fun k =>
    let n := followOn k jump (skipOf es)
    links n.1 n.2

/-! ### The ranks that issue together -/

/-- The core that issues for a core: rank 0 where a gang's context holds issue. -/
def leadCore (s : State) (c : Nat) : Nat :=
  match (getCore s c).owner with
  | some x => if (getCtx s c x).gang then c / 4 * 4 else c
  | none => c

/-- A cycle of every rank passes. -/
def passRanks (s : State) (rs : List Nat) : State := rs.foldl passCycle s

/-- The ranks give up issue, the next contexts' first bundles issuing `rest` cycles after the next, and after the held ones. -/
def releaseRanks (s : State) (rs : List Nat) (x rest : Nat) : State :=
  rs.foldl (fun s r => releaseIssue s r x rest) s

/-- A yield takes effect once its bundle has issued (R52, R53, R70, R71). -/
def takeYield (s : State) (rs : List Nat) (x held : Nat) (y : Ctl) : State :=
  let rest := rs.foldl (fun n r => max n (landWait (getCtx s r x))) 0 - held
  let s := rs.foldl (fun s r => match y with
    | .yieldC => atContinuation s r x
    | .stop => atEnd s r x
    | _ => s) s
  releaseRanks s rs x rest

/-- A yield point put off by a fault that follows its bundle (R380). -/
def dueOf : Option Ctl → Due
  | some .yield => .yield
  | some .yieldC => .yieldC
  | some .stop => .stop
  | _ => .none

/-- A bundle issues: its effects on every rank, its cycle and its held cycles, and what follows it. -/
def commitBundle (s : State) (c x : Nat) (rs : List Nat) (ps : List Placed) (es : List (Nat × List (Placed × Effect))) :
    State :=
  let pc := (getCtx s c x).pc.toNat
  let held := es.foldl (fun n e => max n (conflictOf e.2)) 0
  let s := es.foldl (fun s e => commitRank s c x e.1 held ps e.2) s
  let s := passRanks s rs
  let s := rs.foldl (fun s r => modCore s r fun k => { k with held := held }) s
  let lead := match es with | e :: _ => e.2 | [] => []
  let s := if (jumpOf lead).isSome then rs.foldl (fun s r => modCtx s r x killSquash) s else s
  let y := yieldOf lead
  match es.findSome? (fun e => (afterOf e.2).map fun t => (e.1, t)) with
  | some (r, t) =>
    let s := rs.foldl (fun s r => toBoundary (modCtx s r x fun k => { k with due := dueOf y }) r x) s
    takeFault s r x { t with pc := pc }
  | none => match y with
    | some y => takeYield s rs x held y
    | none => s

/-- A stall cycle (R58, R387, R410); at the 2^20th the context freezes with WATCHDOG. A rank's profile counts the slots of its
own that wait with a true guard; a slot whose guard is pending has none yet. -/
def stallCycle (s : State) (c x : Nat) (rs : List Nat) (slots : List (Nat × Placed)) (ask : State → State) : State :=
  let n := (getCtx s c x).stall
  let res := fun (r : Nat) => (slots.filter fun p => p.1 = r && isLive s c x r p.2 && !guardPends s c x r p.2).map fun p => p.2.info.res
  let s := ask s
  let s := rs.foldl (fun s r => modCtx (profStall s r x (res r)) r x fun k => { k with stall := k.stall + 1 }) s
  let s := passRanks s rs
  if n + 1 < 2 ^ 20 then s
  else takeFault s c x { code := codeWatchdog, mask := maskOf (slots.map fun p => p.2.pos).eraseDups, pc := (getCtx s c x).pc.toNat }

/-- A bundle held at a blocking wait (R52, R53): its cycle counts, and the context gives up issue. -/
def waitCycle (s : State) (x : Nat) (rs : List Nat) (waits : List (Nat × Wait)) (ask : State → State) : State :=
  let s := ask s
  let s := rs.foldl (fun s r => modCtx s r x fun k =>
    { k with status := .waiting, stall := 0, wait := (waits.find? fun w => w.1 = r).map fun w => w.2 }) s
  let s := passRanks s rs
  releaseRanks s rs x (rs.foldl (fun n r => max n (landWait (getCtx s r x))) 0)

/-- A deferred fault that has been raised, gone from its context. -/
def dropDeferred (s : State) (r x : Nat) (held : Option Nat) : State :=
  match held with
  | some n => modCtx s r x fun k => { k with deferred := k.deferred.filter fun d => d.seq ≠ n }
  | none => s

/-- A fault found at a bundle's issue (R369): the record names the bundle, or for a deferred fault the load's. An arithmetic
error is over with the POISON it raises (R383). -/
def bundleFault (s : State) (r x : Nat) (t : Trap) (held : Option Nat) : State :=
  let arith : Bool := t.code = codePoison && held.isNone
  let s := if arith then modCore s r fun k => { k with residue := false } else s
  takeFault (dropDeferred s r x held) r x (if t.deferred then t else { t with pc := (getCtx s r x).pc.toNat })

/-! ### Whose turn it is (R53, R292) -/

/-- The contexts of a core in CTXID order after the one that last owned issue. -/
def inTurn (last : Nat) : List Nat := (upTo 8).map fun i => (last + 1 + i) % 8

/-- The ready contexts of a core of the highest class among them, in that order, the last owner coming last (R53). -/
def urgentCtxs (s : State) (c : Nat) : List Nat :=
  let ready := (inTurn (getCore s c).last).filter (canIssue s c)
  match least (ready.map (prioOf s c)) with
  | some p => ready.filter fun x => prioOf s c x = p
  | none => []

/-- The next of them, a gang's context whose turn has come and gone for want of the other ranks' being passed over. -/
def plainNext (s : State) (c : Nat) : Option Nat := (urgentCtxs s c).find? fun x => !(getCtx s c x).called

/-- Whether a core may hand issue on: no context holds it, and its wait is over. -/
def mayHand (s : State) (c : Nat) : Bool := (getCore s c).owner.isNone && (getCore s c).rest = 0

/-- Whether a gang's turn has come on every one of its cores, where nothing more urgent is ready: its context is called there,
or is the core's free choice (log entry 66). -/
def assembled (s : State) (c x : Nat) : Bool :=
  (getCtx s c x).gang && (gangCores s c x).all fun r =>
    (urgentCtxs s r).contains x && ((getCtx s r x).called || (mayHand s r && plainNext s r == some x))

/-- The next context by R53; a gang that has its turn on every rank comes first of its class. -/
def nextCtx (s : State) (c : Nat) : Option Nat := ((urgentCtxs s c).find? (assembled s c)).or (plainNext s c)

/-! ### Losing issue at a boundary (R55, R370, R411) -/

/-- Whether a context of a higher class is ready on a core (R55), or a gang waits there that has its turn on every rank. -/
def outranked (s : State) (c x : Nat) : Bool :=
  (readyCtxs s c).any fun y => y ≠ x && (prioOf s c y < prioOf s c x || assembled s c y)
/-- Whether a context has owned issue for 65,536 cycles while another of its class is ready (R55). -/
def quantumOver (s : State) (c x : Nat) : Bool :=
  65536 ≤ (getCore s c).owned && (readyCtxs s c).any fun y => y ≠ x && prioOf s c y = prioOf s c x
/-- Whether a halt asked for a context lands at this boundary (R411). -/
def haltDue (s : State) (c x : Nat) : Bool :=
  (haltAsked s c x).isSome && haltable (getCtx s c x) && haltPoint (getCtx s c x)

/-- The ranks freeze for another context; they stay ready. -/
def freezeRanks (s : State) (rs : List Nat) (x : Nat) : State := rs.foldl (fun s r => freezeCtx (toBoundary s r x) r x) s

/-- The freeze that is due at a bundle boundary, if one is. -/
def freezeDue (s : State) (c x : Nat) (rs : List Nat) : Option State :=
  if haltDue s c x then some (landHalt s c x 0xFF)
  else if rs.any (fun r => outranked s r x || quantumOver s r x) then some (freezeRanks s rs x)
  else none

/-- The state after the fault that a context's next bundle raises at the boundary it stands at, if it raises one. -/
def faultFirst (fetch : State → Nat → Nat → Fetch) (s : State) (c x : Nat) : Option State :=
  match fetch s c x with
  | .fault t => some (bundleFault s c x t none)
  | .missing => none
  | .slots ps =>
    match planBundle s c x (gangCores s c x) ps with
    | .fault r t held => some (bundleFault s r x t held)
    | _ => none

/-- A freeze for pre-emption of the context that holds issue on a core, where a test of a rank asks for one: a fault found at
the bundle wins, and freezes it once (R370). -/
def freezeFor (fetch : State → Nat → Nat → Fetch) (test : State → Nat → Nat → Bool) (s : State) (c : Nat) : State :=
  let c := leadCore s c
  match (getCore s c).owner with
  | some x =>
    let rs := gangCores s c x
    if rs.any (fun r => test s r x) then
      (faultFirst fetch (rs.foldl (fun s r => toBoundary s r x) s) c x).getD (freezeRanks s rs x)
    else s
  | none => s

/-- The fault of a context that is to be frozen for a swap, if it holds issue and its next bundle raises one (R370). -/
def boundaryFault (fetch : State → Nat → Nat → Fetch) (s : State) (c x : Nat) : Option State :=
  if (getCore s c).owner = some x then
    faultFirst fetch ((gangCores s c x).foldl (fun s r => toBoundary s r x) s) (leadCore s c) x
  else none

/-- PREEMPT_FREEZE (R55). -/
def preempt (fetch : State → Nat → Nat → Fetch) : State → Nat → State := freezeFor fetch outranked
/-- ISSUE_QUANTUM_EXPIRY (R55). -/
def quantumExpiry (fetch : State → Nat → Nat → Fetch) : State → Nat → State := freezeFor fetch quantumOver

/-! ### Taking issue (R53, R56, R292) -/

/-- A context takes issue on a core: from a freeze its snapshot runs on (R56), from a continuation point it starts anew
(R70). A yield point put off till now takes effect instead (R380). -/
def takeIssue (s : State) (c x : Nat) : State :=
  let s := modCtx s c x unfreeze
  match (getCtx s c x).due with
  | .none =>
    let s := if (getCtx s c x).cont then fromContinuation s c x else s
    modCore s c fun k => { k with owner := some x, last := x, owned := 0 }
  | d =>
    let s := modCtx s c x fun k => { k with due := .none }
    let s := modCore s c fun k => { k with last := x, rest := landWait (getCtx s c x) }
    match d with
    | .yieldC => atContinuation s c x
    | .stop => atEnd s c x
    | _ => s

/-- A gang takes issue on its four cores at once, as rank 0 hands issue on and each of the others may (R292). -/
def gangStart (s : State) (c x : Nat) : State :=
  if c % 4 = 0 ∧ (gangCores s c x).all (mayHand s) = true then
    (gangCores s c x).foldl (fun s r => takeIssue (syncCore (modCtx s r x fun k => { k with called := false }) r) r x) s
  else s

/-- CONTEXT_SWITCH (R53): the next context takes issue. A gang whose turn comes on this core before it has come on every rank
is called, and the next of its class takes issue meanwhile (log entry 66). -/
def switchIn (s : State) (c : Nat) : State :=
  if ¬ mayHand s c then s
  else match nextCtx s c with
    | none => s
    | some x =>
      if ¬ (getCtx s c x).gang then takeIssue (syncCore s c) c x
      else if assembled s c x then gangStart s c x
      else
        let s := modCtx s c x fun k => { k with called := true }
        match plainNext s c with
        | some y => if (getCtx s c y).gang then s else takeIssue (syncCore s c) c y
        | none => s

/-! ### One cycle of a core -/

/-- Whether an event of a core's array is due before its coming cycle. -/
def arrayDue (s : State) (c : Nat) : Bool :=
  endDue (getCore s c) || writeDue (getCore s c) || (startDue s c).isSome

/-- The core cycle counter that an island's slew steps go by: that of the core furthest behind, of those that have cycles to
run. -/
def islandCycle (s : State) (i : Nat) : Nat :=
  match (coresOf i).filter (coreBusy s) with
  | [] => 0
  | c :: t => t.foldl (fun n d => min n (getCore s d).cycle) (getCore s c).cycle
/-- Whether a slew step of an island is due (R318): after the entries that end, write back, or start without a grant, in that
cycle. -/
def slewDue (s : State) (i : Nat) : Bool :=
  (coresOf i).any (coreBusy s) && atStep s i (islandCycle s i) &&
  !(coresOf i).any (fun c => arrayDue s c)

/-- Whether another core has a cycle to run before a core's coming one: of its island one that is behind in cycles, and of another
clock one whose cycle comes earlier. -/
def behind (s : State) (c d : Nat) : Bool :=
  if !isSampler c && !isSampler d && islandOf d = islandOf c then (getCore s d).cycle < (getCore s c).cycle
  else (getCore s d).tnext < (getCore s c).tnext

/-- Whether an event of a core's array, or the end of its context's wait for matrix work, is due before a cycle. -/
def eventDue (s : State) (n d : Nat) : Bool := (getCore s d).cycle ≤ n && (arrayDue s d || (upTo 8).any (batchWaitMet s d))

/-- Whether a core's cycle must wait for what is exact in time: another core's earlier cycle, the steep boundary that comes no
later, the end of another's wait, and the events of its island, which come before any of its cores passes the cycle. -/
def cycleWaits (s : State) (rs : List Nat) : Bool :=
  rs.any fun c =>
    (trailing s).any (fun d => !rs.contains d && behind s c d) ||
    (nextBoundary s ≤ (getCore s c).tnext || !inLimits s (getCore s c).tnext) ||
    (!isSampler c && (slewDue s (islandOf c) || (coresOf (islandOf c)).any (eventDue s (getCore s c).cycle)))

/-- SLEW_STEP_BOUNDARY with the island's cores at one clock (R318). -/
def stepIsland (s : State) (i : Nat) : State := slewStep (syncIsland s i) i

/-- A cycle in which a context holds issue: its bundle is presented, or a freeze is due. A fault found at a bundle wins over a
freeze (R370). -/
def issueCycle (fetch : State → Nat → Nat → Fetch) (s : State) (c x : Nat) : State :=
  let rs := gangCores s c x
  let orFreeze := fun (t : State) => (freezeDue s c x rs).getD t
  match fetch s c x with
  | .fault t => bundleFault s c x t none
  | .missing => orFreeze (stallCycle s c x rs [] id)
  | .slots ps =>
    match planBundle s c x rs ps with
    | .fault r t held => bundleFault s r x t held
    | .stall slots ask => orFreeze (stallCycle s c x rs slots ask)
    | .wait waits ask => orFreeze (waitCycle s x rs waits ask)
    | .go es => orFreeze (commitBundle s c x rs ps es)

/-- A held or idle cycle counted off. -/
def countOff (s : State) (rs : List Nat) (f : Core → Core) : State :=
  rs.foldl (fun s r => modCore (passCycle s r) r f) s

/-- One cycle of a core, its bundle read by `fetch`: a held cycle (R181), a cycle between two contexts (R53), or one in which
a context holds issue. -/
def coreCycle (fetch : State → Nat → Nat → Fetch) (s : State) (c : Nat) : State :=
  let c := leadCore s c
  match (getCore s c).owner with
  | some x =>
    let rs := gangCores s c x
    if cycleWaits s rs then s
    else if (getCore s c).held ≠ 0 then countOff s rs fun k => { k with held := k.held - 1 }
    else issueCycle fetch s c x
  | none =>
    if cycleWaits s [c] then s
    else if (getCore s c).rest ≠ 0 then countOff s [c] fun k => { k with rest := k.rest - 1 }
    else
      let s := switchIn s c
      match (getCore s c).owner with
      | some x => issueCycle fetch s c x
      | none => passCycle s c

/-- A slot instruction: one cycle of the core in focus, whose bundle holds that operation alone (log entries 1 and 2). -/
def issueOne (cls : Nat) (f : Op) (s : State) : State :=
  coreCycle (fun s c x => decodeBundle (isSampler c) (getCtx s c x).pc.toNat (oneCell s.latch cls f)) s s.focus

end Sys2Proof.Machine
end

