-- ==== Sys2Proof/Machine/Complete.lean ====
section
/-! DEFINITION. Variable-latency work performed and completed into its register (R54, R57, R182), the commit point of a window
(R274), and the events of a core that are cycles or conditions of its issue. -/

namespace Sys2Proof.Machine

/-! ### When work may be performed -/

/-- Whether work reaches an uncached page (R190), which a context's accesses reach in issue order. -/
def workUncached (w : Work) : Bool :=
  match w.kind with
  | .gload p _ => isMmio p.pa
  | .gstore p _ _ => isMmio p.pa
  | _ => false
/-- Whether a load must wait for a store of its core that is on its way to its slice: it misses in the line cache, or it does
not go through it. -/
def loadBehind (s : State) (c : Nat) (p : Place) (n : Nat) : Bool :=
  storesMeet s c (p.pa / 128 * 128) 128 && !(p.bind = 0 && lineHit s c p.pa n)

/-- Whether nothing of its context or core that must come first holds a piece of work back (R182, R190, R273). An atomic on a
watched page, whose trigger promises the context's earlier stores, follows them (R260). A result with a
fixed time lands as its core's cycles pass, or at once in a context that is swapped out (R378). -/
def workReady (s : State) (c x : Nat) (w : Work) : Bool :=
  let before := (getCtx s c x).works.takeWhile fun v => v.id ≠ w.id
  !(match footprint w.kind with | some f => worksMeet before f | none => false) &&
  !(workUncached w && before.any workUncached) && !(workWatched w && before.any workWatched) &&
  match w.kind with
  | .gload p as =>
    !loadBehind s c p as.bytes &&
    !(p.bind ≠ 0 && before.any fun v => match v.kind with | .unit (.wcommit n _) => n = bindWindow p.bind | _ => false)
  | .atomic _ _ p _ _ =>
    !storesMeet s c (p.pa / 128 * 128) 128 && !(p.watched && s.stores.any fun v => v.agent = .ctx c x)
  | .timed _ _ => (getCtx s c x).status = .swapped
  | _ => true

/-! ### Performing it -/

/-- How a piece of work ends: the state, and its result with flags, or the address of poison it met; or that it goes on. -/
inductive Ended where
  | done (v fl : Nat)
  | poison (va : Nat)
  | later
  deriving DecidableEq, Repr

/-- A unit's answer as an end. -/
def endedNat (r : State × Option Nat) : State × Ended := (r.1, match r.2 with | some v => .done v 0 | none => .later)
/-- A unit's signed status as an end. -/
def endedInt (r : State × Int) : State × Ended := (r.1, .done (narrow 64 r.2) 0)

/-- DLBAR's acquire (R337), once the context's earlier work is complete. -/
def dlbarPerform (s : State) (c x id : Nat) (ready : Bool) : State × Option Nat :=
  if ¬ ready then (s, some 0)
  else if ((getCtx s c x).works.takeWhile fun w => w.id ≠ id) ≠ [] then (s, none)
  else (acquireWork s c .sys, some 1)

/-- A unit operation performed. -/
def unitPerform (s : State) (c x id : Nat) (u : UnitOp) : State × Ended :=
  let k := getCtx s c x
  let nat := fun (r : State × Nat) => (r.1, Ended.done r.2 0)
  match u with
  | .bara b => endedNat (baraPerform s c x id b)
  | .qpush n v => endedNat (qpushPerform s c x id n v)
  | .qpop n got => endedNat (qpopPerform s c x id n got)
  | .tlrd e mode => nat (tlrdPerform s c k e mode)
  | .dlbar ready => endedNat (dlbarPerform s c x id ready)
  | .hrel p excl => endedNat (hrelPerform s c x id p excl)
  | .wcommit _ _ => (s, .later)
  | .pwatchR e limit => nat (rearm s k.part e limit)
  | .pwatchQ e => (s, .done (peepQuery s k.part e) 0)
  | .pdrop e => nat (peepDrop s k.part e)
  | .smpq logits slot =>
    let r := smpqPerform s c x id logits slot
    (r.1, match r.2 with | some v => .done (narrow 64 v) 0 | none => .later)
  | .tokrdy slot => endedNat (tokrdyPerform s c x id slot)
  | .tokrdyS slot token =>
    let r := tokenPerform s c x id slot token
    (r.1, if r.2 then .done 0 0 else .later)
  | .btset slot req datum => endedInt (btsetPerform s k slot req datum)
  | .btrd slot word => (s, .done (btrdPerform s k slot word) 0)
  | .strn a b => let r := strnPerform s c a b; endedInt (dropRanges r.1 c id, r.2)
  | .lexp a b => let r := lexpPerform s c a b; endedInt (dropRanges r.1 c id, r.2)
  | .jrd lines => nat (jrdPerform s k lines)
  | .budq item arg => (s, .done (budqValue s c k item arg) 0)
  | .thack => nat (thackPerform s c x)

/-- A piece of work performed at its home. -/
def workPerform (s : State) (c x : Nat) (w : Work) : State × Ended :=
  match w.kind with
  | .value v fl => (s, .done v.toNat fl)
  | .timed v _ => (s, .done v.toNat 0)
  | .faulted => (s, .done 0 0)
  | .gload p as =>
    let r := globalLoad s c x p as.bytes
    (r.1, if r.2.2 then .poison p.va else .done (as.extend r.2.1) 0)
  | .gstore p n v => (globalStore s c x p n v, .done 0 0)
  | .levelLoad l a =>
    let r := levelLoad s (clusterOf c) l a 128
    (s, if r.2 then .poison (a % 2 ^ 57) else .done r.1 0)
  | .levelStore l a v => (levelStore s (clusterOf c) l a 128 v, .done 0 0)
  | .atomic op sc p a cmp =>
    let r := atomicPerform s c x op sc p a cmp
    (r.1, match r.2 with | some (old, fl, bad) => if bad then .poison p.va else .done old fl | none => .later)
  | .unit u => unitPerform s c x w.id u

/-- INTERLOCKED_COMPLETE on the core where the context is resident. -/
def completeHere (s : State) (c x id : Nat) : State :=
  match (getCtx s c x).works.find? fun w => w.id = id with
  | none => s
  | some w =>
    if ¬ workReady s c x w then s
    else match workPerform s c x w with
      | (s, .done v fl) => modCtx s c x (landWork w v fl)
      | (s, .poison va) => landPoison s c x w va
      | (s, .later) => s

/-- Whether a context that is swapped out on a core holds a piece of work. -/
def awayWork (s : State) (c x id : Nat) : Bool :=
  match (getCore s c).shadow with
  | some sh => (mget sh.ctxs x {}).works.any fun w => w.id = id
  | none => false

/-- INTERLOCKED_COMPLETE (R54, R57): also into a context that is swapped out (R378). -/
def complete (s : State) (c x id : Nat) : State :=
  if awayWork s c x id then inShadow s c fun s => completeHere s c x id else completeHere s c x id

/-! ### The commit point of a window (R273, R274) -/

/-- WINDOW_COMMIT_POINT: every kept byte is performed, and the commit's status stands in its work. -/
def commitPoint (s : State) (c x id : Nat) : State :=
  match (getCtx s c x).works.find? fun w => w.id = id with
  | some { kind := .unit (.wcommit w mask), .. } =>
    if commitWaits s c x id w then s
    else
      let r := commitWindow s c (getCtx s c x).task w mask
      let v : WorkKind := .value (BitVec.ofNat 1024 (narrow 64 r.2)) 0
      modCtx r.1 c x fun k => { k with works := k.works.map fun u => if u.id = id then { u with kind := v } else u }
  | _ => s

/-! ### Line caches and cluster units (R189, R224) -/

/-- LINE_CACHE_EVICT (R189): a line is replaced, its dirty bytes written back. -/
def evictLine (s : State) (c line : Nat) : State := lineFlush s c line

end Sys2Proof.Machine
end

