-- ==== Sys2Proof/Machine/ExecSlots.lean ====
section
/-! DEFINITION. The meaning of each slot instruction: one cycle of the core in focus, in whose bundle it is the one operation
(log entries 1 and 2). Its operands, checks and effects are those of its operation. -/

namespace Sys2Proof.Machine

/-- What a step answers. -/
abbrev Result := Host.Outcome State Fault Refusal

/-- NOP. -/
def execNop (g : BitVec 4) (s : State) : Result :=
  .next (issueOne 0 (opNop g) s)
/-- BR. -/
def execBr (g : BitVec 4) (o : BitVec 18) (s : State) : Result :=
  .next (issueOne 0 (opBr g o) s)
/-- BRS. -/
def execBrs (g : BitVec 4) (a : BitVec 6) (s : State) : Result :=
  .next (issueOne 0 (opBrs g a) s)
/-- CALL. -/
def execCall (g : BitVec 4) (o : BitVec 18) (s : State) : Result :=
  .next (issueOne 0 (opCall g o) s)
/-- RET. -/
def execRet (g : BitVec 4) (s : State) : Result :=
  .next (issueOne 0 (opRet g) s)
/-- YIELD. -/
def execYield (g : BitVec 4) (s : State) : Result :=
  .next (issueOne 0 (opYield g) s)
/-- YIELD_C. -/
def execYieldC (g : BitVec 4) (s : State) : Result :=
  .next (issueOne 0 (opYieldC g) s)
/-- END. -/
def execEndTask (g : BitVec 4) (s : State) : Result :=
  .next (issueOne 0 (opEndTask g) s)
/-- SPAWN. -/
def execSpawn (g : BitVec 4) (a b : BitVec 6) (c : BitVec 3) (s : State) : Result :=
  .next (issueOne 0 (opSpawn g a b c) s)
/-- LOOP. -/
def execLoop (g : BitVec 4) (l s : BitVec 3) (n : BitVec 12) (st : State) : Result :=
  .next (issueOne 12 (opLoop g l s n) st)
/-- LOOPI. -/
def execLoopi (g : BitVec 4) (l : BitVec 3) (t : BitVec 6) (n : BitVec 9) (s : State) : Result :=
  .next (issueOne 12 (opLoopi g l t n) s)
/-- LSTR. -/
def execLstr (g : BitVec 4) (l : BitVec 3) (k : BitVec 2) (a b : BitVec 6) (s : State) : Result :=
  .next (issueOne 12 (opLstr g l k a b) s)
/-- LBRK. -/
def execLbrk (g : BitVec 4) (l : BitVec 3) (s : State) : Result :=
  .next (issueOne 12 (opLbrk g l) s)
/-- LCW. -/
def execLcw (g p : BitVec 4) (i : BitVec 6) (x : BitVec 1) (s : State) : Result :=
  .next (issueOne 12 (opLcw g p i x) s)
/-- ADD. -/
def execAdd (g : BitVec 4) (q : BitVec 1) (d a b : BitVec 6) (s : State) : Result :=
  .next (issueOne 1 (opAdd g q d a b) s)
/-- SUB. -/
def execSub (g : BitVec 4) (q : BitVec 1) (d a b : BitVec 6) (s : State) : Result :=
  .next (issueOne 1 (opSub g q d a b) s)
/-- MUL. -/
def execMul (g : BitVec 4) (q : BitVec 1) (d a b : BitVec 6) (s : State) : Result :=
  .next (issueOne 1 (opMul g q d a b) s)
/-- MULH. -/
def execMulh (g : BitVec 4) (q : BitVec 1) (d a b : BitVec 6) (s : State) : Result :=
  .next (issueOne 1 (opMulh g q d a b) s)
/-- MULHN. -/
def execMulhn (g : BitVec 4) (q : BitVec 1) (d a b : BitVec 6) (s : State) : Result :=
  .next (issueOne 1 (opMulhn g q d a b) s)
/-- DIV. -/
def execDiv (g : BitVec 4) (q : BitVec 1) (d a b : BitVec 6) (s : State) : Result :=
  .next (issueOne 1 (opDiv g q d a b) s)
/-- DIVN. -/
def execDivn (g : BitVec 4) (q : BitVec 1) (d a b : BitVec 6) (s : State) : Result :=
  .next (issueOne 1 (opDivn g q d a b) s)
/-- REM. -/
def execRem (g : BitVec 4) (q : BitVec 1) (d a b : BitVec 6) (s : State) : Result :=
  .next (issueOne 1 (opRem g q d a b) s)
/-- REMN. -/
def execRemn (g : BitVec 4) (q : BitVec 1) (d a b : BitVec 6) (s : State) : Result :=
  .next (issueOne 1 (opRemn g q d a b) s)
/-- AND. -/
def execAnd (g : BitVec 4) (q : BitVec 1) (d a b : BitVec 6) (s : State) : Result :=
  .next (issueOne 1 (opAnd g q d a b) s)
/-- OR. -/
def execOr (g : BitVec 4) (q : BitVec 1) (d a b : BitVec 6) (s : State) : Result :=
  .next (issueOne 1 (opOr g q d a b) s)
/-- XOR. -/
def execXor (g : BitVec 4) (q : BitVec 1) (d a b : BitVec 6) (s : State) : Result :=
  .next (issueOne 1 (opXor g q d a b) s)
/-- ANDN. -/
def execAndn (g : BitVec 4) (q : BitVec 1) (d a b : BitVec 6) (s : State) : Result :=
  .next (issueOne 1 (opAndn g q d a b) s)
/-- SHL. -/
def execShl (g : BitVec 4) (q : BitVec 1) (d a b : BitVec 6) (s : State) : Result :=
  .next (issueOne 1 (opShl g q d a b) s)
/-- SHR. -/
def execShr (g : BitVec 4) (q : BitVec 1) (d a b : BitVec 6) (s : State) : Result :=
  .next (issueOne 1 (opShr g q d a b) s)
/-- SAR. -/
def execSar (g : BitVec 4) (q : BitVec 1) (d a b : BitVec 6) (s : State) : Result :=
  .next (issueOne 1 (opSar g q d a b) s)
/-- ROL. -/
def execRol (g : BitVec 4) (q : BitVec 1) (d a b : BitVec 6) (s : State) : Result :=
  .next (issueOne 1 (opRol g q d a b) s)
/-- MIN. -/
def execMin (g : BitVec 4) (q : BitVec 1) (d a b : BitVec 6) (s : State) : Result :=
  .next (issueOne 1 (opMin g q d a b) s)
/-- MAX. -/
def execMax (g : BitVec 4) (q : BitVec 1) (d a b : BitVec 6) (s : State) : Result :=
  .next (issueOne 1 (opMax g q d a b) s)
/-- MINN. -/
def execMinn (g : BitVec 4) (q : BitVec 1) (d a b : BitVec 6) (s : State) : Result :=
  .next (issueOne 1 (opMinn g q d a b) s)
/-- MAXN. -/
def execMaxn (g : BitVec 4) (q : BitVec 1) (d a b : BitVec 6) (s : State) : Result :=
  .next (issueOne 1 (opMaxn g q d a b) s)
/-- SHADD1. -/
def execShadd1 (g : BitVec 4) (q : BitVec 1) (d a b : BitVec 6) (s : State) : Result :=
  .next (issueOne 1 (opShadd1 g q d a b) s)
/-- SHADD2. -/
def execShadd2 (g : BitVec 4) (q : BitVec 1) (d a b : BitVec 6) (s : State) : Result :=
  .next (issueOne 1 (opShadd2 g q d a b) s)
/-- SHADD3. -/
def execShadd3 (g : BitVec 4) (q : BitVec 1) (d a b : BitVec 6) (s : State) : Result :=
  .next (issueOne 1 (opShadd3 g q d a b) s)
/-- CMPEQ. -/
def execCmpeq (g : BitVec 4) (q : BitVec 1) (p a b : BitVec 6) (s : State) : Result :=
  .next (issueOne 1 (opCmpeq g q p a b) s)
/-- CMPNE. -/
def execCmpne (g : BitVec 4) (q : BitVec 1) (p a b : BitVec 6) (s : State) : Result :=
  .next (issueOne 1 (opCmpne g q p a b) s)
/-- CMPLT. -/
def execCmplt (g : BitVec 4) (q : BitVec 1) (p a b : BitVec 6) (s : State) : Result :=
  .next (issueOne 1 (opCmplt g q p a b) s)
/-- CMPLE. -/
def execCmple (g : BitVec 4) (q : BitVec 1) (p a b : BitVec 6) (s : State) : Result :=
  .next (issueOne 1 (opCmple g q p a b) s)
/-- CMPLTN. -/
def execCmpltn (g : BitVec 4) (q : BitVec 1) (p a b : BitVec 6) (s : State) : Result :=
  .next (issueOne 1 (opCmpltn g q p a b) s)
/-- CMPLEN. -/
def execCmplen (g : BitVec 4) (q : BitVec 1) (p a b : BitVec 6) (s : State) : Result :=
  .next (issueOne 1 (opCmplen g q p a b) s)
/-- FADD. -/
def execFadd (g : BitVec 4) (q : BitVec 1) (d a b : BitVec 6) (s : State) : Result :=
  .next (issueOne 2 (opFadd g q d a b) s)
/-- FSUB. -/
def execFsub (g : BitVec 4) (q : BitVec 1) (d a b : BitVec 6) (s : State) : Result :=
  .next (issueOne 2 (opFsub g q d a b) s)
/-- FMUL. -/
def execFmul (g : BitVec 4) (q : BitVec 1) (d a b : BitVec 6) (s : State) : Result :=
  .next (issueOne 2 (opFmul g q d a b) s)
/-- FFMA. -/
def execFfma (g : BitVec 4) (q : BitVec 1) (d a b : BitVec 6) (s : State) : Result :=
  .next (issueOne 2 (opFfma g q d a b) s)
/-- FDIV. -/
def execFdiv (g : BitVec 4) (q : BitVec 1) (d a b : BitVec 6) (s : State) : Result :=
  .next (issueOne 2 (opFdiv g q d a b) s)
/-- FSQRT. -/
def execFsqrt (g : BitVec 4) (q : BitVec 1) (d a : BitVec 6) (s : State) : Result :=
  .next (issueOne 2 (opFsqrt g q d a) s)
/-- FMIN. -/
def execFmin (g : BitVec 4) (q : BitVec 1) (d a b : BitVec 6) (s : State) : Result :=
  .next (issueOne 2 (opFmin g q d a b) s)
/-- FMAX. -/
def execFmax (g : BitVec 4) (q : BitVec 1) (d a b : BitVec 6) (s : State) : Result :=
  .next (issueOne 2 (opFmax g q d a b) s)
/-- FABS. -/
def execFabs (g : BitVec 4) (q : BitVec 1) (d a : BitVec 6) (s : State) : Result :=
  .next (issueOne 2 (opFabs g q d a) s)
/-- FNEG. -/
def execFneg (g : BitVec 4) (q : BitVec 1) (d a : BitVec 6) (s : State) : Result :=
  .next (issueOne 2 (opFneg g q d a) s)
/-- FCEQ. -/
def execFceq (g : BitVec 4) (q : BitVec 1) (p a b : BitVec 6) (s : State) : Result :=
  .next (issueOne 2 (opFceq g q p a b) s)
/-- FCLT. -/
def execFclt (g : BitVec 4) (q : BitVec 1) (p a b : BitVec 6) (s : State) : Result :=
  .next (issueOne 2 (opFclt g q p a b) s)
/-- FCLE. -/
def execFcle (g : BitVec 4) (q : BitVec 1) (p a b : BitVec 6) (s : State) : Result :=
  .next (issueOne 2 (opFcle g q p a b) s)
/-- FCUN. -/
def execFcun (g : BitVec 4) (q : BitVec 1) (p a b : BitVec 6) (s : State) : Result :=
  .next (issueOne 2 (opFcun g q p a b) s)
/-- FCVTIF. -/
def execFcvtif (g : BitVec 4) (q : BitVec 1) (d a : BitVec 6) (v : BitVec 2) (s : State) : Result :=
  .next (issueOne 2 (opFcvtif g q d a v) s)
/-- FCVTFI. -/
def execFcvtfi (g : BitVec 4) (q : BitVec 1) (d a : BitVec 6) (v : BitVec 2) (s : State) : Result :=
  .next (issueOne 2 (opFcvtfi g q d a v) s)
/-- FEXP2. -/
def execFexp2 (g : BitVec 4) (q : BitVec 1) (d a : BitVec 6) (s : State) : Result :=
  .next (issueOne 2 (opFexp2 g q d a) s)
/-- FLOG2. -/
def execFlog2 (g : BitVec 4) (q : BitVec 1) (d a : BitVec 6) (s : State) : Result :=
  .next (issueOne 2 (opFlog2 g q d a) s)
/-- CLZ. -/
def execClz (g : BitVec 4) (q : BitVec 1) (d a : BitVec 6) (s : State) : Result :=
  .next (issueOne 2 (opClz g q d a) s)
/-- CTZ. -/
def execCtz (g : BitVec 4) (q : BitVec 1) (d a : BitVec 6) (s : State) : Result :=
  .next (issueOne 2 (opCtz g q d a) s)
/-- POPC. -/
def execPopc (g : BitVec 4) (q : BitVec 1) (d a : BitVec 6) (s : State) : Result :=
  .next (issueOne 2 (opPopc g q d a) s)
/-- SEXT. -/
def execSext (g : BitVec 4) (q : BitVec 1) (d a n : BitVec 6) (s : State) : Result :=
  .next (issueOne 2 (opSext g q d a n) s)
/-- ZEXT. -/
def execZext (g : BitVec 4) (q : BitVec 1) (d a n : BitVec 6) (s : State) : Result :=
  .next (issueOne 2 (opZext g q d a n) s)
/-- BFX. -/
def execBfx (g : BitVec 4) (q : BitVec 1) (d a b : BitVec 6) (s : State) : Result :=
  .next (issueOne 2 (opBfx g q d a b) s)
/-- BFXN. -/
def execBfxn (g : BitVec 4) (q : BitVec 1) (d a b : BitVec 6) (s : State) : Result :=
  .next (issueOne 2 (opBfxn g q d a b) s)
/-- BFI. -/
def execBfi (g : BitVec 4) (q : BitVec 1) (d a b : BitVec 6) (s : State) : Result :=
  .next (issueOne 2 (opBfi g q d a b) s)
/-- MOV. -/
def execMov (g : BitVec 4) (q : BitVec 1) (d a : BitVec 6) (s : State) : Result :=
  .next (issueOne 2 (opMov g q d a) s)
/-- MOVP. -/
def execMovp (g : BitVec 4) (q : BitVec 1) (p : BitVec 6) (a : BitVec 4) (f : BitVec 2) (b : BitVec 4) (s : State) : Result :=
  .next (issueOne 2 (opMovp g q p a f b) s)
/-- MOVTP. -/
def execMovtp (g : BitVec 4) (q : BitVec 1) (p a : BitVec 6) (s : State) : Result :=
  .next (issueOne 2 (opMovtp g q p a) s)
/-- ADDI. -/
def execAddi (g : BitVec 4) (q : BitVec 1) (d a i : BitVec 6) (s : State) : Result :=
  .next (issueOne 3 (opAddi g q d a i) s)
/-- MULI. -/
def execMuli (g : BitVec 4) (q : BitVec 1) (d a i : BitVec 6) (s : State) : Result :=
  .next (issueOne 3 (opMuli g q d a i) s)
/-- ANDI. -/
def execAndi (g : BitVec 4) (q : BitVec 1) (d a i : BitVec 6) (s : State) : Result :=
  .next (issueOne 3 (opAndi g q d a i) s)
/-- ORI. -/
def execOri (g : BitVec 4) (q : BitVec 1) (d a i : BitVec 6) (s : State) : Result :=
  .next (issueOne 3 (opOri g q d a i) s)
/-- XORI. -/
def execXori (g : BitVec 4) (q : BitVec 1) (d a i : BitVec 6) (s : State) : Result :=
  .next (issueOne 3 (opXori g q d a i) s)
/-- SHLI. -/
def execShli (g : BitVec 4) (q : BitVec 1) (d a i : BitVec 6) (s : State) : Result :=
  .next (issueOne 3 (opShli g q d a i) s)
/-- SHRI. -/
def execShri (g : BitVec 4) (q : BitVec 1) (d a i : BitVec 6) (s : State) : Result :=
  .next (issueOne 3 (opShri g q d a i) s)
/-- SARI. -/
def execSari (g : BitVec 4) (q : BitVec 1) (d a i : BitVec 6) (s : State) : Result :=
  .next (issueOne 3 (opSari g q d a i) s)
/-- CMPEQI. -/
def execCmpeqi (g : BitVec 4) (q : BitVec 1) (p a i : BitVec 6) (s : State) : Result :=
  .next (issueOne 3 (opCmpeqi g q p a i) s)
/-- CMPNEI. -/
def execCmpnei (g : BitVec 4) (q : BitVec 1) (p a i : BitVec 6) (s : State) : Result :=
  .next (issueOne 3 (opCmpnei g q p a i) s)
/-- CMPLTI. -/
def execCmplti (g : BitVec 4) (q : BitVec 1) (p a i : BitVec 6) (s : State) : Result :=
  .next (issueOne 3 (opCmplti g q p a i) s)
/-- CMPLTNI. -/
def execCmpltni (g : BitVec 4) (q : BitVec 1) (p a i : BitVec 6) (s : State) : Result :=
  .next (issueOne 3 (opCmpltni g q p a i) s)
/-- MOVI. -/
def execMovi (g : BitVec 4) (q : BitVec 1) (d : BitVec 6) (i : BitVec 12) (s : State) : Result :=
  .next (issueOne 3 (opMovi g q d i) s)
/-- MOVHI. -/
def execMovhi (g : BitVec 4) (q : BitVec 1) (d : BitVec 6) (i : BitVec 12) (s : State) : Result :=
  .next (issueOne 3 (opMovhi g q d i) s)
/-- VADD. -/
def execVadd (g : BitVec 4) (q : BitVec 1) (t : BitVec 3) (d a b : BitVec 5) (s : State) : Result :=
  .next (issueOne 4 (opVadd g q t d a b) s)
/-- VSUB. -/
def execVsub (g : BitVec 4) (q : BitVec 1) (t : BitVec 3) (d a b : BitVec 5) (s : State) : Result :=
  .next (issueOne 4 (opVsub g q t d a b) s)
/-- VMUL. -/
def execVmul (g : BitVec 4) (q : BitVec 1) (t : BitVec 3) (d a b : BitVec 5) (s : State) : Result :=
  .next (issueOne 4 (opVmul g q t d a b) s)
/-- VMULH. -/
def execVmulh (g : BitVec 4) (q : BitVec 1) (t : BitVec 3) (d a b : BitVec 5) (s : State) : Result :=
  .next (issueOne 4 (opVmulh g q t d a b) s)
/-- VFMA. -/
def execVfma (g : BitVec 4) (q : BitVec 1) (t : BitVec 3) (d a b : BitVec 5) (s : State) : Result :=
  .next (issueOne 4 (opVfma g q t d a b) s)
/-- VFMS. -/
def execVfms (g : BitVec 4) (q : BitVec 1) (t : BitVec 3) (d a b : BitVec 5) (s : State) : Result :=
  .next (issueOne 4 (opVfms g q t d a b) s)
/-- VMIN. -/
def execVmin (g : BitVec 4) (q : BitVec 1) (t : BitVec 3) (d a b : BitVec 5) (s : State) : Result :=
  .next (issueOne 4 (opVmin g q t d a b) s)
/-- VMAX. -/
def execVmax (g : BitVec 4) (q : BitVec 1) (t : BitVec 3) (d a b : BitVec 5) (s : State) : Result :=
  .next (issueOne 4 (opVmax g q t d a b) s)
/-- VABS. -/
def execVabs (g : BitVec 4) (q : BitVec 1) (t : BitVec 3) (d a : BitVec 5) (s : State) : Result :=
  .next (issueOne 4 (opVabs g q t d a) s)
/-- VNEG. -/
def execVneg (g : BitVec 4) (q : BitVec 1) (t : BitVec 3) (d a : BitVec 5) (s : State) : Result :=
  .next (issueOne 4 (opVneg g q t d a) s)
/-- VADDS. -/
def execVadds (g : BitVec 4) (q : BitVec 1) (t : BitVec 3) (d a b : BitVec 5) (s : State) : Result :=
  .next (issueOne 4 (opVadds g q t d a b) s)
/-- VSUBS. -/
def execVsubs (g : BitVec 4) (q : BitVec 1) (t : BitVec 3) (d a b : BitVec 5) (s : State) : Result :=
  .next (issueOne 4 (opVsubs g q t d a b) s)
/-- VAVG. -/
def execVavg (g : BitVec 4) (q : BitVec 1) (t : BitVec 3) (d a b : BitVec 5) (s : State) : Result :=
  .next (issueOne 4 (opVavg g q t d a b) s)
/-- VDOT4. -/
def execVdot4 (g : BitVec 4) (q : BitVec 1) (t : BitVec 3) (d a b : BitVec 5) (s : State) : Result :=
  .next (issueOne 4 (opVdot4 g q t d a b) s)
/-- VMULW. -/
def execVmulw (g : BitVec 4) (q : BitVec 1) (t : BitVec 3) (d a b : BitVec 5) (s : State) : Result :=
  .next (issueOne 4 (opVmulw g q t d a b) s)
/-- VCLAMP. -/
def execVclamp (g : BitVec 4) (q : BitVec 1) (t : BitVec 3) (d a b : BitVec 5) (s : State) : Result :=
  .next (issueOne 4 (opVclamp g q t d a b) s)
/-- VAND. -/
def execVand (g : BitVec 4) (q : BitVec 1) (t : BitVec 3) (d a b : BitVec 5) (s : State) : Result :=
  .next (issueOne 5 (opVand g q t d a b) s)
/-- VOR. -/
def execVor (g : BitVec 4) (q : BitVec 1) (t : BitVec 3) (d a b : BitVec 5) (s : State) : Result :=
  .next (issueOne 5 (opVor g q t d a b) s)
/-- VXOR. -/
def execVxor (g : BitVec 4) (q : BitVec 1) (t : BitVec 3) (d a b : BitVec 5) (s : State) : Result :=
  .next (issueOne 5 (opVxor g q t d a b) s)
/-- VANDN. -/
def execVandn (g : BitVec 4) (q : BitVec 1) (t : BitVec 3) (d a b : BitVec 5) (s : State) : Result :=
  .next (issueOne 5 (opVandn g q t d a b) s)
/-- VNOT. -/
def execVnot (g : BitVec 4) (q : BitVec 1) (t : BitVec 3) (d a : BitVec 5) (s : State) : Result :=
  .next (issueOne 5 (opVnot g q t d a) s)
/-- VSHL. -/
def execVshl (g : BitVec 4) (q : BitVec 1) (t : BitVec 3) (d a b : BitVec 5) (s : State) : Result :=
  .next (issueOne 5 (opVshl g q t d a b) s)
/-- VSHR. -/
def execVshr (g : BitVec 4) (q : BitVec 1) (t : BitVec 3) (d a b : BitVec 5) (s : State) : Result :=
  .next (issueOne 5 (opVshr g q t d a b) s)
/-- VSAR. -/
def execVsar (g : BitVec 4) (q : BitVec 1) (t : BitVec 3) (d a b : BitVec 5) (s : State) : Result :=
  .next (issueOne 5 (opVsar g q t d a b) s)
/-- VCEQ. -/
def execVceq (g : BitVec 4) (q : BitVec 1) (t : BitVec 3) (d a b : BitVec 5) (s : State) : Result :=
  .next (issueOne 5 (opVceq g q t d a b) s)
/-- VCNE. -/
def execVcne (g : BitVec 4) (q : BitVec 1) (t : BitVec 3) (d a b : BitVec 5) (s : State) : Result :=
  .next (issueOne 5 (opVcne g q t d a b) s)
/-- VCLT. -/
def execVclt (g : BitVec 4) (q : BitVec 1) (t : BitVec 3) (d a b : BitVec 5) (s : State) : Result :=
  .next (issueOne 5 (opVclt g q t d a b) s)
/-- VCLE. -/
def execVcle (g : BitVec 4) (q : BitVec 1) (t : BitVec 3) (d a b : BitVec 5) (s : State) : Result :=
  .next (issueOne 5 (opVcle g q t d a b) s)
/-- VCLASS. -/
def execVclass (g : BitVec 4) (q : BitVec 1) (t : BitVec 3) (d a m : BitVec 5) (s : State) : Result :=
  .next (issueOne 5 (opVclass g q t d a m) s)
/-- VSEL. -/
def execVsel (g : BitVec 4) (q : BitVec 1) (s : BitVec 3) (d a b : BitVec 5) (st : State) : Result :=
  .next (issueOne 5 (opVsel g q s d a b) st)
/-- VMOV. -/
def execVmov (g : BitVec 4) (q : BitVec 1) (t : BitVec 3) (d a : BitVec 5) (s : State) : Result :=
  .next (issueOne 5 (opVmov g q t d a) s)
/-- VBC. -/
def execVbc (g : BitVec 4) (q : BitVec 1) (t : BitVec 3) (d a : BitVec 5) (s : State) : Result :=
  .next (issueOne 5 (opVbc g q t d a) s)
/-- VMOVS. -/
def execVmovs (g : BitVec 4) (q : BitVec 1) (t : BitVec 3) (d a n : BitVec 5) (s : State) : Result :=
  .next (issueOne 5 (opVmovs g q t d a n) s)
/-- VINS. -/
def execVins (g : BitVec 4) (q : BitVec 1) (t : BitVec 3) (d a n : BitVec 5) (s : State) : Result :=
  .next (issueOne 5 (opVins g q t d a n) s)
/-- VIOTA. -/
def execViota (g : BitVec 4) (q : BitVec 1) (t : BitVec 3) (d a : BitVec 5) (s : State) : Result :=
  .next (issueOne 5 (opViota g q t d a) s)
/-- QAND. -/
def execQand (g : BitVec 4) (q : BitVec 1) (t : BitVec 3) (d : BitVec 5) (a b : BitVec 4) (s : State) : Result :=
  .next (issueOne 5 (opQand g q t d a b) s)
/-- QOR. -/
def execQor (g : BitVec 4) (q : BitVec 1) (t : BitVec 3) (d : BitVec 5) (a b : BitVec 4) (s : State) : Result :=
  .next (issueOne 5 (opQor g q t d a b) s)
/-- QXOR. -/
def execQxor (g : BitVec 4) (q : BitVec 1) (t : BitVec 3) (d : BitVec 5) (a b : BitVec 4) (s : State) : Result :=
  .next (issueOne 5 (opQxor g q t d a b) s)
/-- QMOV. -/
def execQmov (g : BitVec 4) (q : BitVec 1) (t : BitVec 3) (d : BitVec 5) (a : BitVec 4) (s : State) : Result :=
  .next (issueOne 5 (opQmov g q t d a) s)
/-- VCVT. -/
def execVcvt (g : BitVec 4) (q : BitVec 1) (t : BitVec 3) (d a : BitVec 5) (s : BitVec 4) (st : State) : Result :=
  .next (issueOne 6 (opVcvt g q t d a s) st)
/-- VCVTW. -/
def execVcvtw (g : BitVec 4) (q : BitVec 1) (t : BitVec 3) (d a : BitVec 5) (s : BitVec 4) (st : State) : Result :=
  .next (issueOne 6 (opVcvtw g q t d a s) st)
/-- VCVTN. -/
def execVcvtn (g : BitVec 4) (q : BitVec 1) (t : BitVec 3) (d a : BitVec 5) (s : BitVec 4) (st : State) : Result :=
  .next (issueOne 6 (opVcvtn g q t d a s) st)
/-- VCVTNS. -/
def execVcvtns (g : BitVec 4) (q : BitVec 1) (t : BitVec 3) (d a : BitVec 5) (s : BitVec 4) (st : State) : Result :=
  .next (issueOne 6 (opVcvtns g q t d a s) st)
/-- VPACK. -/
def execVpack (g : BitVec 4) (q : BitVec 1) (t : BitVec 3) (d a b : BitVec 5) (s : State) : Result :=
  .next (issueOne 6 (opVpack g q t d a b) s)
/-- VUNPK. -/
def execVunpk (g : BitVec 4) (q : BitVec 1) (t : BitVec 3) (d a : BitVec 5) (h : BitVec 1) (s : State) : Result :=
  .next (issueOne 6 (opVunpk g q t d a h) s)
/-- VPERM. -/
def execVperm (g : BitVec 4) (q : BitVec 1) (t : BitVec 3) (d a b : BitVec 5) (s : State) : Result :=
  .next (issueOne 6 (opVperm g q t d a b) s)
/-- VROT. -/
def execVrot (g : BitVec 4) (q : BitVec 1) (t : BitVec 3) (d a n : BitVec 5) (s : State) : Result :=
  .next (issueOne 6 (opVrot g q t d a n) s)
/-- VSLD. -/
def execVsld (g : BitVec 4) (q : BitVec 1) (t : BitVec 3) (d a b : BitVec 5) (s : State) : Result :=
  .next (issueOne 6 (opVsld g q t d a b) s)
/-- VTRN. -/
def execVtrn (g : BitVec 4) (q : BitVec 1) (t : BitVec 3) (d a b : BitVec 5) (s : State) : Result :=
  .next (issueOne 6 (opVtrn g q t d a b) s)
/-- VCMPR. -/
def execVcmpr (g : BitVec 4) (q : BitVec 1) (t : BitVec 3) (d : BitVec 5) (m : BitVec 4) (s : BitVec 5) (st : State) : Result :=
  .next (issueOne 6 (opVcmpr g q t d m s) st)
/-- VEXPD. -/
def execVexpd (g : BitVec 4) (q : BitVec 1) (t : BitVec 3) (d a : BitVec 5) (m : BitVec 4) (s : State) : Result :=
  .next (issueOne 6 (opVexpd g q t d a m) s)
/-- VRADD. -/
def execVradd (g : BitVec 4) (q : BitVec 1) (t : BitVec 3) (d a : BitVec 5) (s : State) : Result :=
  .next (issueOne 6 (opVradd g q t d a) s)
/-- VRMAX. -/
def execVrmax (g : BitVec 4) (q : BitVec 1) (t : BitVec 3) (d a : BitVec 5) (s : State) : Result :=
  .next (issueOne 6 (opVrmax g q t d a) s)
/-- VRMIN. -/
def execVrmin (g : BitVec 4) (q : BitVec 1) (t : BitVec 3) (d a : BitVec 5) (s : State) : Result :=
  .next (issueOne 6 (opVrmin g q t d a) s)
/-- VRAMAX. -/
def execVramax (g : BitVec 4) (q : BitVec 1) (t : BitVec 3) (d a : BitVec 5) (s : State) : Result :=
  .next (issueOne 6 (opVramax g q t d a) s)
/-- VSCAN. -/
def execVscan (g : BitVec 4) (q : BitVec 1) (t : BitVec 3) (d a : BitVec 5) (s : State) : Result :=
  .next (issueOne 6 (opVscan g q t d a) s)
/-- VRCNT. -/
def execVrcnt (g : BitVec 4) (q : BitVec 1) (t : BitVec 3) (d : BitVec 5) (qa : BitVec 4) (s : State) : Result :=
  .next (issueOne 6 (opVrcnt g q t d qa) s)
/-- VCW. -/
def execVcw (g : BitVec 4) (q : BitVec 1) (t : BitVec 3) (a : BitVec 5) (s : State) : Result :=
  .next (issueOne 6 (opVcw g q t a) s)
/-- VEXP2. -/
def execVexp2 (g : BitVec 4) (q : BitVec 1) (t : BitVec 3) (d a : BitVec 5) (s : State) : Result :=
  .next (issueOne 7 (opVexp2 g q t d a) s)
/-- VLOG2. -/
def execVlog2 (g : BitVec 4) (q : BitVec 1) (t : BitVec 3) (d a : BitVec 5) (s : State) : Result :=
  .next (issueOne 7 (opVlog2 g q t d a) s)
/-- VRCP. -/
def execVrcp (g : BitVec 4) (q : BitVec 1) (t : BitVec 3) (d a : BitVec 5) (s : State) : Result :=
  .next (issueOne 7 (opVrcp g q t d a) s)
/-- VRSQ. -/
def execVrsq (g : BitVec 4) (q : BitVec 1) (t : BitVec 3) (d a : BitVec 5) (s : State) : Result :=
  .next (issueOne 7 (opVrsq g q t d a) s)
/-- VSQRT. -/
def execVsqrt (g : BitVec 4) (q : BitVec 1) (t : BitVec 3) (d a : BitVec 5) (s : State) : Result :=
  .next (issueOne 7 (opVsqrt g q t d a) s)
/-- VTANH. -/
def execVtanh (g : BitVec 4) (q : BitVec 1) (t : BitVec 3) (d a : BitVec 5) (s : State) : Result :=
  .next (issueOne 7 (opVtanh g q t d a) s)
/-- VSIGM. -/
def execVsigm (g : BitVec 4) (q : BitVec 1) (t : BitVec 3) (d a : BitVec 5) (s : State) : Result :=
  .next (issueOne 7 (opVsigm g q t d a) s)
/-- VSIN. -/
def execVsin (g : BitVec 4) (q : BitVec 1) (t : BitVec 3) (d a : BitVec 5) (s : State) : Result :=
  .next (issueOne 7 (opVsin g q t d a) s)
/-- VCOS. -/
def execVcos (g : BitVec 4) (q : BitVec 1) (t : BitVec 3) (d a : BitVec 5) (s : State) : Result :=
  .next (issueOne 7 (opVcos g q t d a) s)
/-- VRNG. -/
def execVrng (g : BitVec 4) (q : BitVec 1) (t : BitVec 3) (d a b : BitVec 5) (s : State) : Result :=
  .next (issueOne 7 (opVrng g q t d a b) s)
/-- VTOPK. -/
def execVtopk (g : BitVec 4) (q : BitVec 1) (t : BitVec 3) (d a k : BitVec 5) (s : State) : Result :=
  .next (issueOne 7 (opVtopk g q t d a k) s)
/-- VSCALE. -/
def execVscale (g : BitVec 4) (q : BitVec 1) (t : BitVec 3) (d a : BitVec 5) (j : BitVec 2) (s : State) : Result :=
  .next (issueOne 7 (opVscale g q t d a j) s)
/-- VQNT. -/
def execVqnt (g : BitVec 4) (q : BitVec 1) (t : BitVec 3) (d a : BitVec 5) (j : BitVec 2) (s : State) : Result :=
  .next (issueOne 7 (opVqnt g q t d a j) s)
/-- VDQ. -/
def execVdq (g : BitVec 4) (q : BitVec 1) (t : BitVec 3) (d a : BitVec 5) (j : BitVec 2) (s : State) : Result :=
  .next (issueOne 7 (opVdq g q t d a j) s)
/-- VLUT. -/
def execVlut (g : BitVec 4) (q : BitVec 1) (t : BitVec 3) (d a b : BitVec 5) (s : State) : Result :=
  .next (issueOne 7 (opVlut g q t d a b) s)
/-- MMA. -/
def execMma (g : BitVec 4) (t : BitVec 8) (a b : BitVec 6) (s : State) : Result :=
  .next (issueOne 8 (opMma g t a b) s)
/-- MMAZ. -/
def execMmaz (g : BitVec 4) (t : BitVec 8) (a b : BitVec 6) (s : State) : Result :=
  .next (issueOne 8 (opMmaz g t a b) s)
/-- MMAN. -/
def execMman (g : BitVec 4) (t : BitVec 8) (a b : BitVec 6) (s : State) : Result :=
  .next (issueOne 8 (opMman g t a b) s)
/-- MLDA. -/
def execMlda (g : BitVec 4) (t : BitVec 8) (a : BitVec 6) (s : State) : Result :=
  .next (issueOne 8 (opMlda g t a) s)
/-- MSTA. -/
def execMsta (g : BitVec 4) (t : BitVec 8) (a : BitVec 6) (s : State) : Result :=
  .next (issueOne 8 (opMsta g t a) s)
/-- MDRN. -/
def execMdrn (g : BitVec 4) (t : BitVec 8) (p : BitVec 1) (s : State) : Result :=
  .next (issueOne 8 (opMdrn g t p) s)
/-- MZERO. -/
def execMzero (g : BitVec 4) (t : BitVec 8) (s : State) : Result :=
  .next (issueOne 8 (opMzero g t) s)
/-- MCOMMIT. -/
def execMcommit (g : BitVec 4) (s : State) : Result :=
  .next (issueOne 8 (opMcommit g) s)
/-- MWAITB. -/
def execMwaitb (g n : BitVec 4) (s : State) : Result :=
  .next (issueOne 9 (opMwaitb g n) s)
/-- MWAITB_ID. -/
def execMwaitbId (g : BitVec 4) (a : BitVec 6) (s : State) : Result :=
  .next (issueOne 9 (opMwaitbId g a) s)
/-- MWM. -/
def execMwm (g : BitVec 4) (d : BitVec 6) (t : BitVec 8) (c : BitVec 1) (s : State) : Result :=
  .next (issueOne 9 (opMwm g d t c) s)
/-- BANKLEND_M. -/
def execBanklendM (g : BitVec 4) (a : BitVec 6) (s : State) : Result :=
  .next (issueOne 9 (opBanklendM g a) s)
/-- BANKLEND_V. -/
def execBanklendV (g : BitVec 4) (a : BitVec 6) (s : State) : Result :=
  .next (issueOne 9 (opBanklendV g a) s)
/-- BANKLEND_REL. -/
def execBanklendRel (g : BitVec 4) (a : BitVec 6) (s : State) : Result :=
  .next (issueOne 9 (opBanklendRel g a) s)
/-- BANKLEND_ACQ. -/
def execBanklendAcq (g : BitVec 4) (a : BitVec 6) (s : State) : Result :=
  .next (issueOne 9 (opBanklendAcq g a) s)
/-- SCLD. -/
def execScld (g : BitVec 4) (k : BitVec 3) (a : BitVec 6) (s : State) : Result :=
  .next (issueOne 9 (opScld g k a) s)
/-- MCFG. -/
def execMcfg (g : BitVec 4) (f : BitVec 5) (s : State) : Result :=
  .next (issueOne 9 (opMcfg g f) s)
/-- MEDGE. -/
def execMedge (g : BitVec 4) (a : BitVec 6) (s : State) : Result :=
  .next (issueOne 9 (opMedge g a) s)
/-- LDG_B. -/
def execLdgB (g : BitVec 4) (q : BitVec 1) (d : BitVec 6) (h : BitVec 4) (x : BitVec 6) (m : BitVec 2) (s : State) : Result :=
  .next (issueOne 10 (opLdgB g q d h x m) s)
/-- LDG_BN. -/
def execLdgBn (g : BitVec 4) (q : BitVec 1) (d : BitVec 6) (h : BitVec 4) (x : BitVec 6) (m : BitVec 2) (s : State) : Result :=
  .next (issueOne 10 (opLdgBn g q d h x m) s)
/-- LDG_H. -/
def execLdgH (g : BitVec 4) (q : BitVec 1) (d : BitVec 6) (h : BitVec 4) (x : BitVec 6) (m : BitVec 2) (s : State) : Result :=
  .next (issueOne 10 (opLdgH g q d h x m) s)
/-- LDG_HN. -/
def execLdgHn (g : BitVec 4) (q : BitVec 1) (d : BitVec 6) (h : BitVec 4) (x : BitVec 6) (m : BitVec 2) (s : State) : Result :=
  .next (issueOne 10 (opLdgHn g q d h x m) s)
/-- LDG_W. -/
def execLdgW (g : BitVec 4) (q : BitVec 1) (d : BitVec 6) (h : BitVec 4) (x : BitVec 6) (m : BitVec 2) (s : State) : Result :=
  .next (issueOne 10 (opLdgW g q d h x m) s)
/-- LDG_WN. -/
def execLdgWn (g : BitVec 4) (q : BitVec 1) (d : BitVec 6) (h : BitVec 4) (x : BitVec 6) (m : BitVec 2) (s : State) : Result :=
  .next (issueOne 10 (opLdgWn g q d h x m) s)
/-- LDG_D. -/
def execLdgD (g : BitVec 4) (q : BitVec 1) (d : BitVec 6) (h : BitVec 4) (x : BitVec 6) (m : BitVec 2) (s : State) : Result :=
  .next (issueOne 10 (opLdgD g q d h x m) s)
/-- STG_B. -/
def execStgB (g : BitVec 4) (d : BitVec 6) (h : BitVec 4) (x : BitVec 6) (m : BitVec 2) (s : State) : Result :=
  .next (issueOne 10 (opStgB g d h x m) s)
/-- STG_H. -/
def execStgH (g : BitVec 4) (d : BitVec 6) (h : BitVec 4) (x : BitVec 6) (m : BitVec 2) (s : State) : Result :=
  .next (issueOne 10 (opStgH g d h x m) s)
/-- STG_W. -/
def execStgW (g : BitVec 4) (d : BitVec 6) (h : BitVec 4) (x : BitVec 6) (m : BitVec 2) (s : State) : Result :=
  .next (issueOne 10 (opStgW g d h x m) s)
/-- STG_D. -/
def execStgD (g : BitVec 4) (d : BitVec 6) (h : BitVec 4) (x : BitVec 6) (m : BitVec 2) (s : State) : Result :=
  .next (issueOne 10 (opStgD g d h x m) s)
/-- VLDG. -/
def execVldg (g : BitVec 4) (q : BitVec 1) (d : BitVec 6) (h : BitVec 4) (x : BitVec 6) (m : BitVec 2) (s : State) : Result :=
  .next (issueOne 10 (opVldg g q d h x m) s)
/-- VSTG. -/
def execVstg (g : BitVec 4) (d : BitVec 6) (h : BitVec 4) (x : BitVec 6) (m : BitVec 2) (s : State) : Result :=
  .next (issueOne 10 (opVstg g d h x m) s)
/-- LD_S. -/
def execLdS (g : BitVec 4) (q : BitVec 1) (d : BitVec 6) (o : BitVec 4) (x : BitVec 6) (m : BitVec 2) (s : State) : Result :=
  .next (issueOne 10 (opLdS g q d o x m) s)
/-- ST_S. -/
def execStS (g : BitVec 4) (d : BitVec 6) (o : BitVec 4) (x : BitVec 6) (m : BitVec 2) (s : State) : Result :=
  .next (issueOne 10 (opStS g d o x m) s)
/-- VLD_S. -/
def execVldS (g : BitVec 4) (q : BitVec 1) (d : BitVec 6) (o : BitVec 4) (x : BitVec 6) (m : BitVec 2) (s : State) : Result :=
  .next (issueOne 10 (opVldS g q d o x m) s)
/-- VST_S. -/
def execVstS (g : BitVec 4) (d : BitVec 6) (o : BitVec 4) (x : BitVec 6) (m : BitVec 2) (s : State) : Result :=
  .next (issueOne 10 (opVstS g d o x m) s)
/-- VLD_C. -/
def execVldC (g : BitVec 4) (q : BitVec 1) (d : BitVec 6) (o : BitVec 4) (x : BitVec 6) (m : BitVec 2) (s : State) : Result :=
  .next (issueOne 10 (opVldC g q d o x m) s)
/-- VST_C. -/
def execVstC (g : BitVec 4) (d : BitVec 6) (o : BitVec 4) (x : BitVec 6) (m : BitVec 2) (s : State) : Result :=
  .next (issueOne 10 (opVstC g d o x m) s)
/-- VLD_X. -/
def execVldX (g : BitVec 4) (q : BitVec 1) (d : BitVec 6) (o : BitVec 4) (x : BitVec 6) (m : BitVec 2) (s : State) : Result :=
  .next (issueOne 10 (opVldX g q d o x m) s)
/-- VST_X. -/
def execVstX (g : BitVec 4) (d : BitVec 6) (o : BitVec 4) (x : BitVec 6) (m : BitVec 2) (s : State) : Result :=
  .next (issueOne 10 (opVstX g d o x m) s)
/-- VLD_L. -/
def execVldL (g : BitVec 4) (q : BitVec 1) (d : BitVec 6) (o : BitVec 4) (x : BitVec 6) (m : BitVec 2) (s : State) : Result :=
  .next (issueOne 10 (opVldL g q d o x m) s)
/-- VST_L. -/
def execVstL (g : BitVec 4) (d : BitVec 6) (o : BitVec 4) (x : BitVec 6) (m : BitVec 2) (s : State) : Result :=
  .next (issueOne 10 (opVstL g d o x m) s)
/-- VGTH_S. -/
def execVgthS (g : BitVec 4) (q : BitVec 1) (d : BitVec 6) (i : BitVec 4) (x : BitVec 6) (e : BitVec 2) (s : State) : Result :=
  .next (issueOne 10 (opVgthS g q d i x e) s)
/-- VSCT_S. -/
def execVsctS (g : BitVec 4) (d : BitVec 6) (i : BitVec 4) (x : BitVec 6) (e : BitVec 2) (s : State) : Result :=
  .next (issueOne 10 (opVsctS g d i x e) s)
/-- VGTH_L. -/
def execVgthL (g : BitVec 4) (q : BitVec 1) (d : BitVec 6) (i : BitVec 4) (x : BitVec 6) (e : BitVec 2) (s : State) : Result :=
  .next (issueOne 10 (opVgthL g q d i x e) s)
/-- VSCT_L. -/
def execVsctL (g : BitVec 4) (d : BitVec 6) (i : BitVec 4) (x : BitVec 6) (e : BitVec 2) (s : State) : Result :=
  .next (issueOne 10 (opVsctL g d i x e) s)
/-- PLST. -/
def execPlst (g : BitVec 4) (v : BitVec 6) (c : BitVec 4) (x : BitVec 6) (s : State) : Result :=
  .next (issueOne 10 (opPlst g v c x) s)
/-- VLDB. -/
def execVldb (g : BitVec 4) (q : BitVec 1) (d : BitVec 6) (o : BitVec 4) (x : BitVec 6) (m : BitVec 2) (s : State) : Result :=
  .next (issueOne 10 (opVldb g q d o x m) s)
/-- VSTB. -/
def execVstb (g : BitVec 4) (d : BitVec 6) (o : BitVec 4) (x : BitVec 6) (m : BitVec 2) (s : State) : Result :=
  .next (issueOne 10 (opVstb g d o x m) s)
/-- XLT. -/
def execXlt (g : BitVec 4) (w : BitVec 1) (h : BitVec 4) (x : BitVec 6) (s : State) : Result :=
  .next (issueOne 10 (opXlt g w h x) s)
/-- HDROP. -/
def execHdrop (g h : BitVec 4) (s : State) : Result :=
  .next (issueOne 10 (opHdrop g h) s)
/-- AADD. -/
def execAadd (g : BitVec 4) (d : BitVec 6) (h : BitVec 4) (x : BitVec 6) (s : BitVec 2) (st : State) : Result :=
  .next (issueOne 11 (opAadd g d h x s) st)
/-- AAND. -/
def execAand (g : BitVec 4) (d : BitVec 6) (h : BitVec 4) (x : BitVec 6) (s : BitVec 2) (st : State) : Result :=
  .next (issueOne 11 (opAand g d h x s) st)
/-- AOR. -/
def execAor (g : BitVec 4) (d : BitVec 6) (h : BitVec 4) (x : BitVec 6) (s : BitVec 2) (st : State) : Result :=
  .next (issueOne 11 (opAor g d h x s) st)
/-- AXOR. -/
def execAxor (g : BitVec 4) (d : BitVec 6) (h : BitVec 4) (x : BitVec 6) (s : BitVec 2) (st : State) : Result :=
  .next (issueOne 11 (opAxor g d h x s) st)
/-- AMIN. -/
def execAmin (g : BitVec 4) (d : BitVec 6) (h : BitVec 4) (x : BitVec 6) (s : BitVec 2) (st : State) : Result :=
  .next (issueOne 11 (opAmin g d h x s) st)
/-- AMAX. -/
def execAmax (g : BitVec 4) (d : BitVec 6) (h : BitVec 4) (x : BitVec 6) (s : BitVec 2) (st : State) : Result :=
  .next (issueOne 11 (opAmax g d h x s) st)
/-- AMINN. -/
def execAminn (g : BitVec 4) (d : BitVec 6) (h : BitVec 4) (x : BitVec 6) (s : BitVec 2) (st : State) : Result :=
  .next (issueOne 11 (opAminn g d h x s) st)
/-- AMAXN. -/
def execAmaxn (g : BitVec 4) (d : BitVec 6) (h : BitVec 4) (x : BitVec 6) (s : BitVec 2) (st : State) : Result :=
  .next (issueOne 11 (opAmaxn g d h x s) st)
/-- ASWP. -/
def execAswp (g : BitVec 4) (d : BitVec 6) (h : BitVec 4) (x : BitVec 6) (s : BitVec 2) (st : State) : Result :=
  .next (issueOne 11 (opAswp g d h x s) st)
/-- ACAS. -/
def execAcas (g : BitVec 4) (d : BitVec 6) (h : BitVec 4) (x : BitVec 6) (s : BitVec 2) (st : State) : Result :=
  .next (issueOne 11 (opAcas g d h x s) st)
/-- AFADD. -/
def execAfadd (g : BitVec 4) (d : BitVec 6) (h : BitVec 4) (x : BitVec 6) (s : BitVec 2) (st : State) : Result :=
  .next (issueOne 11 (opAfadd g d h x s) st)
/-- HBIND. -/
def execHbind (g h : BitVec 4) (x d : BitVec 6) (s : State) : Result :=
  .next (issueOne 11 (opHbind g h x d) s)
/-- HACQ_X. -/
def execHacqX (g h : BitVec 4) (x d : BitVec 6) (s : State) : Result :=
  .next (issueOne 11 (opHacqX g h x d) s)
/-- HACQ_S. -/
def execHacqS (g h : BitVec 4) (x d : BitVec 6) (s : State) : Result :=
  .next (issueOne 11 (opHacqS g h x d) s)
/-- HREL. -/
def execHrel (g h : BitVec 4) (x d : BitVec 6) (s : State) : Result :=
  .next (issueOne 11 (opHrel g h x d) s)
/-- FENCE_REL. -/
def execFenceRel (g : BitVec 4) (s : BitVec 2) (st : State) : Result :=
  .next (issueOne 11 (opFenceRel g s) st)
/-- FENCE_ACQ. -/
def execFenceAcq (g : BitVec 4) (s : BitVec 2) (st : State) : Result :=
  .next (issueOne 11 (opFenceAcq g s) st)
/-- FENCE_AR. -/
def execFenceAr (g : BitVec 4) (s : BitVec 2) (st : State) : Result :=
  .next (issueOne 11 (opFenceAr g s) st)
/-- BARA. -/
def execBara (g : BitVec 4) (d a : BitVec 6) (s : State) : Result :=
  .next (issueOne 11 (opBara g d a) s)
/-- BARW. -/
def execBarw (g : BitVec 4) (a b : BitVec 6) (s : State) : Result :=
  .next (issueOne 11 (opBarw g a b) s)
/-- TLWAIT. -/
def execTlwait (g : BitVec 4) (e : BitVec 3) (b : BitVec 6) (s : State) : Result :=
  .next (issueOne 11 (opTlwait g e b) s)
/-- TLRD. -/
def execTlrd (g : BitVec 4) (d : BitVec 6) (e : BitVec 3) (s : State) : Result :=
  .next (issueOne 11 (opTlrd g d e) s)
/-- TLRD_ST. -/
def execTlrdSt (g : BitVec 4) (d : BitVec 6) (e : BitVec 3) (s : State) : Result :=
  .next (issueOne 11 (opTlrdSt g d e) s)
/-- TLRD_STC. -/
def execTlrdStc (g : BitVec 4) (d : BitVec 6) (e : BitVec 3) (s : State) : Result :=
  .next (issueOne 11 (opTlrdStc g d e) s)
/-- TAGW. -/
def execTagw (g : BitVec 4) (a : BitVec 6) (s : State) : Result :=
  .next (issueOne 11 (opTagw g a) s)
/-- TAGFF_C. -/
def execTagffC (g : BitVec 4) (a : BitVec 6) (s : State) : Result :=
  .next (issueOne 11 (opTagffC g a) s)
/-- TAGFF_S. -/
def execTagffS (g : BitVec 4) (a : BitVec 6) (s : State) : Result :=
  .next (issueOne 11 (opTagffS g a) s)
/-- CPY. -/
def execCpy (g : BitVec 4) (d a : BitVec 6) (s : State) : Result :=
  .next (issueOne 11 (opCpy g d a) s)
/-- MVX. -/
def execMvx (g : BitVec 4) (d a : BitVec 6) (s : State) : Result :=
  .next (issueOne 11 (opMvx g d a) s)
/-- QPUSH. -/
def execQpush (g : BitVec 4) (d a b : BitVec 6) (s : State) : Result :=
  .next (issueOne 11 (opQpush g d a b) s)
/-- QPOP. -/
def execQpop (g : BitVec 4) (d a : BitVec 6) (s : State) : Result :=
  .next (issueOne 11 (opQpop g d a) s)
/-- WOPEN. -/
def execWopen (g : BitVec 4) (d : BitVec 6) (h : BitVec 4) (x : BitVec 6) (s : State) : Result :=
  .next (issueOne 11 (opWopen g d h x) s)
/-- WCOMMIT. -/
def execWcommit (g : BitVec 4) (d a b : BitVec 6) (s : State) : Result :=
  .next (issueOne 11 (opWcommit g d a b) s)
/-- WABORT_K. -/
def execWabortK (g : BitVec 4) (a : BitVec 6) (s : State) : Result :=
  .next (issueOne 11 (opWabortK g a) s)
/-- WABORT_F. -/
def execWabortF (g : BitVec 4) (a : BitVec 6) (s : State) : Result :=
  .next (issueOne 11 (opWabortF g a) s)
/-- PWATCH_I. -/
def execPwatchI (g : BitVec 4) (d : BitVec 6) (h : BitVec 4) (x : BitVec 6) (s : State) : Result :=
  .next (issueOne 11 (opPwatchI g d h x) s)
/-- PWATCH_R. -/
def execPwatchR (g : BitVec 4) (d x : BitVec 6) (s : State) : Result :=
  .next (issueOne 11 (opPwatchR g d x) s)
/-- PWATCH_Q. -/
def execPwatchQ (g : BitVec 4) (d x : BitVec 6) (s : State) : Result :=
  .next (issueOne 11 (opPwatchQ g d x) s)
/-- PDROP. -/
def execPdrop (g : BitVec 4) (d x : BitVec 6) (s : State) : Result :=
  .next (issueOne 11 (opPdrop g d x) s)
/-- SMPQ. -/
def execSmpq (g : BitVec 4) (d a b : BitVec 6) (s : State) : Result :=
  .next (issueOne 11 (opSmpq g d a b) s)
/-- TOKRDY. -/
def execTokrdy (g p : BitVec 4) (a : BitVec 6) (s : State) : Result :=
  .next (issueOne 11 (opTokrdy g p a) s)
/-- TOKRDY_S. -/
def execTokrdyS (g : BitVec 4) (a b : BitVec 6) (s : State) : Result :=
  .next (issueOne 11 (opTokrdyS g a b) s)
/-- TRAP. -/
def execTrap (g : BitVec 4) (a n : BitVec 6) (s : State) : Result :=
  .next (issueOne 13 (opTrap g a n) s)
/-- MFS. -/
def execMfs (g : BitVec 4) (d r : BitVec 6) (s : State) : Result :=
  .next (issueOne 13 (opMfs g d r) s)
/-- MTS. -/
def execMts (g : BitVec 4) (r a : BitVec 6) (s : State) : Result :=
  .next (issueOne 13 (opMts g r a) s)
/-- TRACE. -/
def execTrace (g : BitVec 4) (a n : BitVec 6) (s : State) : Result :=
  .next (issueOne 13 (opTrace g a n) s)
/-- BRKPT. -/
def execBrkpt (g : BitVec 4) (n : BitVec 6) (s : State) : Result :=
  .next (issueOne 13 (opBrkpt g n) s)
/-- IDLE. -/
def execIdle (g : BitVec 4) (a : BitVec 6) (s : State) : Result :=
  .next (issueOne 13 (opIdle g a) s)
/-- BUDQ. -/
def execBudq (g : BitVec 4) (d i : BitVec 6) (s : State) : Result :=
  .next (issueOne 13 (opBudq g d i) s)
/-- BUDQ_CCOST. -/
def execBudqCcost (g : BitVec 4) (d b : BitVec 6) (s : State) : Result :=
  .next (issueOne 13 (opBudqCcost g d b) s)
/-- JRD. -/
def execJrd (g : BitVec 4) (d : BitVec 6) (s : State) : Result :=
  .next (issueOne 13 (opJrd g d) s)
/-- JRD_L. -/
def execJrdL (g : BitVec 4) (d : BitVec 6) (s : State) : Result :=
  .next (issueOne 13 (opJrdL g d) s)
/-- THACK. -/
def execThack (g : BitVec 4) (d : BitVec 6) (s : State) : Result :=
  .next (issueOne 13 (opThack g d) s)
/-- WPOS. -/
def execWpos (g : BitVec 4) (a b c : BitVec 6) (s : State) : Result :=
  .next (issueOne 13 (opWpos g a b c) s)
/-- WALLOC. -/
def execWalloc (g : BitVec 4) (d a : BitVec 6) (s : State) : Result :=
  .next (issueOne 13 (opWalloc g d a) s)
/-- BTSET. -/
def execBtset (g : BitVec 4) (d a b : BitVec 6) (s : State) : Result :=
  .next (issueOne 13 (opBtset g d a b) s)
/-- BTRD. -/
def execBtrd (g : BitVec 4) (d a : BitVec 6) (w : BitVec 2) (s : State) : Result :=
  .next (issueOne 13 (opBtrd g d a w) s)
/-- STRN. -/
def execStrn (g : BitVec 4) (d a b : BitVec 6) (s : State) : Result :=
  .next (issueOne 13 (opStrn g d a b) s)
/-- LEXP. -/
def execLexp (g : BitVec 4) (d a b : BitVec 6) (s : State) : Result :=
  .next (issueOne 13 (opLexp g d a b) s)
/-- DLBAR. -/
def execDlbar (g : BitVec 4) (p : BitVec 6) (h : BitVec 4) (b : BitVec 6) (s : State) : Result :=
  .next (issueOne 13 (opDlbar g p h b) s)

end Sys2Proof.Machine
end

