-- ==== Sys2Proof/Decode.lean ====
section
/-! DEFINITION. The decoder of one 32-bit slot word (R31, R39, R46 and the encoding tables of each class), total and
rejecting by name, and the encoder written from the same tables.

A class is bits 31:28; the operation is bits 22:18, or bits 22:20 in class 8 (R39). A bit that an entry leaves
unassigned is reserved, and a non-zero one is refused (R39). The limits of R40 and what a header adds (R38) are checked
afterwards, in WellFormed.lean and in the issue of the bundle. -/

namespace Sys2Proof

/-- Why a slot word is no instruction: each is ILLEGAL_SLOT, but for a header out of place (R36, R45, R46). -/
inductive SlotError where
  /-- R46: the operation value is reserved in its class. -/
  | reservedOpcode (cls op : Nat)
  /-- R39: a bit that the entry leaves unassigned is not zero. -/
  | reservedBits (cls op : Nat)
  /-- R36: class E is a header and no operation. -/
  | header
  /-- R46: class F is always illegal. -/
  | classF
  deriving DecidableEq, Repr

/-- Bits `lo + n - 1` to `lo` of a word. -/
def fld (w : BitVec 32) (lo n : Nat) : BitVec n := BitVec.ofNat n (w.toNat / 2 ^ lo)

/-- The same bits as a number. -/
def fldNat (w : BitVec 32) (lo n : Nat) : Nat := w.toNat / 2 ^ lo % 2 ^ n

/-- Class 0 (R46). -/
noncomputable def decodeControl (w : BitVec 32) : Except SlotError Instr :=
  match fldNat w 18 5 with
  | 0 => if fldNat w 0 18 = 0 ∧ fldNat w 23 1 = 0 then .ok (.nop (fld w 24 4)) else .error (.reservedBits 0 0)
  | 1 => if fldNat w 23 1 = 0 then .ok (.br (fld w 24 4) (fld w 0 18)) else .error (.reservedBits 0 1)
  | 2 => if fldNat w 0 12 = 0 ∧ fldNat w 23 1 = 0 then .ok (.brs (fld w 24 4) (fld w 12 6)) else .error (.reservedBits 0 2)
  | 3 => if fldNat w 23 1 = 0 then .ok (.call (fld w 24 4) (fld w 0 18)) else .error (.reservedBits 0 3)
  | 4 => if fldNat w 0 18 = 0 ∧ fldNat w 23 1 = 0 then .ok (.ret (fld w 24 4)) else .error (.reservedBits 0 4)
  | 5 => if fldNat w 0 18 = 0 ∧ fldNat w 23 1 = 0 then .ok (.yield (fld w 24 4)) else .error (.reservedBits 0 5)
  | 6 => if fldNat w 0 18 = 0 ∧ fldNat w 23 1 = 0 then .ok (.yieldC (fld w 24 4)) else .error (.reservedBits 0 6)
  | 7 => if fldNat w 0 18 = 0 ∧ fldNat w 23 1 = 0 then .ok (.endTask (fld w 24 4)) else .error (.reservedBits 0 7)
  | 8 => if fldNat w 3 3 = 0 ∧ fldNat w 23 1 = 0 then .ok (.spawn (fld w 24 4) (fld w 12 6) (fld w 6 6) (fld w 0 3)) else .error (.reservedBits 0 8)
  | op => .error (.reservedOpcode 0 op)

/-- Class 1 (R46). -/
noncomputable def decodeScalar (w : BitVec 32) : Except SlotError Instr :=
  match fldNat w 18 5 with
  | 0 => .ok (.add (fld w 24 4) (fld w 23 1) (fld w 12 6) (fld w 6 6) (fld w 0 6))
  | 1 => .ok (.sub (fld w 24 4) (fld w 23 1) (fld w 12 6) (fld w 6 6) (fld w 0 6))
  | 2 => .ok (.mul (fld w 24 4) (fld w 23 1) (fld w 12 6) (fld w 6 6) (fld w 0 6))
  | 3 => .ok (.mulh (fld w 24 4) (fld w 23 1) (fld w 12 6) (fld w 6 6) (fld w 0 6))
  | 4 => .ok (.mulhn (fld w 24 4) (fld w 23 1) (fld w 12 6) (fld w 6 6) (fld w 0 6))
  | 5 => .ok (.div (fld w 24 4) (fld w 23 1) (fld w 12 6) (fld w 6 6) (fld w 0 6))
  | 6 => .ok (.divn (fld w 24 4) (fld w 23 1) (fld w 12 6) (fld w 6 6) (fld w 0 6))
  | 7 => .ok (.rem (fld w 24 4) (fld w 23 1) (fld w 12 6) (fld w 6 6) (fld w 0 6))
  | 8 => .ok (.remn (fld w 24 4) (fld w 23 1) (fld w 12 6) (fld w 6 6) (fld w 0 6))
  | 9 => .ok (.and (fld w 24 4) (fld w 23 1) (fld w 12 6) (fld w 6 6) (fld w 0 6))
  | 10 => .ok (.or (fld w 24 4) (fld w 23 1) (fld w 12 6) (fld w 6 6) (fld w 0 6))
  | 11 => .ok (.xor (fld w 24 4) (fld w 23 1) (fld w 12 6) (fld w 6 6) (fld w 0 6))
  | 12 => .ok (.andn (fld w 24 4) (fld w 23 1) (fld w 12 6) (fld w 6 6) (fld w 0 6))
  | 13 => .ok (.shl (fld w 24 4) (fld w 23 1) (fld w 12 6) (fld w 6 6) (fld w 0 6))
  | 14 => .ok (.shr (fld w 24 4) (fld w 23 1) (fld w 12 6) (fld w 6 6) (fld w 0 6))
  | 15 => .ok (.sar (fld w 24 4) (fld w 23 1) (fld w 12 6) (fld w 6 6) (fld w 0 6))
  | 16 => .ok (.rol (fld w 24 4) (fld w 23 1) (fld w 12 6) (fld w 6 6) (fld w 0 6))
  | 17 => .ok (.min (fld w 24 4) (fld w 23 1) (fld w 12 6) (fld w 6 6) (fld w 0 6))
  | 18 => .ok (.max (fld w 24 4) (fld w 23 1) (fld w 12 6) (fld w 6 6) (fld w 0 6))
  | 19 => .ok (.minn (fld w 24 4) (fld w 23 1) (fld w 12 6) (fld w 6 6) (fld w 0 6))
  | 20 => .ok (.maxn (fld w 24 4) (fld w 23 1) (fld w 12 6) (fld w 6 6) (fld w 0 6))
  | 21 => .ok (.shadd1 (fld w 24 4) (fld w 23 1) (fld w 12 6) (fld w 6 6) (fld w 0 6))
  | 22 => .ok (.shadd2 (fld w 24 4) (fld w 23 1) (fld w 12 6) (fld w 6 6) (fld w 0 6))
  | 23 => .ok (.shadd3 (fld w 24 4) (fld w 23 1) (fld w 12 6) (fld w 6 6) (fld w 0 6))
  | 24 => .ok (.cmpeq (fld w 24 4) (fld w 23 1) (fld w 12 6) (fld w 6 6) (fld w 0 6))
  | 25 => .ok (.cmpne (fld w 24 4) (fld w 23 1) (fld w 12 6) (fld w 6 6) (fld w 0 6))
  | 26 => .ok (.cmplt (fld w 24 4) (fld w 23 1) (fld w 12 6) (fld w 6 6) (fld w 0 6))
  | 27 => .ok (.cmple (fld w 24 4) (fld w 23 1) (fld w 12 6) (fld w 6 6) (fld w 0 6))
  | 28 => .ok (.cmpltn (fld w 24 4) (fld w 23 1) (fld w 12 6) (fld w 6 6) (fld w 0 6))
  | 29 => .ok (.cmplen (fld w 24 4) (fld w 23 1) (fld w 12 6) (fld w 6 6) (fld w 0 6))
  | op => .error (.reservedOpcode 1 op)

/-- Class 2 (R46). -/
noncomputable def decodeFloat (w : BitVec 32) : Except SlotError Instr :=
  match fldNat w 18 5 with
  | 0 => .ok (.fadd (fld w 24 4) (fld w 23 1) (fld w 12 6) (fld w 6 6) (fld w 0 6))
  | 1 => .ok (.fsub (fld w 24 4) (fld w 23 1) (fld w 12 6) (fld w 6 6) (fld w 0 6))
  | 2 => .ok (.fmul (fld w 24 4) (fld w 23 1) (fld w 12 6) (fld w 6 6) (fld w 0 6))
  | 3 => .ok (.ffma (fld w 24 4) (fld w 23 1) (fld w 12 6) (fld w 6 6) (fld w 0 6))
  | 4 => .ok (.fdiv (fld w 24 4) (fld w 23 1) (fld w 12 6) (fld w 6 6) (fld w 0 6))
  | 5 => if fldNat w 0 6 = 0 then .ok (.fsqrt (fld w 24 4) (fld w 23 1) (fld w 12 6) (fld w 6 6)) else .error (.reservedBits 2 5)
  | 6 => .ok (.fmin (fld w 24 4) (fld w 23 1) (fld w 12 6) (fld w 6 6) (fld w 0 6))
  | 7 => .ok (.fmax (fld w 24 4) (fld w 23 1) (fld w 12 6) (fld w 6 6) (fld w 0 6))
  | 8 => if fldNat w 0 6 = 0 then .ok (.fabs (fld w 24 4) (fld w 23 1) (fld w 12 6) (fld w 6 6)) else .error (.reservedBits 2 8)
  | 9 => if fldNat w 0 6 = 0 then .ok (.fneg (fld w 24 4) (fld w 23 1) (fld w 12 6) (fld w 6 6)) else .error (.reservedBits 2 9)
  | 10 => .ok (.fceq (fld w 24 4) (fld w 23 1) (fld w 12 6) (fld w 6 6) (fld w 0 6))
  | 11 => .ok (.fclt (fld w 24 4) (fld w 23 1) (fld w 12 6) (fld w 6 6) (fld w 0 6))
  | 12 => .ok (.fcle (fld w 24 4) (fld w 23 1) (fld w 12 6) (fld w 6 6) (fld w 0 6))
  | 13 => .ok (.fcun (fld w 24 4) (fld w 23 1) (fld w 12 6) (fld w 6 6) (fld w 0 6))
  | 14 => if fldNat w 2 4 = 0 then .ok (.fcvtif (fld w 24 4) (fld w 23 1) (fld w 12 6) (fld w 6 6) (fld w 0 2)) else .error (.reservedBits 2 14)
  | 15 => if fldNat w 2 4 = 0 then .ok (.fcvtfi (fld w 24 4) (fld w 23 1) (fld w 12 6) (fld w 6 6) (fld w 0 2)) else .error (.reservedBits 2 15)
  | 16 => if fldNat w 0 6 = 0 then .ok (.fexp2 (fld w 24 4) (fld w 23 1) (fld w 12 6) (fld w 6 6)) else .error (.reservedBits 2 16)
  | 17 => if fldNat w 0 6 = 0 then .ok (.flog2 (fld w 24 4) (fld w 23 1) (fld w 12 6) (fld w 6 6)) else .error (.reservedBits 2 17)
  | 18 => if fldNat w 0 6 = 0 then .ok (.clz (fld w 24 4) (fld w 23 1) (fld w 12 6) (fld w 6 6)) else .error (.reservedBits 2 18)
  | 19 => if fldNat w 0 6 = 0 then .ok (.ctz (fld w 24 4) (fld w 23 1) (fld w 12 6) (fld w 6 6)) else .error (.reservedBits 2 19)
  | 20 => if fldNat w 0 6 = 0 then .ok (.popc (fld w 24 4) (fld w 23 1) (fld w 12 6) (fld w 6 6)) else .error (.reservedBits 2 20)
  | 21 => .ok (.sext (fld w 24 4) (fld w 23 1) (fld w 12 6) (fld w 6 6) (fld w 0 6))
  | 22 => .ok (.zext (fld w 24 4) (fld w 23 1) (fld w 12 6) (fld w 6 6) (fld w 0 6))
  | 23 => .ok (.bfx (fld w 24 4) (fld w 23 1) (fld w 12 6) (fld w 6 6) (fld w 0 6))
  | 24 => .ok (.bfxn (fld w 24 4) (fld w 23 1) (fld w 12 6) (fld w 6 6) (fld w 0 6))
  | 25 => .ok (.bfi (fld w 24 4) (fld w 23 1) (fld w 12 6) (fld w 6 6) (fld w 0 6))
  | 26 => if fldNat w 0 6 = 0 then .ok (.mov (fld w 24 4) (fld w 23 1) (fld w 12 6) (fld w 6 6)) else .error (.reservedBits 2 26)
  | 27 => if fldNat w 10 2 = 0 then .ok (.movp (fld w 24 4) (fld w 23 1) (fld w 12 6) (fld w 6 4) (fld w 4 2) (fld w 0 4)) else .error (.reservedBits 2 27)
  | 28 => if fldNat w 0 6 = 0 then .ok (.movtp (fld w 24 4) (fld w 23 1) (fld w 12 6) (fld w 6 6)) else .error (.reservedBits 2 28)
  | op => .error (.reservedOpcode 2 op)

/-- Class 3 (R46). -/
noncomputable def decodeImmediate (w : BitVec 32) : Except SlotError Instr :=
  match fldNat w 18 5 with
  | 0 => .ok (.addi (fld w 24 4) (fld w 23 1) (fld w 12 6) (fld w 6 6) (fld w 0 6))
  | 1 => .ok (.muli (fld w 24 4) (fld w 23 1) (fld w 12 6) (fld w 6 6) (fld w 0 6))
  | 2 => .ok (.andi (fld w 24 4) (fld w 23 1) (fld w 12 6) (fld w 6 6) (fld w 0 6))
  | 3 => .ok (.ori (fld w 24 4) (fld w 23 1) (fld w 12 6) (fld w 6 6) (fld w 0 6))
  | 4 => .ok (.xori (fld w 24 4) (fld w 23 1) (fld w 12 6) (fld w 6 6) (fld w 0 6))
  | 5 => .ok (.shli (fld w 24 4) (fld w 23 1) (fld w 12 6) (fld w 6 6) (fld w 0 6))
  | 6 => .ok (.shri (fld w 24 4) (fld w 23 1) (fld w 12 6) (fld w 6 6) (fld w 0 6))
  | 7 => .ok (.sari (fld w 24 4) (fld w 23 1) (fld w 12 6) (fld w 6 6) (fld w 0 6))
  | 8 => .ok (.cmpeqi (fld w 24 4) (fld w 23 1) (fld w 12 6) (fld w 6 6) (fld w 0 6))
  | 9 => .ok (.cmpnei (fld w 24 4) (fld w 23 1) (fld w 12 6) (fld w 6 6) (fld w 0 6))
  | 10 => .ok (.cmplti (fld w 24 4) (fld w 23 1) (fld w 12 6) (fld w 6 6) (fld w 0 6))
  | 11 => .ok (.cmpltni (fld w 24 4) (fld w 23 1) (fld w 12 6) (fld w 6 6) (fld w 0 6))
  | 12 => .ok (.movi (fld w 24 4) (fld w 23 1) (fld w 12 6) (fld w 0 12))
  | 13 => .ok (.movhi (fld w 24 4) (fld w 23 1) (fld w 12 6) (fld w 0 12))
  | op => .error (.reservedOpcode 3 op)

/-- Class 4 (R46). -/
noncomputable def decodeVec4 (w : BitVec 32) : Except SlotError Instr :=
  match fldNat w 18 5 with
  | 0 => .ok (.vadd (fld w 24 4) (fld w 23 1) (fld w 15 3) (fld w 10 5) (fld w 5 5) (fld w 0 5))
  | 1 => .ok (.vsub (fld w 24 4) (fld w 23 1) (fld w 15 3) (fld w 10 5) (fld w 5 5) (fld w 0 5))
  | 2 => .ok (.vmul (fld w 24 4) (fld w 23 1) (fld w 15 3) (fld w 10 5) (fld w 5 5) (fld w 0 5))
  | 3 => .ok (.vmulh (fld w 24 4) (fld w 23 1) (fld w 15 3) (fld w 10 5) (fld w 5 5) (fld w 0 5))
  | 4 => .ok (.vfma (fld w 24 4) (fld w 23 1) (fld w 15 3) (fld w 10 5) (fld w 5 5) (fld w 0 5))
  | 5 => .ok (.vfms (fld w 24 4) (fld w 23 1) (fld w 15 3) (fld w 10 5) (fld w 5 5) (fld w 0 5))
  | 6 => .ok (.vmin (fld w 24 4) (fld w 23 1) (fld w 15 3) (fld w 10 5) (fld w 5 5) (fld w 0 5))
  | 7 => .ok (.vmax (fld w 24 4) (fld w 23 1) (fld w 15 3) (fld w 10 5) (fld w 5 5) (fld w 0 5))
  | 8 => if fldNat w 0 5 = 0 then .ok (.vabs (fld w 24 4) (fld w 23 1) (fld w 15 3) (fld w 10 5) (fld w 5 5)) else .error (.reservedBits 4 8)
  | 9 => if fldNat w 0 5 = 0 then .ok (.vneg (fld w 24 4) (fld w 23 1) (fld w 15 3) (fld w 10 5) (fld w 5 5)) else .error (.reservedBits 4 9)
  | 10 => .ok (.vadds (fld w 24 4) (fld w 23 1) (fld w 15 3) (fld w 10 5) (fld w 5 5) (fld w 0 5))
  | 11 => .ok (.vsubs (fld w 24 4) (fld w 23 1) (fld w 15 3) (fld w 10 5) (fld w 5 5) (fld w 0 5))
  | 12 => .ok (.vavg (fld w 24 4) (fld w 23 1) (fld w 15 3) (fld w 10 5) (fld w 5 5) (fld w 0 5))
  | 13 => .ok (.vdot4 (fld w 24 4) (fld w 23 1) (fld w 15 3) (fld w 10 5) (fld w 5 5) (fld w 0 5))
  | 14 => .ok (.vmulw (fld w 24 4) (fld w 23 1) (fld w 15 3) (fld w 10 5) (fld w 5 5) (fld w 0 5))
  | 15 => .ok (.vclamp (fld w 24 4) (fld w 23 1) (fld w 15 3) (fld w 10 5) (fld w 5 5) (fld w 0 5))
  | op => .error (.reservedOpcode 4 op)

/-- Class 5 (R46). -/
noncomputable def decodeVec5 (w : BitVec 32) : Except SlotError Instr :=
  match fldNat w 18 5 with
  | 0 => .ok (.vand (fld w 24 4) (fld w 23 1) (fld w 15 3) (fld w 10 5) (fld w 5 5) (fld w 0 5))
  | 1 => .ok (.vor (fld w 24 4) (fld w 23 1) (fld w 15 3) (fld w 10 5) (fld w 5 5) (fld w 0 5))
  | 2 => .ok (.vxor (fld w 24 4) (fld w 23 1) (fld w 15 3) (fld w 10 5) (fld w 5 5) (fld w 0 5))
  | 3 => .ok (.vandn (fld w 24 4) (fld w 23 1) (fld w 15 3) (fld w 10 5) (fld w 5 5) (fld w 0 5))
  | 4 => if fldNat w 0 5 = 0 then .ok (.vnot (fld w 24 4) (fld w 23 1) (fld w 15 3) (fld w 10 5) (fld w 5 5)) else .error (.reservedBits 5 4)
  | 5 => .ok (.vshl (fld w 24 4) (fld w 23 1) (fld w 15 3) (fld w 10 5) (fld w 5 5) (fld w 0 5))
  | 6 => .ok (.vshr (fld w 24 4) (fld w 23 1) (fld w 15 3) (fld w 10 5) (fld w 5 5) (fld w 0 5))
  | 7 => .ok (.vsar (fld w 24 4) (fld w 23 1) (fld w 15 3) (fld w 10 5) (fld w 5 5) (fld w 0 5))
  | 8 => .ok (.vceq (fld w 24 4) (fld w 23 1) (fld w 15 3) (fld w 10 5) (fld w 5 5) (fld w 0 5))
  | 9 => .ok (.vcne (fld w 24 4) (fld w 23 1) (fld w 15 3) (fld w 10 5) (fld w 5 5) (fld w 0 5))
  | 10 => .ok (.vclt (fld w 24 4) (fld w 23 1) (fld w 15 3) (fld w 10 5) (fld w 5 5) (fld w 0 5))
  | 11 => .ok (.vcle (fld w 24 4) (fld w 23 1) (fld w 15 3) (fld w 10 5) (fld w 5 5) (fld w 0 5))
  | 12 => .ok (.vclass (fld w 24 4) (fld w 23 1) (fld w 15 3) (fld w 10 5) (fld w 5 5) (fld w 0 5))
  | 13 => .ok (.vsel (fld w 24 4) (fld w 23 1) (fld w 15 3) (fld w 10 5) (fld w 5 5) (fld w 0 5))
  | 14 => if fldNat w 0 5 = 0 then .ok (.vmov (fld w 24 4) (fld w 23 1) (fld w 15 3) (fld w 10 5) (fld w 5 5)) else .error (.reservedBits 5 14)
  | 15 => if fldNat w 0 5 = 0 then .ok (.vbc (fld w 24 4) (fld w 23 1) (fld w 15 3) (fld w 10 5) (fld w 5 5)) else .error (.reservedBits 5 15)
  | 16 => .ok (.vmovs (fld w 24 4) (fld w 23 1) (fld w 15 3) (fld w 10 5) (fld w 5 5) (fld w 0 5))
  | 17 => .ok (.vins (fld w 24 4) (fld w 23 1) (fld w 15 3) (fld w 10 5) (fld w 5 5) (fld w 0 5))
  | 18 => if fldNat w 0 5 = 0 then .ok (.viota (fld w 24 4) (fld w 23 1) (fld w 15 3) (fld w 10 5) (fld w 5 5)) else .error (.reservedBits 5 18)
  | 19 => if fldNat w 4 1 = 0 ∧ fldNat w 9 1 = 0 then .ok (.qand (fld w 24 4) (fld w 23 1) (fld w 15 3) (fld w 10 5) (fld w 5 4) (fld w 0 4)) else .error (.reservedBits 5 19)
  | 20 => if fldNat w 4 1 = 0 ∧ fldNat w 9 1 = 0 then .ok (.qor (fld w 24 4) (fld w 23 1) (fld w 15 3) (fld w 10 5) (fld w 5 4) (fld w 0 4)) else .error (.reservedBits 5 20)
  | 21 => if fldNat w 4 1 = 0 ∧ fldNat w 9 1 = 0 then .ok (.qxor (fld w 24 4) (fld w 23 1) (fld w 15 3) (fld w 10 5) (fld w 5 4) (fld w 0 4)) else .error (.reservedBits 5 21)
  | 22 => if fldNat w 0 5 = 0 ∧ fldNat w 9 1 = 0 then .ok (.qmov (fld w 24 4) (fld w 23 1) (fld w 15 3) (fld w 10 5) (fld w 5 4)) else .error (.reservedBits 5 22)
  | op => .error (.reservedOpcode 5 op)

/-- Class 6 (R46). -/
noncomputable def decodeVec6 (w : BitVec 32) : Except SlotError Instr :=
  match fldNat w 18 5 with
  | 0 => if fldNat w 4 1 = 0 then .ok (.vcvt (fld w 24 4) (fld w 23 1) (fld w 15 3) (fld w 10 5) (fld w 5 5) (fld w 0 4)) else .error (.reservedBits 6 0)
  | 1 => if fldNat w 4 1 = 0 then .ok (.vcvtw (fld w 24 4) (fld w 23 1) (fld w 15 3) (fld w 10 5) (fld w 5 5) (fld w 0 4)) else .error (.reservedBits 6 1)
  | 2 => if fldNat w 4 1 = 0 then .ok (.vcvtn (fld w 24 4) (fld w 23 1) (fld w 15 3) (fld w 10 5) (fld w 5 5) (fld w 0 4)) else .error (.reservedBits 6 2)
  | 3 => if fldNat w 4 1 = 0 then .ok (.vcvtns (fld w 24 4) (fld w 23 1) (fld w 15 3) (fld w 10 5) (fld w 5 5) (fld w 0 4)) else .error (.reservedBits 6 3)
  | 4 => .ok (.vpack (fld w 24 4) (fld w 23 1) (fld w 15 3) (fld w 10 5) (fld w 5 5) (fld w 0 5))
  | 5 => if fldNat w 1 4 = 0 then .ok (.vunpk (fld w 24 4) (fld w 23 1) (fld w 15 3) (fld w 10 5) (fld w 5 5) (fld w 0 1)) else .error (.reservedBits 6 5)
  | 6 => .ok (.vperm (fld w 24 4) (fld w 23 1) (fld w 15 3) (fld w 10 5) (fld w 5 5) (fld w 0 5))
  | 7 => .ok (.vrot (fld w 24 4) (fld w 23 1) (fld w 15 3) (fld w 10 5) (fld w 5 5) (fld w 0 5))
  | 8 => .ok (.vsld (fld w 24 4) (fld w 23 1) (fld w 15 3) (fld w 10 5) (fld w 5 5) (fld w 0 5))
  | 9 => .ok (.vtrn (fld w 24 4) (fld w 23 1) (fld w 15 3) (fld w 10 5) (fld w 5 5) (fld w 0 5))
  | 10 => if fldNat w 9 1 = 0 then .ok (.vcmpr (fld w 24 4) (fld w 23 1) (fld w 15 3) (fld w 10 5) (fld w 5 4) (fld w 0 5)) else .error (.reservedBits 6 10)
  | 11 => if fldNat w 4 1 = 0 then .ok (.vexpd (fld w 24 4) (fld w 23 1) (fld w 15 3) (fld w 10 5) (fld w 5 5) (fld w 0 4)) else .error (.reservedBits 6 11)
  | 12 => if fldNat w 0 5 = 0 then .ok (.vradd (fld w 24 4) (fld w 23 1) (fld w 15 3) (fld w 10 5) (fld w 5 5)) else .error (.reservedBits 6 12)
  | 13 => if fldNat w 0 5 = 0 then .ok (.vrmax (fld w 24 4) (fld w 23 1) (fld w 15 3) (fld w 10 5) (fld w 5 5)) else .error (.reservedBits 6 13)
  | 14 => if fldNat w 0 5 = 0 then .ok (.vrmin (fld w 24 4) (fld w 23 1) (fld w 15 3) (fld w 10 5) (fld w 5 5)) else .error (.reservedBits 6 14)
  | 15 => if fldNat w 0 5 = 0 then .ok (.vramax (fld w 24 4) (fld w 23 1) (fld w 15 3) (fld w 10 5) (fld w 5 5)) else .error (.reservedBits 6 15)
  | 16 => if fldNat w 0 5 = 0 then .ok (.vscan (fld w 24 4) (fld w 23 1) (fld w 15 3) (fld w 10 5) (fld w 5 5)) else .error (.reservedBits 6 16)
  | 17 => if fldNat w 0 5 = 0 ∧ fldNat w 9 1 = 0 then .ok (.vrcnt (fld w 24 4) (fld w 23 1) (fld w 15 3) (fld w 10 5) (fld w 5 4)) else .error (.reservedBits 6 17)
  | 18 => if fldNat w 0 5 = 0 ∧ fldNat w 10 5 = 0 then .ok (.vcw (fld w 24 4) (fld w 23 1) (fld w 15 3) (fld w 5 5)) else .error (.reservedBits 6 18)
  | op => .error (.reservedOpcode 6 op)

/-- Class 7 (R46). -/
noncomputable def decodeVec7 (w : BitVec 32) : Except SlotError Instr :=
  match fldNat w 18 5 with
  | 0 => if fldNat w 0 5 = 0 then .ok (.vexp2 (fld w 24 4) (fld w 23 1) (fld w 15 3) (fld w 10 5) (fld w 5 5)) else .error (.reservedBits 7 0)
  | 1 => if fldNat w 0 5 = 0 then .ok (.vlog2 (fld w 24 4) (fld w 23 1) (fld w 15 3) (fld w 10 5) (fld w 5 5)) else .error (.reservedBits 7 1)
  | 2 => if fldNat w 0 5 = 0 then .ok (.vrcp (fld w 24 4) (fld w 23 1) (fld w 15 3) (fld w 10 5) (fld w 5 5)) else .error (.reservedBits 7 2)
  | 3 => if fldNat w 0 5 = 0 then .ok (.vrsq (fld w 24 4) (fld w 23 1) (fld w 15 3) (fld w 10 5) (fld w 5 5)) else .error (.reservedBits 7 3)
  | 4 => if fldNat w 0 5 = 0 then .ok (.vsqrt (fld w 24 4) (fld w 23 1) (fld w 15 3) (fld w 10 5) (fld w 5 5)) else .error (.reservedBits 7 4)
  | 5 => if fldNat w 0 5 = 0 then .ok (.vtanh (fld w 24 4) (fld w 23 1) (fld w 15 3) (fld w 10 5) (fld w 5 5)) else .error (.reservedBits 7 5)
  | 6 => if fldNat w 0 5 = 0 then .ok (.vsigm (fld w 24 4) (fld w 23 1) (fld w 15 3) (fld w 10 5) (fld w 5 5)) else .error (.reservedBits 7 6)
  | 7 => if fldNat w 0 5 = 0 then .ok (.vsin (fld w 24 4) (fld w 23 1) (fld w 15 3) (fld w 10 5) (fld w 5 5)) else .error (.reservedBits 7 7)
  | 8 => if fldNat w 0 5 = 0 then .ok (.vcos (fld w 24 4) (fld w 23 1) (fld w 15 3) (fld w 10 5) (fld w 5 5)) else .error (.reservedBits 7 8)
  | 9 => .ok (.vrng (fld w 24 4) (fld w 23 1) (fld w 15 3) (fld w 10 5) (fld w 5 5) (fld w 0 5))
  | 10 => .ok (.vtopk (fld w 24 4) (fld w 23 1) (fld w 15 3) (fld w 10 5) (fld w 5 5) (fld w 0 5))
  | 11 => if fldNat w 2 3 = 0 then .ok (.vscale (fld w 24 4) (fld w 23 1) (fld w 15 3) (fld w 10 5) (fld w 5 5) (fld w 0 2)) else .error (.reservedBits 7 11)
  | 12 => if fldNat w 2 3 = 0 then .ok (.vqnt (fld w 24 4) (fld w 23 1) (fld w 15 3) (fld w 10 5) (fld w 5 5) (fld w 0 2)) else .error (.reservedBits 7 12)
  | 13 => if fldNat w 2 3 = 0 then .ok (.vdq (fld w 24 4) (fld w 23 1) (fld w 15 3) (fld w 10 5) (fld w 5 5) (fld w 0 2)) else .error (.reservedBits 7 13)
  | 14 => .ok (.vlut (fld w 24 4) (fld w 23 1) (fld w 15 3) (fld w 10 5) (fld w 5 5) (fld w 0 5))
  | op => .error (.reservedOpcode 7 op)

/-- Class 8 (R46). -/
noncomputable def decodeMatrix (w : BitVec 32) : Except SlotError Instr :=
  match fldNat w 20 3 with
  | 0 => if fldNat w 23 1 = 0 then .ok (.mma (fld w 24 4) (fld w 12 8) (fld w 6 6) (fld w 0 6)) else .error (.reservedBits 8 0)
  | 1 => if fldNat w 23 1 = 0 then .ok (.mmaz (fld w 24 4) (fld w 12 8) (fld w 6 6) (fld w 0 6)) else .error (.reservedBits 8 1)
  | 2 => if fldNat w 23 1 = 0 then .ok (.mman (fld w 24 4) (fld w 12 8) (fld w 6 6) (fld w 0 6)) else .error (.reservedBits 8 2)
  | 3 => if fldNat w 0 6 = 0 ∧ fldNat w 23 1 = 0 then .ok (.mlda (fld w 24 4) (fld w 12 8) (fld w 6 6)) else .error (.reservedBits 8 3)
  | 4 => if fldNat w 0 6 = 0 ∧ fldNat w 23 1 = 0 then .ok (.msta (fld w 24 4) (fld w 12 8) (fld w 6 6)) else .error (.reservedBits 8 4)
  | 5 => if fldNat w 0 6 = 0 ∧ fldNat w 7 5 = 0 ∧ fldNat w 23 1 = 0 then .ok (.mdrn (fld w 24 4) (fld w 12 8) (fld w 6 1)) else .error (.reservedBits 8 5)
  | 6 => if fldNat w 0 12 = 0 ∧ fldNat w 23 1 = 0 then .ok (.mzero (fld w 24 4) (fld w 12 8)) else .error (.reservedBits 8 6)
  | 7 => if fldNat w 0 20 = 0 ∧ fldNat w 23 1 = 0 then .ok (.mcommit (fld w 24 4)) else .error (.reservedBits 8 7)
  | op => .error (.reservedOpcode 8 op)

/-- Class 9 (R46). -/
noncomputable def decodeMatrixAux (w : BitVec 32) : Except SlotError Instr :=
  match fldNat w 18 5 with
  | 0 => if fldNat w 4 14 = 0 ∧ fldNat w 23 1 = 0 then .ok (.mwaitb (fld w 24 4) (fld w 0 4)) else if fldNat w 0 11 = 0 ∧ fldNat w 17 1 = 1 ∧ fldNat w 23 1 = 0 then .ok (.mwaitbId (fld w 24 4) (fld w 11 6)) else .error (.reservedBits 9 0)
  | 1 => if fldNat w 1 3 = 0 ∧ fldNat w 23 1 = 0 then .ok (.mwm (fld w 24 4) (fld w 12 6) (fld w 4 8) (fld w 0 1)) else .error (.reservedBits 9 1)
  | 2 => if fldNat w 0 12 = 0 ∧ fldNat w 23 1 = 0 then .ok (.banklendM (fld w 24 4) (fld w 12 6)) else if fldNat w 0 12 = 1 ∧ fldNat w 23 1 = 0 then .ok (.banklendV (fld w 24 4) (fld w 12 6)) else if fldNat w 0 12 = 2 ∧ fldNat w 23 1 = 0 then .ok (.banklendRel (fld w 24 4) (fld w 12 6)) else if fldNat w 0 12 = 3 ∧ fldNat w 23 1 = 0 then .ok (.banklendAcq (fld w 24 4) (fld w 12 6)) else .error (.reservedBits 9 2)
  | 3 => if fldNat w 0 9 = 0 ∧ fldNat w 23 1 = 0 then .ok (.scld (fld w 24 4) (fld w 15 3) (fld w 9 6)) else .error (.reservedBits 9 3)
  | 4 => if fldNat w 0 13 = 0 ∧ fldNat w 23 1 = 0 then .ok (.mcfg (fld w 24 4) (fld w 13 5)) else .error (.reservedBits 9 4)
  | 5 => if fldNat w 0 12 = 0 ∧ fldNat w 23 1 = 0 then .ok (.medge (fld w 24 4) (fld w 12 6)) else .error (.reservedBits 9 5)
  | op => .error (.reservedOpcode 9 op)

/-- Class A (R46). -/
noncomputable def decodeMemory (w : BitVec 32) : Except SlotError Instr :=
  match fldNat w 18 5 with
  | 0 => .ok (.ldgB (fld w 24 4) (fld w 23 1) (fld w 12 6) (fld w 8 4) (fld w 2 6) (fld w 0 2))
  | 1 => .ok (.ldgBn (fld w 24 4) (fld w 23 1) (fld w 12 6) (fld w 8 4) (fld w 2 6) (fld w 0 2))
  | 2 => .ok (.ldgH (fld w 24 4) (fld w 23 1) (fld w 12 6) (fld w 8 4) (fld w 2 6) (fld w 0 2))
  | 3 => .ok (.ldgHn (fld w 24 4) (fld w 23 1) (fld w 12 6) (fld w 8 4) (fld w 2 6) (fld w 0 2))
  | 4 => .ok (.ldgW (fld w 24 4) (fld w 23 1) (fld w 12 6) (fld w 8 4) (fld w 2 6) (fld w 0 2))
  | 5 => .ok (.ldgWn (fld w 24 4) (fld w 23 1) (fld w 12 6) (fld w 8 4) (fld w 2 6) (fld w 0 2))
  | 6 => .ok (.ldgD (fld w 24 4) (fld w 23 1) (fld w 12 6) (fld w 8 4) (fld w 2 6) (fld w 0 2))
  | 7 => if fldNat w 23 1 = 0 then .ok (.stgB (fld w 24 4) (fld w 12 6) (fld w 8 4) (fld w 2 6) (fld w 0 2)) else .error (.reservedBits 10 7)
  | 8 => if fldNat w 23 1 = 0 then .ok (.stgH (fld w 24 4) (fld w 12 6) (fld w 8 4) (fld w 2 6) (fld w 0 2)) else .error (.reservedBits 10 8)
  | 9 => if fldNat w 23 1 = 0 then .ok (.stgW (fld w 24 4) (fld w 12 6) (fld w 8 4) (fld w 2 6) (fld w 0 2)) else .error (.reservedBits 10 9)
  | 10 => if fldNat w 23 1 = 0 then .ok (.stgD (fld w 24 4) (fld w 12 6) (fld w 8 4) (fld w 2 6) (fld w 0 2)) else .error (.reservedBits 10 10)
  | 11 => .ok (.vldg (fld w 24 4) (fld w 23 1) (fld w 12 6) (fld w 8 4) (fld w 2 6) (fld w 0 2))
  | 12 => if fldNat w 23 1 = 0 then .ok (.vstg (fld w 24 4) (fld w 12 6) (fld w 8 4) (fld w 2 6) (fld w 0 2)) else .error (.reservedBits 10 12)
  | 13 => .ok (.ldS (fld w 24 4) (fld w 23 1) (fld w 12 6) (fld w 8 4) (fld w 2 6) (fld w 0 2))
  | 14 => if fldNat w 23 1 = 0 then .ok (.stS (fld w 24 4) (fld w 12 6) (fld w 8 4) (fld w 2 6) (fld w 0 2)) else .error (.reservedBits 10 14)
  | 15 => .ok (.vldS (fld w 24 4) (fld w 23 1) (fld w 12 6) (fld w 8 4) (fld w 2 6) (fld w 0 2))
  | 16 => if fldNat w 23 1 = 0 then .ok (.vstS (fld w 24 4) (fld w 12 6) (fld w 8 4) (fld w 2 6) (fld w 0 2)) else .error (.reservedBits 10 16)
  | 17 => .ok (.vldC (fld w 24 4) (fld w 23 1) (fld w 12 6) (fld w 8 4) (fld w 2 6) (fld w 0 2))
  | 18 => if fldNat w 23 1 = 0 then .ok (.vstC (fld w 24 4) (fld w 12 6) (fld w 8 4) (fld w 2 6) (fld w 0 2)) else .error (.reservedBits 10 18)
  | 19 => .ok (.vldX (fld w 24 4) (fld w 23 1) (fld w 12 6) (fld w 8 4) (fld w 2 6) (fld w 0 2))
  | 20 => if fldNat w 23 1 = 0 then .ok (.vstX (fld w 24 4) (fld w 12 6) (fld w 8 4) (fld w 2 6) (fld w 0 2)) else .error (.reservedBits 10 20)
  | 21 => .ok (.vldL (fld w 24 4) (fld w 23 1) (fld w 12 6) (fld w 8 4) (fld w 2 6) (fld w 0 2))
  | 22 => if fldNat w 23 1 = 0 then .ok (.vstL (fld w 24 4) (fld w 12 6) (fld w 8 4) (fld w 2 6) (fld w 0 2)) else .error (.reservedBits 10 22)
  | 23 => .ok (.vgthS (fld w 24 4) (fld w 23 1) (fld w 12 6) (fld w 8 4) (fld w 2 6) (fld w 0 2))
  | 24 => if fldNat w 23 1 = 0 then .ok (.vsctS (fld w 24 4) (fld w 12 6) (fld w 8 4) (fld w 2 6) (fld w 0 2)) else .error (.reservedBits 10 24)
  | 25 => .ok (.vgthL (fld w 24 4) (fld w 23 1) (fld w 12 6) (fld w 8 4) (fld w 2 6) (fld w 0 2))
  | 26 => if fldNat w 23 1 = 0 then .ok (.vsctL (fld w 24 4) (fld w 12 6) (fld w 8 4) (fld w 2 6) (fld w 0 2)) else .error (.reservedBits 10 26)
  | 27 => if fldNat w 0 2 = 0 ∧ fldNat w 23 1 = 0 then .ok (.plst (fld w 24 4) (fld w 12 6) (fld w 8 4) (fld w 2 6)) else .error (.reservedBits 10 27)
  | 28 => .ok (.vldb (fld w 24 4) (fld w 23 1) (fld w 12 6) (fld w 8 4) (fld w 2 6) (fld w 0 2))
  | 29 => if fldNat w 23 1 = 0 then .ok (.vstb (fld w 24 4) (fld w 12 6) (fld w 8 4) (fld w 2 6) (fld w 0 2)) else .error (.reservedBits 10 29)
  | 30 => if fldNat w 0 2 = 0 ∧ fldNat w 8 4 = 0 ∧ fldNat w 17 1 = 0 ∧ fldNat w 23 1 = 0 then .ok (.xlt (fld w 24 4) (fld w 16 1) (fld w 12 4) (fld w 2 6)) else .error (.reservedBits 10 30)
  | 31 => if fldNat w 0 12 = 0 ∧ fldNat w 16 2 = 0 ∧ fldNat w 23 1 = 0 then .ok (.hdrop (fld w 24 4) (fld w 12 4)) else .error (.reservedBits 10 31)
  | op => .error (.reservedOpcode 10 op)

/-- Class B (R46). -/
noncomputable def decodeUnit (w : BitVec 32) : Except SlotError Instr :=
  match fldNat w 18 5 with
  | 0 => if fldNat w 23 1 = 0 then .ok (.aadd (fld w 24 4) (fld w 12 6) (fld w 8 4) (fld w 2 6) (fld w 0 2)) else .error (.reservedBits 11 0)
  | 1 => if fldNat w 23 1 = 0 then .ok (.aand (fld w 24 4) (fld w 12 6) (fld w 8 4) (fld w 2 6) (fld w 0 2)) else .error (.reservedBits 11 1)
  | 2 => if fldNat w 23 1 = 0 then .ok (.aor (fld w 24 4) (fld w 12 6) (fld w 8 4) (fld w 2 6) (fld w 0 2)) else .error (.reservedBits 11 2)
  | 3 => if fldNat w 23 1 = 0 then .ok (.axor (fld w 24 4) (fld w 12 6) (fld w 8 4) (fld w 2 6) (fld w 0 2)) else .error (.reservedBits 11 3)
  | 4 => if fldNat w 23 1 = 0 then .ok (.amin (fld w 24 4) (fld w 12 6) (fld w 8 4) (fld w 2 6) (fld w 0 2)) else .error (.reservedBits 11 4)
  | 5 => if fldNat w 23 1 = 0 then .ok (.amax (fld w 24 4) (fld w 12 6) (fld w 8 4) (fld w 2 6) (fld w 0 2)) else .error (.reservedBits 11 5)
  | 6 => if fldNat w 23 1 = 0 then .ok (.aminn (fld w 24 4) (fld w 12 6) (fld w 8 4) (fld w 2 6) (fld w 0 2)) else .error (.reservedBits 11 6)
  | 7 => if fldNat w 23 1 = 0 then .ok (.amaxn (fld w 24 4) (fld w 12 6) (fld w 8 4) (fld w 2 6) (fld w 0 2)) else .error (.reservedBits 11 7)
  | 8 => if fldNat w 23 1 = 0 then .ok (.aswp (fld w 24 4) (fld w 12 6) (fld w 8 4) (fld w 2 6) (fld w 0 2)) else .error (.reservedBits 11 8)
  | 9 => if fldNat w 23 1 = 0 then .ok (.acas (fld w 24 4) (fld w 12 6) (fld w 8 4) (fld w 2 6) (fld w 0 2)) else .error (.reservedBits 11 9)
  | 10 => if fldNat w 23 1 = 0 then .ok (.afadd (fld w 24 4) (fld w 12 6) (fld w 8 4) (fld w 2 6) (fld w 0 2)) else .error (.reservedBits 11 10)
  | 11 => if fldNat w 16 2 = 0 ∧ fldNat w 23 1 = 0 then .ok (.hbind (fld w 24 4) (fld w 12 4) (fld w 6 6) (fld w 0 6)) else .error (.reservedBits 11 11)
  | 12 => if fldNat w 16 2 = 0 ∧ fldNat w 23 1 = 0 then .ok (.hacqX (fld w 24 4) (fld w 12 4) (fld w 6 6) (fld w 0 6)) else if fldNat w 16 2 = 1 ∧ fldNat w 23 1 = 0 then .ok (.hacqS (fld w 24 4) (fld w 12 4) (fld w 6 6) (fld w 0 6)) else .error (.reservedBits 11 12)
  | 13 => if fldNat w 16 2 = 0 ∧ fldNat w 23 1 = 0 then .ok (.hrel (fld w 24 4) (fld w 12 4) (fld w 6 6) (fld w 0 6)) else .error (.reservedBits 11 13)
  | 14 => if fldNat w 2 16 = 0 ∧ fldNat w 23 1 = 0 then .ok (.fenceRel (fld w 24 4) (fld w 0 2)) else if fldNat w 2 16 = 1 ∧ fldNat w 23 1 = 0 then .ok (.fenceAcq (fld w 24 4) (fld w 0 2)) else if fldNat w 2 16 = 2 ∧ fldNat w 23 1 = 0 then .ok (.fenceAr (fld w 24 4) (fld w 0 2)) else .error (.reservedBits 11 14)
  | 15 => if fldNat w 0 6 = 0 ∧ fldNat w 23 1 = 0 then .ok (.bara (fld w 24 4) (fld w 12 6) (fld w 6 6)) else .error (.reservedBits 11 15)
  | 16 => if fldNat w 0 6 = 0 ∧ fldNat w 23 1 = 0 then .ok (.barw (fld w 24 4) (fld w 12 6) (fld w 6 6)) else .error (.reservedBits 11 16)
  | 17 => if fldNat w 0 6 = 0 ∧ fldNat w 15 3 = 0 ∧ fldNat w 23 1 = 0 then .ok (.tlwait (fld w 24 4) (fld w 12 3) (fld w 6 6)) else .error (.reservedBits 11 17)
  | 18 => if fldNat w 0 6 = 0 ∧ fldNat w 9 3 = 0 ∧ fldNat w 23 1 = 0 then .ok (.tlrd (fld w 24 4) (fld w 12 6) (fld w 6 3)) else if fldNat w 0 6 = 1 ∧ fldNat w 9 3 = 0 ∧ fldNat w 23 1 = 0 then .ok (.tlrdSt (fld w 24 4) (fld w 12 6) (fld w 6 3)) else if fldNat w 0 6 = 2 ∧ fldNat w 9 3 = 0 ∧ fldNat w 23 1 = 0 then .ok (.tlrdStc (fld w 24 4) (fld w 12 6) (fld w 6 3)) else .error (.reservedBits 11 18)
  | 19 => if fldNat w 0 12 = 0 ∧ fldNat w 23 1 = 0 then .ok (.tagw (fld w 24 4) (fld w 12 6)) else .error (.reservedBits 11 19)
  | 20 => if fldNat w 0 12 = 0 ∧ fldNat w 23 1 = 0 then .ok (.tagffC (fld w 24 4) (fld w 12 6)) else if fldNat w 0 12 = 1 ∧ fldNat w 23 1 = 0 then .ok (.tagffS (fld w 24 4) (fld w 12 6)) else .error (.reservedBits 11 20)
  | 21 => if fldNat w 0 6 = 0 ∧ fldNat w 23 1 = 0 then .ok (.cpy (fld w 24 4) (fld w 12 6) (fld w 6 6)) else .error (.reservedBits 11 21)
  | 22 => if fldNat w 0 6 = 0 ∧ fldNat w 23 1 = 0 then .ok (.mvx (fld w 24 4) (fld w 12 6) (fld w 6 6)) else .error (.reservedBits 11 22)
  | 23 => if fldNat w 23 1 = 0 then .ok (.qpush (fld w 24 4) (fld w 12 6) (fld w 6 6) (fld w 0 6)) else .error (.reservedBits 11 23)
  | 24 => if fldNat w 0 6 = 0 ∧ fldNat w 23 1 = 0 then .ok (.qpop (fld w 24 4) (fld w 12 6) (fld w 6 6)) else .error (.reservedBits 11 24)
  | 25 => if fldNat w 0 2 = 0 ∧ fldNat w 23 1 = 0 then .ok (.wopen (fld w 24 4) (fld w 12 6) (fld w 8 4) (fld w 2 6)) else .error (.reservedBits 11 25)
  | 26 => if fldNat w 23 1 = 0 then .ok (.wcommit (fld w 24 4) (fld w 12 6) (fld w 6 6) (fld w 0 6)) else .error (.reservedBits 11 26)
  | 27 => if fldNat w 0 12 = 0 ∧ fldNat w 23 1 = 0 then .ok (.wabortK (fld w 24 4) (fld w 12 6)) else if fldNat w 0 12 = 1 ∧ fldNat w 23 1 = 0 then .ok (.wabortF (fld w 24 4) (fld w 12 6)) else .error (.reservedBits 11 27)
  | 28 => if fldNat w 0 2 = 1 ∧ fldNat w 8 4 = 0 ∧ fldNat w 23 1 = 0 then .ok (.pwatchR (fld w 24 4) (fld w 12 6) (fld w 2 6)) else if fldNat w 0 2 = 2 ∧ fldNat w 8 4 = 0 ∧ fldNat w 23 1 = 0 then .ok (.pwatchQ (fld w 24 4) (fld w 12 6) (fld w 2 6)) else if fldNat w 0 2 = 0 ∧ fldNat w 23 1 = 0 then .ok (.pwatchI (fld w 24 4) (fld w 12 6) (fld w 8 4) (fld w 2 6)) else .error (.reservedBits 11 28)
  | 29 => if fldNat w 0 2 = 0 ∧ fldNat w 8 4 = 0 ∧ fldNat w 23 1 = 0 then .ok (.pdrop (fld w 24 4) (fld w 12 6) (fld w 2 6)) else .error (.reservedBits 11 29)
  | 30 => if fldNat w 23 1 = 0 then .ok (.smpq (fld w 24 4) (fld w 12 6) (fld w 6 6) (fld w 0 6)) else .error (.reservedBits 11 30)
  | 31 => if fldNat w 0 6 = 0 ∧ fldNat w 16 2 = 0 ∧ fldNat w 23 1 = 0 then .ok (.tokrdy (fld w 24 4) (fld w 12 4) (fld w 6 6)) else if fldNat w 12 6 = 16 ∧ fldNat w 23 1 = 0 then .ok (.tokrdyS (fld w 24 4) (fld w 6 6) (fld w 0 6)) else .error (.reservedBits 11 31)
  | op => .error (.reservedOpcode 11 op)

/-- Class C (R46). -/
noncomputable def decodeSequencer (w : BitVec 32) : Except SlotError Instr :=
  match fldNat w 18 5 with
  | 0 => if fldNat w 23 1 = 0 then .ok (.loop (fld w 24 4) (fld w 15 3) (fld w 12 3) (fld w 0 12)) else .error (.reservedBits 12 0)
  | 1 => if fldNat w 23 1 = 0 then .ok (.loopi (fld w 24 4) (fld w 15 3) (fld w 9 6) (fld w 0 9)) else .error (.reservedBits 12 1)
  | 2 => if fldNat w 0 1 = 0 ∧ fldNat w 23 1 = 0 then .ok (.lstr (fld w 24 4) (fld w 15 3) (fld w 13 2) (fld w 7 6) (fld w 1 6)) else .error (.reservedBits 12 2)
  | 3 => if fldNat w 0 15 = 0 ∧ fldNat w 23 1 = 0 then .ok (.lbrk (fld w 24 4) (fld w 15 3)) else .error (.reservedBits 12 3)
  | 4 => if fldNat w 0 4 = 0 ∧ fldNat w 15 3 = 0 ∧ fldNat w 23 1 = 0 then .ok (.lcw (fld w 24 4) (fld w 11 4) (fld w 5 6) (fld w 4 1)) else .error (.reservedBits 12 4)
  | op => .error (.reservedOpcode 12 op)

/-- Class D (R46). -/
noncomputable def decodeSystem (w : BitVec 32) : Except SlotError Instr :=
  match fldNat w 18 5 with
  | 0 => if fldNat w 12 6 = 0 ∧ fldNat w 23 1 = 0 then .ok (.trap (fld w 24 4) (fld w 6 6) (fld w 0 6)) else .error (.reservedBits 13 0)
  | 1 => if fldNat w 0 6 = 0 ∧ fldNat w 23 1 = 0 then .ok (.mfs (fld w 24 4) (fld w 12 6) (fld w 6 6)) else .error (.reservedBits 13 1)
  | 2 => if fldNat w 0 6 = 0 ∧ fldNat w 23 1 = 0 then .ok (.mts (fld w 24 4) (fld w 12 6) (fld w 6 6)) else .error (.reservedBits 13 2)
  | 3 => if fldNat w 12 6 = 0 ∧ fldNat w 23 1 = 0 then .ok (.trace (fld w 24 4) (fld w 6 6) (fld w 0 6)) else .error (.reservedBits 13 3)
  | 4 => if fldNat w 6 12 = 0 ∧ fldNat w 23 1 = 0 then .ok (.brkpt (fld w 24 4) (fld w 0 6)) else .error (.reservedBits 13 4)
  | 5 => if fldNat w 0 12 = 0 ∧ fldNat w 23 1 = 0 then .ok (.idle (fld w 24 4) (fld w 12 6)) else .error (.reservedBits 13 5)
  | 6 => if fldNat w 0 6 = 4 ∧ fldNat w 23 1 = 0 then .ok (.budqCcost (fld w 24 4) (fld w 12 6) (fld w 6 6)) else if fldNat w 6 6 = 0 ∧ fldNat w 23 1 = 0 then .ok (.budq (fld w 24 4) (fld w 12 6) (fld w 0 6)) else .error (.reservedBits 13 6)
  | 7 => if fldNat w 0 12 = 0 ∧ fldNat w 23 1 = 0 then .ok (.jrd (fld w 24 4) (fld w 12 6)) else if fldNat w 0 12 = 1 ∧ fldNat w 23 1 = 0 then .ok (.jrdL (fld w 24 4) (fld w 12 6)) else .error (.reservedBits 13 7)
  | 8 => if fldNat w 0 12 = 0 ∧ fldNat w 23 1 = 0 then .ok (.thack (fld w 24 4) (fld w 12 6)) else .error (.reservedBits 13 8)
  | 9 => if fldNat w 23 1 = 0 then .ok (.wpos (fld w 24 4) (fld w 12 6) (fld w 6 6) (fld w 0 6)) else .error (.reservedBits 13 9)
  | 10 => if fldNat w 0 6 = 0 ∧ fldNat w 23 1 = 0 then .ok (.walloc (fld w 24 4) (fld w 12 6) (fld w 6 6)) else .error (.reservedBits 13 10)
  | 11 => if fldNat w 23 1 = 0 then .ok (.btset (fld w 24 4) (fld w 12 6) (fld w 6 6) (fld w 0 6)) else .error (.reservedBits 13 11)
  | 12 => if fldNat w 2 4 = 0 ∧ fldNat w 23 1 = 0 then .ok (.btrd (fld w 24 4) (fld w 12 6) (fld w 6 6) (fld w 0 2)) else .error (.reservedBits 13 12)
  | 13 => if fldNat w 23 1 = 0 then .ok (.strn (fld w 24 4) (fld w 12 6) (fld w 6 6) (fld w 0 6)) else .error (.reservedBits 13 13)
  | 14 => if fldNat w 23 1 = 0 then .ok (.lexp (fld w 24 4) (fld w 12 6) (fld w 6 6) (fld w 0 6)) else .error (.reservedBits 13 14)
  | 15 => if fldNat w 10 2 = 0 ∧ fldNat w 23 1 = 0 then .ok (.dlbar (fld w 24 4) (fld w 12 6) (fld w 6 4) (fld w 0 6)) else .error (.reservedBits 13 15)
  | op => .error (.reservedOpcode 13 op)

/-- The instruction of a slot word (R31, R46). -/
noncomputable def decodeSlot (w : BitVec 32) : Except SlotError Instr :=
  match fldNat w 28 4 with
  | 0 => decodeControl w
  | 1 => decodeScalar w
  | 2 => decodeFloat w
  | 3 => decodeImmediate w
  | 4 => decodeVec4 w
  | 5 => decodeVec5 w
  | 6 => decodeVec6 w
  | 7 => decodeVec7 w
  | 8 => decodeMatrix w
  | 9 => decodeMatrixAux w
  | 10 => decodeMemory w
  | 11 => decodeUnit w
  | 12 => decodeSequencer w
  | 13 => decodeSystem w
  | 14 => .error .header
  | _ => .error .classF

/-- The instruction a table word stands for: a slot is one 32-bit word (R31), so a number that needs more bits is no
slot word. -/
noncomputable def decodeTableWord (nbits w : Nat) : Option Instr :=
  if nbits ≤ 32 ∧ w < 2 ^ 32 then (decodeSlot (BitVec.ofNat 32 w)).toOption else none

/-- A word from its fixed bits and its fields, each at its lowest bit. -/
def pack (base : Nat) (fields : List (Nat × Nat)) : BitVec 32 :=
  BitVec.ofNat 32 (fields.foldl (fun n f => n + f.1 * 2 ^ f.2) base)

/-- The word of a slot instruction, its fields at their places in the encoding tables; an event or host action has no
word. -/
def encode : Instr → Option (BitVec 32)
  | .bundleIssue _ => none
  | .contextSwitch _ => none
  | .preemptFreeze _ => none
  | .issueQuantumExpiry _ => none
  | .fixedResultLand _ => none
  | .interlockedComplete _ _ _ => none
  | .ifetchFill _ _ => none
  | .contextFree _ _ => none
  | .matrixEntryStart _ => none
  | .matrixEntryEnd _ => none
  | .chainWritebackDone _ => none
  | .slewStepBoundary _ => none
  | .translationWalkComplete _ _ _ => none
  | .xltHandleLand _ _ => none
  | .handleRetranslate _ _ _ => none
  | .lineCacheEvict _ _ => none
  | .sliceStorePerform _ => none
  | .peepholeHeldPlace _ => none
  | .coalesceWindowExpiry _ => none
  | .cluAtomicWriteback _ _ => none
  | .hostStore _ _ _ => none
  | .hostLoad _ _ => none
  | .replicaInvalidateAck _ _ => none
  | .hacqGrant _ => none
  | .fenceComplete _ _ => none
  | .engineOpStart _ _ _ => none
  | .engineOpComplete _ _ _ => none
  | .tlwaitComplete _ _ => none
  | .tagwSatisfied _ _ => none
  | .mwaitbSatisfied _ _ => none
  | .barwRelease _ _ => none
  | .qpopGrant _ => none
  | .dlbarReady _ _ => none
  | .dlbarTimeout _ _ => none
  | .idleExpiry _ _ => none
  | .windowStoreAccept _ _ _ => none
  | .windowCommitPoint _ _ _ => none
  | .windowCloseComplete _ => none
  | .taskQueuePop _ => none
  | .steepBoundary => none
  | .clockReduction _ => none
  | .droopDetect _ => none
  | .stretchEpisodeEnd _ => none
  | .islandPowerGate _ => none
  | .islandUngate _ => none
  | .samplerJobStart _ => none
  | .samplerRestart _ => none
  | .shutterGo _ => none
  | .shutterAck _ _ => none
  | .shutterComplete _ => none
  | .firmwareFaultService => none
  | .faultReportWrite => none
  | .faultDisposition => none
  | .swapOrder _ _ => none
  | .swapExchange _ => none
  | .errorRowTestDone _ _ _ => none
  | .watchdogExpiry _ _ => none
  | .moduleReset => none
  | .linkTrain _ _ => none
  | .fwctlGo => none
  | .fwCheckDone _ => none
  | .fwctlStart => none
  | .pwrlimWrite _ => none
  | .registerWrite _ _ => none
  | .pcreate _ => none
  | .pdestroy _ => none
  | .pstop _ => none
  | .presume _ => none
  | .setcost _ => none
  | .setramp _ => none
  | .qcreate _ => none
  | .qdestroy _ => none
  | .pmap _ => none
  | .fsvc _ => none
  | .pstats _ => none
  | .fsrespWrite _ => none
  | .evtailWrite _ => none
  | .csctlReset _ _ _ => none
  | .csctlWrite _ _ _ => none
  | .cstailWrite _ _ _ => none
  | .csBlockFetch _ _ _ _ => none
  | .csNop _ _ => none
  | .launchCreate _ _ => none
  | .launchPush _ _ => none
  | .launchCancel _ _ => none
  | .launchDestroy _ _ => none
  | .launchReload _ _ => none
  | .write32 _ _ => none
  | .write32Consent _ _ => none
  | .write64 _ _ => none
  | .waitmem _ _ => none
  | .waitmemSatisfied _ _ => none
  | .waitmemTimeout _ _ => none
  | .pred _ _ => none
  | .ibuf _ _ => none
  | .loopp _ _ => none
  | .ffence _ _ => none
  | .signal _ _ => none
  | .haltRequest _ _ => none
  | .haltLand _ _ => none
  | .haltTimeout _ _ => none
  | .resumeRequest _ _ => none
  | .trpopWrite _ => none
  | .d3hotEntry => none
  | .d3hotExit => none
  | .d3cold => none
  | .nop g => some (pack 0 [(g.toNat, 24)])
  | .br g o => some (pack 262144 [(g.toNat, 24), (o.toNat, 0)])
  | .brs g a => some (pack 524288 [(g.toNat, 24), (a.toNat, 12)])
  | .call g o => some (pack 786432 [(g.toNat, 24), (o.toNat, 0)])
  | .ret g => some (pack 1048576 [(g.toNat, 24)])
  | .yield g => some (pack 1310720 [(g.toNat, 24)])
  | .yieldC g => some (pack 1572864 [(g.toNat, 24)])
  | .endTask g => some (pack 1835008 [(g.toNat, 24)])
  | .spawn g a b c => some (pack 2097152 [(g.toNat, 24), (a.toNat, 12), (b.toNat, 6), (c.toNat, 0)])
  | .loop g l s n => some (pack 3221225472 [(g.toNat, 24), (l.toNat, 15), (s.toNat, 12), (n.toNat, 0)])
  | .loopi g l t n => some (pack 3221487616 [(g.toNat, 24), (l.toNat, 15), (t.toNat, 9), (n.toNat, 0)])
  | .lstr g l k a b => some (pack 3221749760 [(g.toNat, 24), (l.toNat, 15), (k.toNat, 13), (a.toNat, 7), (b.toNat, 1)])
  | .lbrk g l => some (pack 3222011904 [(g.toNat, 24), (l.toNat, 15)])
  | .lcw g p i x => some (pack 3222274048 [(g.toNat, 24), (p.toNat, 11), (i.toNat, 5), (x.toNat, 4)])
  | .add g q d a b => some (pack 268435456 [(g.toNat, 24), (q.toNat, 23), (d.toNat, 12), (a.toNat, 6), (b.toNat, 0)])
  | .sub g q d a b => some (pack 268697600 [(g.toNat, 24), (q.toNat, 23), (d.toNat, 12), (a.toNat, 6), (b.toNat, 0)])
  | .mul g q d a b => some (pack 268959744 [(g.toNat, 24), (q.toNat, 23), (d.toNat, 12), (a.toNat, 6), (b.toNat, 0)])
  | .mulh g q d a b => some (pack 269221888 [(g.toNat, 24), (q.toNat, 23), (d.toNat, 12), (a.toNat, 6), (b.toNat, 0)])
  | .mulhn g q d a b => some (pack 269484032 [(g.toNat, 24), (q.toNat, 23), (d.toNat, 12), (a.toNat, 6), (b.toNat, 0)])
  | .div g q d a b => some (pack 269746176 [(g.toNat, 24), (q.toNat, 23), (d.toNat, 12), (a.toNat, 6), (b.toNat, 0)])
  | .divn g q d a b => some (pack 270008320 [(g.toNat, 24), (q.toNat, 23), (d.toNat, 12), (a.toNat, 6), (b.toNat, 0)])
  | .rem g q d a b => some (pack 270270464 [(g.toNat, 24), (q.toNat, 23), (d.toNat, 12), (a.toNat, 6), (b.toNat, 0)])
  | .remn g q d a b => some (pack 270532608 [(g.toNat, 24), (q.toNat, 23), (d.toNat, 12), (a.toNat, 6), (b.toNat, 0)])
  | .and g q d a b => some (pack 270794752 [(g.toNat, 24), (q.toNat, 23), (d.toNat, 12), (a.toNat, 6), (b.toNat, 0)])
  | .or g q d a b => some (pack 271056896 [(g.toNat, 24), (q.toNat, 23), (d.toNat, 12), (a.toNat, 6), (b.toNat, 0)])
  | .xor g q d a b => some (pack 271319040 [(g.toNat, 24), (q.toNat, 23), (d.toNat, 12), (a.toNat, 6), (b.toNat, 0)])
  | .andn g q d a b => some (pack 271581184 [(g.toNat, 24), (q.toNat, 23), (d.toNat, 12), (a.toNat, 6), (b.toNat, 0)])
  | .shl g q d a b => some (pack 271843328 [(g.toNat, 24), (q.toNat, 23), (d.toNat, 12), (a.toNat, 6), (b.toNat, 0)])
  | .shr g q d a b => some (pack 272105472 [(g.toNat, 24), (q.toNat, 23), (d.toNat, 12), (a.toNat, 6), (b.toNat, 0)])
  | .sar g q d a b => some (pack 272367616 [(g.toNat, 24), (q.toNat, 23), (d.toNat, 12), (a.toNat, 6), (b.toNat, 0)])
  | .rol g q d a b => some (pack 272629760 [(g.toNat, 24), (q.toNat, 23), (d.toNat, 12), (a.toNat, 6), (b.toNat, 0)])
  | .min g q d a b => some (pack 272891904 [(g.toNat, 24), (q.toNat, 23), (d.toNat, 12), (a.toNat, 6), (b.toNat, 0)])
  | .max g q d a b => some (pack 273154048 [(g.toNat, 24), (q.toNat, 23), (d.toNat, 12), (a.toNat, 6), (b.toNat, 0)])
  | .minn g q d a b => some (pack 273416192 [(g.toNat, 24), (q.toNat, 23), (d.toNat, 12), (a.toNat, 6), (b.toNat, 0)])
  | .maxn g q d a b => some (pack 273678336 [(g.toNat, 24), (q.toNat, 23), (d.toNat, 12), (a.toNat, 6), (b.toNat, 0)])
  | .shadd1 g q d a b => some (pack 273940480 [(g.toNat, 24), (q.toNat, 23), (d.toNat, 12), (a.toNat, 6), (b.toNat, 0)])
  | .shadd2 g q d a b => some (pack 274202624 [(g.toNat, 24), (q.toNat, 23), (d.toNat, 12), (a.toNat, 6), (b.toNat, 0)])
  | .shadd3 g q d a b => some (pack 274464768 [(g.toNat, 24), (q.toNat, 23), (d.toNat, 12), (a.toNat, 6), (b.toNat, 0)])
  | .cmpeq g q p a b => some (pack 274726912 [(g.toNat, 24), (q.toNat, 23), (p.toNat, 12), (a.toNat, 6), (b.toNat, 0)])
  | .cmpne g q p a b => some (pack 274989056 [(g.toNat, 24), (q.toNat, 23), (p.toNat, 12), (a.toNat, 6), (b.toNat, 0)])
  | .cmplt g q p a b => some (pack 275251200 [(g.toNat, 24), (q.toNat, 23), (p.toNat, 12), (a.toNat, 6), (b.toNat, 0)])
  | .cmple g q p a b => some (pack 275513344 [(g.toNat, 24), (q.toNat, 23), (p.toNat, 12), (a.toNat, 6), (b.toNat, 0)])
  | .cmpltn g q p a b => some (pack 275775488 [(g.toNat, 24), (q.toNat, 23), (p.toNat, 12), (a.toNat, 6), (b.toNat, 0)])
  | .cmplen g q p a b => some (pack 276037632 [(g.toNat, 24), (q.toNat, 23), (p.toNat, 12), (a.toNat, 6), (b.toNat, 0)])
  | .fadd g q d a b => some (pack 536870912 [(g.toNat, 24), (q.toNat, 23), (d.toNat, 12), (a.toNat, 6), (b.toNat, 0)])
  | .fsub g q d a b => some (pack 537133056 [(g.toNat, 24), (q.toNat, 23), (d.toNat, 12), (a.toNat, 6), (b.toNat, 0)])
  | .fmul g q d a b => some (pack 537395200 [(g.toNat, 24), (q.toNat, 23), (d.toNat, 12), (a.toNat, 6), (b.toNat, 0)])
  | .ffma g q d a b => some (pack 537657344 [(g.toNat, 24), (q.toNat, 23), (d.toNat, 12), (a.toNat, 6), (b.toNat, 0)])
  | .fdiv g q d a b => some (pack 537919488 [(g.toNat, 24), (q.toNat, 23), (d.toNat, 12), (a.toNat, 6), (b.toNat, 0)])
  | .fsqrt g q d a => some (pack 538181632 [(g.toNat, 24), (q.toNat, 23), (d.toNat, 12), (a.toNat, 6)])
  | .fmin g q d a b => some (pack 538443776 [(g.toNat, 24), (q.toNat, 23), (d.toNat, 12), (a.toNat, 6), (b.toNat, 0)])
  | .fmax g q d a b => some (pack 538705920 [(g.toNat, 24), (q.toNat, 23), (d.toNat, 12), (a.toNat, 6), (b.toNat, 0)])
  | .fabs g q d a => some (pack 538968064 [(g.toNat, 24), (q.toNat, 23), (d.toNat, 12), (a.toNat, 6)])
  | .fneg g q d a => some (pack 539230208 [(g.toNat, 24), (q.toNat, 23), (d.toNat, 12), (a.toNat, 6)])
  | .fceq g q p a b => some (pack 539492352 [(g.toNat, 24), (q.toNat, 23), (p.toNat, 12), (a.toNat, 6), (b.toNat, 0)])
  | .fclt g q p a b => some (pack 539754496 [(g.toNat, 24), (q.toNat, 23), (p.toNat, 12), (a.toNat, 6), (b.toNat, 0)])
  | .fcle g q p a b => some (pack 540016640 [(g.toNat, 24), (q.toNat, 23), (p.toNat, 12), (a.toNat, 6), (b.toNat, 0)])
  | .fcun g q p a b => some (pack 540278784 [(g.toNat, 24), (q.toNat, 23), (p.toNat, 12), (a.toNat, 6), (b.toNat, 0)])
  | .fcvtif g q d a v => some (pack 540540928 [(g.toNat, 24), (q.toNat, 23), (d.toNat, 12), (a.toNat, 6), (v.toNat, 0)])
  | .fcvtfi g q d a v => some (pack 540803072 [(g.toNat, 24), (q.toNat, 23), (d.toNat, 12), (a.toNat, 6), (v.toNat, 0)])
  | .fexp2 g q d a => some (pack 541065216 [(g.toNat, 24), (q.toNat, 23), (d.toNat, 12), (a.toNat, 6)])
  | .flog2 g q d a => some (pack 541327360 [(g.toNat, 24), (q.toNat, 23), (d.toNat, 12), (a.toNat, 6)])
  | .clz g q d a => some (pack 541589504 [(g.toNat, 24), (q.toNat, 23), (d.toNat, 12), (a.toNat, 6)])
  | .ctz g q d a => some (pack 541851648 [(g.toNat, 24), (q.toNat, 23), (d.toNat, 12), (a.toNat, 6)])
  | .popc g q d a => some (pack 542113792 [(g.toNat, 24), (q.toNat, 23), (d.toNat, 12), (a.toNat, 6)])
  | .sext g q d a n => some (pack 542375936 [(g.toNat, 24), (q.toNat, 23), (d.toNat, 12), (a.toNat, 6), (n.toNat, 0)])
  | .zext g q d a n => some (pack 542638080 [(g.toNat, 24), (q.toNat, 23), (d.toNat, 12), (a.toNat, 6), (n.toNat, 0)])
  | .bfx g q d a b => some (pack 542900224 [(g.toNat, 24), (q.toNat, 23), (d.toNat, 12), (a.toNat, 6), (b.toNat, 0)])
  | .bfxn g q d a b => some (pack 543162368 [(g.toNat, 24), (q.toNat, 23), (d.toNat, 12), (a.toNat, 6), (b.toNat, 0)])
  | .bfi g q d a b => some (pack 543424512 [(g.toNat, 24), (q.toNat, 23), (d.toNat, 12), (a.toNat, 6), (b.toNat, 0)])
  | .mov g q d a => some (pack 543686656 [(g.toNat, 24), (q.toNat, 23), (d.toNat, 12), (a.toNat, 6)])
  | .movp g q p a f b => some (pack 543948800 [(g.toNat, 24), (q.toNat, 23), (p.toNat, 12), (a.toNat, 6), (f.toNat, 4), (b.toNat, 0)])
  | .movtp g q p a => some (pack 544210944 [(g.toNat, 24), (q.toNat, 23), (p.toNat, 12), (a.toNat, 6)])
  | .addi g q d a i => some (pack 805306368 [(g.toNat, 24), (q.toNat, 23), (d.toNat, 12), (a.toNat, 6), (i.toNat, 0)])
  | .muli g q d a i => some (pack 805568512 [(g.toNat, 24), (q.toNat, 23), (d.toNat, 12), (a.toNat, 6), (i.toNat, 0)])
  | .andi g q d a i => some (pack 805830656 [(g.toNat, 24), (q.toNat, 23), (d.toNat, 12), (a.toNat, 6), (i.toNat, 0)])
  | .ori g q d a i => some (pack 806092800 [(g.toNat, 24), (q.toNat, 23), (d.toNat, 12), (a.toNat, 6), (i.toNat, 0)])
  | .xori g q d a i => some (pack 806354944 [(g.toNat, 24), (q.toNat, 23), (d.toNat, 12), (a.toNat, 6), (i.toNat, 0)])
  | .shli g q d a i => some (pack 806617088 [(g.toNat, 24), (q.toNat, 23), (d.toNat, 12), (a.toNat, 6), (i.toNat, 0)])
  | .shri g q d a i => some (pack 806879232 [(g.toNat, 24), (q.toNat, 23), (d.toNat, 12), (a.toNat, 6), (i.toNat, 0)])
  | .sari g q d a i => some (pack 807141376 [(g.toNat, 24), (q.toNat, 23), (d.toNat, 12), (a.toNat, 6), (i.toNat, 0)])
  | .cmpeqi g q p a i => some (pack 807403520 [(g.toNat, 24), (q.toNat, 23), (p.toNat, 12), (a.toNat, 6), (i.toNat, 0)])
  | .cmpnei g q p a i => some (pack 807665664 [(g.toNat, 24), (q.toNat, 23), (p.toNat, 12), (a.toNat, 6), (i.toNat, 0)])
  | .cmplti g q p a i => some (pack 807927808 [(g.toNat, 24), (q.toNat, 23), (p.toNat, 12), (a.toNat, 6), (i.toNat, 0)])
  | .cmpltni g q p a i => some (pack 808189952 [(g.toNat, 24), (q.toNat, 23), (p.toNat, 12), (a.toNat, 6), (i.toNat, 0)])
  | .movi g q d i => some (pack 808452096 [(g.toNat, 24), (q.toNat, 23), (d.toNat, 12), (i.toNat, 0)])
  | .movhi g q d i => some (pack 808714240 [(g.toNat, 24), (q.toNat, 23), (d.toNat, 12), (i.toNat, 0)])
  | .vadd g q t d a b => some (pack 1073741824 [(g.toNat, 24), (q.toNat, 23), (t.toNat, 15), (d.toNat, 10), (a.toNat, 5), (b.toNat, 0)])
  | .vsub g q t d a b => some (pack 1074003968 [(g.toNat, 24), (q.toNat, 23), (t.toNat, 15), (d.toNat, 10), (a.toNat, 5), (b.toNat, 0)])
  | .vmul g q t d a b => some (pack 1074266112 [(g.toNat, 24), (q.toNat, 23), (t.toNat, 15), (d.toNat, 10), (a.toNat, 5), (b.toNat, 0)])
  | .vmulh g q t d a b => some (pack 1074528256 [(g.toNat, 24), (q.toNat, 23), (t.toNat, 15), (d.toNat, 10), (a.toNat, 5), (b.toNat, 0)])
  | .vfma g q t d a b => some (pack 1074790400 [(g.toNat, 24), (q.toNat, 23), (t.toNat, 15), (d.toNat, 10), (a.toNat, 5), (b.toNat, 0)])
  | .vfms g q t d a b => some (pack 1075052544 [(g.toNat, 24), (q.toNat, 23), (t.toNat, 15), (d.toNat, 10), (a.toNat, 5), (b.toNat, 0)])
  | .vmin g q t d a b => some (pack 1075314688 [(g.toNat, 24), (q.toNat, 23), (t.toNat, 15), (d.toNat, 10), (a.toNat, 5), (b.toNat, 0)])
  | .vmax g q t d a b => some (pack 1075576832 [(g.toNat, 24), (q.toNat, 23), (t.toNat, 15), (d.toNat, 10), (a.toNat, 5), (b.toNat, 0)])
  | .vabs g q t d a => some (pack 1075838976 [(g.toNat, 24), (q.toNat, 23), (t.toNat, 15), (d.toNat, 10), (a.toNat, 5)])
  | .vneg g q t d a => some (pack 1076101120 [(g.toNat, 24), (q.toNat, 23), (t.toNat, 15), (d.toNat, 10), (a.toNat, 5)])
  | .vadds g q t d a b => some (pack 1076363264 [(g.toNat, 24), (q.toNat, 23), (t.toNat, 15), (d.toNat, 10), (a.toNat, 5), (b.toNat, 0)])
  | .vsubs g q t d a b => some (pack 1076625408 [(g.toNat, 24), (q.toNat, 23), (t.toNat, 15), (d.toNat, 10), (a.toNat, 5), (b.toNat, 0)])
  | .vavg g q t d a b => some (pack 1076887552 [(g.toNat, 24), (q.toNat, 23), (t.toNat, 15), (d.toNat, 10), (a.toNat, 5), (b.toNat, 0)])
  | .vdot4 g q t d a b => some (pack 1077149696 [(g.toNat, 24), (q.toNat, 23), (t.toNat, 15), (d.toNat, 10), (a.toNat, 5), (b.toNat, 0)])
  | .vmulw g q t d a b => some (pack 1077411840 [(g.toNat, 24), (q.toNat, 23), (t.toNat, 15), (d.toNat, 10), (a.toNat, 5), (b.toNat, 0)])
  | .vclamp g q t d a b => some (pack 1077673984 [(g.toNat, 24), (q.toNat, 23), (t.toNat, 15), (d.toNat, 10), (a.toNat, 5), (b.toNat, 0)])
  | .vand g q t d a b => some (pack 1342177280 [(g.toNat, 24), (q.toNat, 23), (t.toNat, 15), (d.toNat, 10), (a.toNat, 5), (b.toNat, 0)])
  | .vor g q t d a b => some (pack 1342439424 [(g.toNat, 24), (q.toNat, 23), (t.toNat, 15), (d.toNat, 10), (a.toNat, 5), (b.toNat, 0)])
  | .vxor g q t d a b => some (pack 1342701568 [(g.toNat, 24), (q.toNat, 23), (t.toNat, 15), (d.toNat, 10), (a.toNat, 5), (b.toNat, 0)])
  | .vandn g q t d a b => some (pack 1342963712 [(g.toNat, 24), (q.toNat, 23), (t.toNat, 15), (d.toNat, 10), (a.toNat, 5), (b.toNat, 0)])
  | .vnot g q t d a => some (pack 1343225856 [(g.toNat, 24), (q.toNat, 23), (t.toNat, 15), (d.toNat, 10), (a.toNat, 5)])
  | .vshl g q t d a b => some (pack 1343488000 [(g.toNat, 24), (q.toNat, 23), (t.toNat, 15), (d.toNat, 10), (a.toNat, 5), (b.toNat, 0)])
  | .vshr g q t d a b => some (pack 1343750144 [(g.toNat, 24), (q.toNat, 23), (t.toNat, 15), (d.toNat, 10), (a.toNat, 5), (b.toNat, 0)])
  | .vsar g q t d a b => some (pack 1344012288 [(g.toNat, 24), (q.toNat, 23), (t.toNat, 15), (d.toNat, 10), (a.toNat, 5), (b.toNat, 0)])
  | .vceq g q t d a b => some (pack 1344274432 [(g.toNat, 24), (q.toNat, 23), (t.toNat, 15), (d.toNat, 10), (a.toNat, 5), (b.toNat, 0)])
  | .vcne g q t d a b => some (pack 1344536576 [(g.toNat, 24), (q.toNat, 23), (t.toNat, 15), (d.toNat, 10), (a.toNat, 5), (b.toNat, 0)])
  | .vclt g q t d a b => some (pack 1344798720 [(g.toNat, 24), (q.toNat, 23), (t.toNat, 15), (d.toNat, 10), (a.toNat, 5), (b.toNat, 0)])
  | .vcle g q t d a b => some (pack 1345060864 [(g.toNat, 24), (q.toNat, 23), (t.toNat, 15), (d.toNat, 10), (a.toNat, 5), (b.toNat, 0)])
  | .vclass g q t d a m => some (pack 1345323008 [(g.toNat, 24), (q.toNat, 23), (t.toNat, 15), (d.toNat, 10), (a.toNat, 5), (m.toNat, 0)])
  | .vsel g q s d a b => some (pack 1345585152 [(g.toNat, 24), (q.toNat, 23), (s.toNat, 15), (d.toNat, 10), (a.toNat, 5), (b.toNat, 0)])
  | .vmov g q t d a => some (pack 1345847296 [(g.toNat, 24), (q.toNat, 23), (t.toNat, 15), (d.toNat, 10), (a.toNat, 5)])
  | .vbc g q t d a => some (pack 1346109440 [(g.toNat, 24), (q.toNat, 23), (t.toNat, 15), (d.toNat, 10), (a.toNat, 5)])
  | .vmovs g q t d a n => some (pack 1346371584 [(g.toNat, 24), (q.toNat, 23), (t.toNat, 15), (d.toNat, 10), (a.toNat, 5), (n.toNat, 0)])
  | .vins g q t d a n => some (pack 1346633728 [(g.toNat, 24), (q.toNat, 23), (t.toNat, 15), (d.toNat, 10), (a.toNat, 5), (n.toNat, 0)])
  | .viota g q t d a => some (pack 1346895872 [(g.toNat, 24), (q.toNat, 23), (t.toNat, 15), (d.toNat, 10), (a.toNat, 5)])
  | .qand g q t d a b => some (pack 1347158016 [(g.toNat, 24), (q.toNat, 23), (t.toNat, 15), (d.toNat, 10), (a.toNat, 5), (b.toNat, 0)])
  | .qor g q t d a b => some (pack 1347420160 [(g.toNat, 24), (q.toNat, 23), (t.toNat, 15), (d.toNat, 10), (a.toNat, 5), (b.toNat, 0)])
  | .qxor g q t d a b => some (pack 1347682304 [(g.toNat, 24), (q.toNat, 23), (t.toNat, 15), (d.toNat, 10), (a.toNat, 5), (b.toNat, 0)])
  | .qmov g q t d a => some (pack 1347944448 [(g.toNat, 24), (q.toNat, 23), (t.toNat, 15), (d.toNat, 10), (a.toNat, 5)])
  | .vcvt g q t d a s => some (pack 1610612736 [(g.toNat, 24), (q.toNat, 23), (t.toNat, 15), (d.toNat, 10), (a.toNat, 5), (s.toNat, 0)])
  | .vcvtw g q t d a s => some (pack 1610874880 [(g.toNat, 24), (q.toNat, 23), (t.toNat, 15), (d.toNat, 10), (a.toNat, 5), (s.toNat, 0)])
  | .vcvtn g q t d a s => some (pack 1611137024 [(g.toNat, 24), (q.toNat, 23), (t.toNat, 15), (d.toNat, 10), (a.toNat, 5), (s.toNat, 0)])
  | .vcvtns g q t d a s => some (pack 1611399168 [(g.toNat, 24), (q.toNat, 23), (t.toNat, 15), (d.toNat, 10), (a.toNat, 5), (s.toNat, 0)])
  | .vpack g q t d a b => some (pack 1611661312 [(g.toNat, 24), (q.toNat, 23), (t.toNat, 15), (d.toNat, 10), (a.toNat, 5), (b.toNat, 0)])
  | .vunpk g q t d a h => some (pack 1611923456 [(g.toNat, 24), (q.toNat, 23), (t.toNat, 15), (d.toNat, 10), (a.toNat, 5), (h.toNat, 0)])
  | .vperm g q t d a b => some (pack 1612185600 [(g.toNat, 24), (q.toNat, 23), (t.toNat, 15), (d.toNat, 10), (a.toNat, 5), (b.toNat, 0)])
  | .vrot g q t d a n => some (pack 1612447744 [(g.toNat, 24), (q.toNat, 23), (t.toNat, 15), (d.toNat, 10), (a.toNat, 5), (n.toNat, 0)])
  | .vsld g q t d a b => some (pack 1612709888 [(g.toNat, 24), (q.toNat, 23), (t.toNat, 15), (d.toNat, 10), (a.toNat, 5), (b.toNat, 0)])
  | .vtrn g q t d a b => some (pack 1612972032 [(g.toNat, 24), (q.toNat, 23), (t.toNat, 15), (d.toNat, 10), (a.toNat, 5), (b.toNat, 0)])
  | .vcmpr g q t d m s => some (pack 1613234176 [(g.toNat, 24), (q.toNat, 23), (t.toNat, 15), (d.toNat, 10), (m.toNat, 5), (s.toNat, 0)])
  | .vexpd g q t d a m => some (pack 1613496320 [(g.toNat, 24), (q.toNat, 23), (t.toNat, 15), (d.toNat, 10), (a.toNat, 5), (m.toNat, 0)])
  | .vradd g q t d a => some (pack 1613758464 [(g.toNat, 24), (q.toNat, 23), (t.toNat, 15), (d.toNat, 10), (a.toNat, 5)])
  | .vrmax g q t d a => some (pack 1614020608 [(g.toNat, 24), (q.toNat, 23), (t.toNat, 15), (d.toNat, 10), (a.toNat, 5)])
  | .vrmin g q t d a => some (pack 1614282752 [(g.toNat, 24), (q.toNat, 23), (t.toNat, 15), (d.toNat, 10), (a.toNat, 5)])
  | .vramax g q t d a => some (pack 1614544896 [(g.toNat, 24), (q.toNat, 23), (t.toNat, 15), (d.toNat, 10), (a.toNat, 5)])
  | .vscan g q t d a => some (pack 1614807040 [(g.toNat, 24), (q.toNat, 23), (t.toNat, 15), (d.toNat, 10), (a.toNat, 5)])
  | .vrcnt g q t d qa => some (pack 1615069184 [(g.toNat, 24), (q.toNat, 23), (t.toNat, 15), (d.toNat, 10), (qa.toNat, 5)])
  | .vcw g q t a => some (pack 1615331328 [(g.toNat, 24), (q.toNat, 23), (t.toNat, 15), (a.toNat, 5)])
  | .vexp2 g q t d a => some (pack 1879048192 [(g.toNat, 24), (q.toNat, 23), (t.toNat, 15), (d.toNat, 10), (a.toNat, 5)])
  | .vlog2 g q t d a => some (pack 1879310336 [(g.toNat, 24), (q.toNat, 23), (t.toNat, 15), (d.toNat, 10), (a.toNat, 5)])
  | .vrcp g q t d a => some (pack 1879572480 [(g.toNat, 24), (q.toNat, 23), (t.toNat, 15), (d.toNat, 10), (a.toNat, 5)])
  | .vrsq g q t d a => some (pack 1879834624 [(g.toNat, 24), (q.toNat, 23), (t.toNat, 15), (d.toNat, 10), (a.toNat, 5)])
  | .vsqrt g q t d a => some (pack 1880096768 [(g.toNat, 24), (q.toNat, 23), (t.toNat, 15), (d.toNat, 10), (a.toNat, 5)])
  | .vtanh g q t d a => some (pack 1880358912 [(g.toNat, 24), (q.toNat, 23), (t.toNat, 15), (d.toNat, 10), (a.toNat, 5)])
  | .vsigm g q t d a => some (pack 1880621056 [(g.toNat, 24), (q.toNat, 23), (t.toNat, 15), (d.toNat, 10), (a.toNat, 5)])
  | .vsin g q t d a => some (pack 1880883200 [(g.toNat, 24), (q.toNat, 23), (t.toNat, 15), (d.toNat, 10), (a.toNat, 5)])
  | .vcos g q t d a => some (pack 1881145344 [(g.toNat, 24), (q.toNat, 23), (t.toNat, 15), (d.toNat, 10), (a.toNat, 5)])
  | .vrng g q t d a b => some (pack 1881407488 [(g.toNat, 24), (q.toNat, 23), (t.toNat, 15), (d.toNat, 10), (a.toNat, 5), (b.toNat, 0)])
  | .vtopk g q t d a k => some (pack 1881669632 [(g.toNat, 24), (q.toNat, 23), (t.toNat, 15), (d.toNat, 10), (a.toNat, 5), (k.toNat, 0)])
  | .vscale g q t d a j => some (pack 1881931776 [(g.toNat, 24), (q.toNat, 23), (t.toNat, 15), (d.toNat, 10), (a.toNat, 5), (j.toNat, 0)])
  | .vqnt g q t d a j => some (pack 1882193920 [(g.toNat, 24), (q.toNat, 23), (t.toNat, 15), (d.toNat, 10), (a.toNat, 5), (j.toNat, 0)])
  | .vdq g q t d a j => some (pack 1882456064 [(g.toNat, 24), (q.toNat, 23), (t.toNat, 15), (d.toNat, 10), (a.toNat, 5), (j.toNat, 0)])
  | .vlut g q t d a b => some (pack 1882718208 [(g.toNat, 24), (q.toNat, 23), (t.toNat, 15), (d.toNat, 10), (a.toNat, 5), (b.toNat, 0)])
  | .mma g t a b => some (pack 2147483648 [(g.toNat, 24), (t.toNat, 12), (a.toNat, 6), (b.toNat, 0)])
  | .mmaz g t a b => some (pack 2148532224 [(g.toNat, 24), (t.toNat, 12), (a.toNat, 6), (b.toNat, 0)])
  | .mman g t a b => some (pack 2149580800 [(g.toNat, 24), (t.toNat, 12), (a.toNat, 6), (b.toNat, 0)])
  | .mlda g t a => some (pack 2150629376 [(g.toNat, 24), (t.toNat, 12), (a.toNat, 6)])
  | .msta g t a => some (pack 2151677952 [(g.toNat, 24), (t.toNat, 12), (a.toNat, 6)])
  | .mdrn g t p => some (pack 2152726528 [(g.toNat, 24), (t.toNat, 12), (p.toNat, 6)])
  | .mzero g t => some (pack 2153775104 [(g.toNat, 24), (t.toNat, 12)])
  | .mcommit g => some (pack 2154823680 [(g.toNat, 24)])
  | .mwaitb g n => some (pack 2415919104 [(g.toNat, 24), (n.toNat, 0)])
  | .mwaitbId g a => some (pack 2416050176 [(g.toNat, 24), (a.toNat, 11)])
  | .mwm g d t c => some (pack 2416181248 [(g.toNat, 24), (d.toNat, 12), (t.toNat, 4), (c.toNat, 0)])
  | .banklendM g a => some (pack 2416443392 [(g.toNat, 24), (a.toNat, 12)])
  | .banklendV g a => some (pack 2416443393 [(g.toNat, 24), (a.toNat, 12)])
  | .banklendRel g a => some (pack 2416443394 [(g.toNat, 24), (a.toNat, 12)])
  | .banklendAcq g a => some (pack 2416443395 [(g.toNat, 24), (a.toNat, 12)])
  | .scld g k a => some (pack 2416705536 [(g.toNat, 24), (k.toNat, 15), (a.toNat, 9)])
  | .mcfg g f => some (pack 2416967680 [(g.toNat, 24), (f.toNat, 13)])
  | .medge g a => some (pack 2417229824 [(g.toNat, 24), (a.toNat, 12)])
  | .ldgB g q d h x m => some (pack 2684354560 [(g.toNat, 24), (q.toNat, 23), (d.toNat, 12), (h.toNat, 8), (x.toNat, 2), (m.toNat, 0)])
  | .ldgBn g q d h x m => some (pack 2684616704 [(g.toNat, 24), (q.toNat, 23), (d.toNat, 12), (h.toNat, 8), (x.toNat, 2), (m.toNat, 0)])
  | .ldgH g q d h x m => some (pack 2684878848 [(g.toNat, 24), (q.toNat, 23), (d.toNat, 12), (h.toNat, 8), (x.toNat, 2), (m.toNat, 0)])
  | .ldgHn g q d h x m => some (pack 2685140992 [(g.toNat, 24), (q.toNat, 23), (d.toNat, 12), (h.toNat, 8), (x.toNat, 2), (m.toNat, 0)])
  | .ldgW g q d h x m => some (pack 2685403136 [(g.toNat, 24), (q.toNat, 23), (d.toNat, 12), (h.toNat, 8), (x.toNat, 2), (m.toNat, 0)])
  | .ldgWn g q d h x m => some (pack 2685665280 [(g.toNat, 24), (q.toNat, 23), (d.toNat, 12), (h.toNat, 8), (x.toNat, 2), (m.toNat, 0)])
  | .ldgD g q d h x m => some (pack 2685927424 [(g.toNat, 24), (q.toNat, 23), (d.toNat, 12), (h.toNat, 8), (x.toNat, 2), (m.toNat, 0)])
  | .stgB g d h x m => some (pack 2686189568 [(g.toNat, 24), (d.toNat, 12), (h.toNat, 8), (x.toNat, 2), (m.toNat, 0)])
  | .stgH g d h x m => some (pack 2686451712 [(g.toNat, 24), (d.toNat, 12), (h.toNat, 8), (x.toNat, 2), (m.toNat, 0)])
  | .stgW g d h x m => some (pack 2686713856 [(g.toNat, 24), (d.toNat, 12), (h.toNat, 8), (x.toNat, 2), (m.toNat, 0)])
  | .stgD g d h x m => some (pack 2686976000 [(g.toNat, 24), (d.toNat, 12), (h.toNat, 8), (x.toNat, 2), (m.toNat, 0)])
  | .vldg g q d h x m => some (pack 2687238144 [(g.toNat, 24), (q.toNat, 23), (d.toNat, 12), (h.toNat, 8), (x.toNat, 2), (m.toNat, 0)])
  | .vstg g d h x m => some (pack 2687500288 [(g.toNat, 24), (d.toNat, 12), (h.toNat, 8), (x.toNat, 2), (m.toNat, 0)])
  | .ldS g q d o x m => some (pack 2687762432 [(g.toNat, 24), (q.toNat, 23), (d.toNat, 12), (o.toNat, 8), (x.toNat, 2), (m.toNat, 0)])
  | .stS g d o x m => some (pack 2688024576 [(g.toNat, 24), (d.toNat, 12), (o.toNat, 8), (x.toNat, 2), (m.toNat, 0)])
  | .vldS g q d o x m => some (pack 2688286720 [(g.toNat, 24), (q.toNat, 23), (d.toNat, 12), (o.toNat, 8), (x.toNat, 2), (m.toNat, 0)])
  | .vstS g d o x m => some (pack 2688548864 [(g.toNat, 24), (d.toNat, 12), (o.toNat, 8), (x.toNat, 2), (m.toNat, 0)])
  | .vldC g q d o x m => some (pack 2688811008 [(g.toNat, 24), (q.toNat, 23), (d.toNat, 12), (o.toNat, 8), (x.toNat, 2), (m.toNat, 0)])
  | .vstC g d o x m => some (pack 2689073152 [(g.toNat, 24), (d.toNat, 12), (o.toNat, 8), (x.toNat, 2), (m.toNat, 0)])
  | .vldX g q d o x m => some (pack 2689335296 [(g.toNat, 24), (q.toNat, 23), (d.toNat, 12), (o.toNat, 8), (x.toNat, 2), (m.toNat, 0)])
  | .vstX g d o x m => some (pack 2689597440 [(g.toNat, 24), (d.toNat, 12), (o.toNat, 8), (x.toNat, 2), (m.toNat, 0)])
  | .vldL g q d o x m => some (pack 2689859584 [(g.toNat, 24), (q.toNat, 23), (d.toNat, 12), (o.toNat, 8), (x.toNat, 2), (m.toNat, 0)])
  | .vstL g d o x m => some (pack 2690121728 [(g.toNat, 24), (d.toNat, 12), (o.toNat, 8), (x.toNat, 2), (m.toNat, 0)])
  | .vgthS g q d i x e => some (pack 2690383872 [(g.toNat, 24), (q.toNat, 23), (d.toNat, 12), (i.toNat, 8), (x.toNat, 2), (e.toNat, 0)])
  | .vsctS g d i x e => some (pack 2690646016 [(g.toNat, 24), (d.toNat, 12), (i.toNat, 8), (x.toNat, 2), (e.toNat, 0)])
  | .vgthL g q d i x e => some (pack 2690908160 [(g.toNat, 24), (q.toNat, 23), (d.toNat, 12), (i.toNat, 8), (x.toNat, 2), (e.toNat, 0)])
  | .vsctL g d i x e => some (pack 2691170304 [(g.toNat, 24), (d.toNat, 12), (i.toNat, 8), (x.toNat, 2), (e.toNat, 0)])
  | .plst g v c x => some (pack 2691432448 [(g.toNat, 24), (v.toNat, 12), (c.toNat, 8), (x.toNat, 2)])
  | .vldb g q d o x m => some (pack 2691694592 [(g.toNat, 24), (q.toNat, 23), (d.toNat, 12), (o.toNat, 8), (x.toNat, 2), (m.toNat, 0)])
  | .vstb g d o x m => some (pack 2691956736 [(g.toNat, 24), (d.toNat, 12), (o.toNat, 8), (x.toNat, 2), (m.toNat, 0)])
  | .xlt g w h x => some (pack 2692218880 [(g.toNat, 24), (w.toNat, 16), (h.toNat, 12), (x.toNat, 2)])
  | .hdrop g h => some (pack 2692481024 [(g.toNat, 24), (h.toNat, 12)])
  | .aadd g d h x s => some (pack 2952790016 [(g.toNat, 24), (d.toNat, 12), (h.toNat, 8), (x.toNat, 2), (s.toNat, 0)])
  | .aand g d h x s => some (pack 2953052160 [(g.toNat, 24), (d.toNat, 12), (h.toNat, 8), (x.toNat, 2), (s.toNat, 0)])
  | .aor g d h x s => some (pack 2953314304 [(g.toNat, 24), (d.toNat, 12), (h.toNat, 8), (x.toNat, 2), (s.toNat, 0)])
  | .axor g d h x s => some (pack 2953576448 [(g.toNat, 24), (d.toNat, 12), (h.toNat, 8), (x.toNat, 2), (s.toNat, 0)])
  | .amin g d h x s => some (pack 2953838592 [(g.toNat, 24), (d.toNat, 12), (h.toNat, 8), (x.toNat, 2), (s.toNat, 0)])
  | .amax g d h x s => some (pack 2954100736 [(g.toNat, 24), (d.toNat, 12), (h.toNat, 8), (x.toNat, 2), (s.toNat, 0)])
  | .aminn g d h x s => some (pack 2954362880 [(g.toNat, 24), (d.toNat, 12), (h.toNat, 8), (x.toNat, 2), (s.toNat, 0)])
  | .amaxn g d h x s => some (pack 2954625024 [(g.toNat, 24), (d.toNat, 12), (h.toNat, 8), (x.toNat, 2), (s.toNat, 0)])
  | .aswp g d h x s => some (pack 2954887168 [(g.toNat, 24), (d.toNat, 12), (h.toNat, 8), (x.toNat, 2), (s.toNat, 0)])
  | .acas g d h x s => some (pack 2955149312 [(g.toNat, 24), (d.toNat, 12), (h.toNat, 8), (x.toNat, 2), (s.toNat, 0)])
  | .afadd g d h x s => some (pack 2955411456 [(g.toNat, 24), (d.toNat, 12), (h.toNat, 8), (x.toNat, 2), (s.toNat, 0)])
  | .hbind g h x d => some (pack 2955673600 [(g.toNat, 24), (h.toNat, 12), (x.toNat, 6), (d.toNat, 0)])
  | .hacqX g h x d => some (pack 2955935744 [(g.toNat, 24), (h.toNat, 12), (x.toNat, 6), (d.toNat, 0)])
  | .hacqS g h x d => some (pack 2956001280 [(g.toNat, 24), (h.toNat, 12), (x.toNat, 6), (d.toNat, 0)])
  | .hrel g h x d => some (pack 2956197888 [(g.toNat, 24), (h.toNat, 12), (x.toNat, 6), (d.toNat, 0)])
  | .fenceRel g s => some (pack 2956460032 [(g.toNat, 24), (s.toNat, 0)])
  | .fenceAcq g s => some (pack 2956460036 [(g.toNat, 24), (s.toNat, 0)])
  | .fenceAr g s => some (pack 2956460040 [(g.toNat, 24), (s.toNat, 0)])
  | .bara g d a => some (pack 2956722176 [(g.toNat, 24), (d.toNat, 12), (a.toNat, 6)])
  | .barw g a b => some (pack 2956984320 [(g.toNat, 24), (a.toNat, 12), (b.toNat, 6)])
  | .tlwait g e b => some (pack 2957246464 [(g.toNat, 24), (e.toNat, 12), (b.toNat, 6)])
  | .tlrd g d e => some (pack 2957508608 [(g.toNat, 24), (d.toNat, 12), (e.toNat, 6)])
  | .tlrdSt g d e => some (pack 2957508609 [(g.toNat, 24), (d.toNat, 12), (e.toNat, 6)])
  | .tlrdStc g d e => some (pack 2957508610 [(g.toNat, 24), (d.toNat, 12), (e.toNat, 6)])
  | .tagw g a => some (pack 2957770752 [(g.toNat, 24), (a.toNat, 12)])
  | .tagffC g a => some (pack 2958032896 [(g.toNat, 24), (a.toNat, 12)])
  | .tagffS g a => some (pack 2958032897 [(g.toNat, 24), (a.toNat, 12)])
  | .cpy g d a => some (pack 2958295040 [(g.toNat, 24), (d.toNat, 12), (a.toNat, 6)])
  | .mvx g d a => some (pack 2958557184 [(g.toNat, 24), (d.toNat, 12), (a.toNat, 6)])
  | .qpush g d a b => some (pack 2958819328 [(g.toNat, 24), (d.toNat, 12), (a.toNat, 6), (b.toNat, 0)])
  | .qpop g d a => some (pack 2959081472 [(g.toNat, 24), (d.toNat, 12), (a.toNat, 6)])
  | .wopen g d h x => some (pack 2959343616 [(g.toNat, 24), (d.toNat, 12), (h.toNat, 8), (x.toNat, 2)])
  | .wcommit g d a b => some (pack 2959605760 [(g.toNat, 24), (d.toNat, 12), (a.toNat, 6), (b.toNat, 0)])
  | .wabortK g a => some (pack 2959867904 [(g.toNat, 24), (a.toNat, 12)])
  | .wabortF g a => some (pack 2959867905 [(g.toNat, 24), (a.toNat, 12)])
  | .pwatchI g d h x => some (pack 2960130048 [(g.toNat, 24), (d.toNat, 12), (h.toNat, 8), (x.toNat, 2)])
  | .pwatchR g d x => some (pack 2960130049 [(g.toNat, 24), (d.toNat, 12), (x.toNat, 2)])
  | .pwatchQ g d x => some (pack 2960130050 [(g.toNat, 24), (d.toNat, 12), (x.toNat, 2)])
  | .pdrop g d x => some (pack 2960392192 [(g.toNat, 24), (d.toNat, 12), (x.toNat, 2)])
  | .smpq g d a b => some (pack 2960654336 [(g.toNat, 24), (d.toNat, 12), (a.toNat, 6), (b.toNat, 0)])
  | .tokrdy g p a => some (pack 2960916480 [(g.toNat, 24), (p.toNat, 12), (a.toNat, 6)])
  | .tokrdyS g a b => some (pack 2960982016 [(g.toNat, 24), (a.toNat, 6), (b.toNat, 0)])
  | .trap g a n => some (pack 3489660928 [(g.toNat, 24), (a.toNat, 6), (n.toNat, 0)])
  | .mfs g d r => some (pack 3489923072 [(g.toNat, 24), (d.toNat, 12), (r.toNat, 6)])
  | .mts g r a => some (pack 3490185216 [(g.toNat, 24), (r.toNat, 12), (a.toNat, 6)])
  | .trace g a n => some (pack 3490447360 [(g.toNat, 24), (a.toNat, 6), (n.toNat, 0)])
  | .brkpt g n => some (pack 3490709504 [(g.toNat, 24), (n.toNat, 0)])
  | .idle g a => some (pack 3490971648 [(g.toNat, 24), (a.toNat, 12)])
  | .budq g d i => some (pack 3491233792 [(g.toNat, 24), (d.toNat, 12), (i.toNat, 0)])
  | .budqCcost g d b => some (pack 3491233796 [(g.toNat, 24), (d.toNat, 12), (b.toNat, 6)])
  | .jrd g d => some (pack 3491495936 [(g.toNat, 24), (d.toNat, 12)])
  | .jrdL g d => some (pack 3491495937 [(g.toNat, 24), (d.toNat, 12)])
  | .thack g d => some (pack 3491758080 [(g.toNat, 24), (d.toNat, 12)])
  | .wpos g a b c => some (pack 3492020224 [(g.toNat, 24), (a.toNat, 12), (b.toNat, 6), (c.toNat, 0)])
  | .walloc g d a => some (pack 3492282368 [(g.toNat, 24), (d.toNat, 12), (a.toNat, 6)])
  | .btset g d a b => some (pack 3492544512 [(g.toNat, 24), (d.toNat, 12), (a.toNat, 6), (b.toNat, 0)])
  | .btrd g d a w => some (pack 3492806656 [(g.toNat, 24), (d.toNat, 12), (a.toNat, 6), (w.toNat, 0)])
  | .strn g d a b => some (pack 3493068800 [(g.toNat, 24), (d.toNat, 12), (a.toNat, 6), (b.toNat, 0)])
  | .lexp g d a b => some (pack 3493330944 [(g.toNat, 24), (d.toNat, 12), (a.toNat, 6), (b.toNat, 0)])
  | .dlbar g p h b => some (pack 3493593088 [(g.toNat, 24), (p.toNat, 12), (h.toNat, 6), (b.toNat, 0)])
  | .linkError _ => none

end Sys2Proof
end

