-- ==== Sys2Proof/Machine/Slots.lean ====
section
/-! DEFINITION. What each slot instruction is to a bundle, and the operation of a slot word. The second half is the same
table over words, for running the model: it is proved equal to decoding first. -/

namespace Sys2Proof.Machine

/-- The operation of a slot instruction; an event is none. -/
def slotInfo : Instr → Option Op
  | .bundleIssue _ => none
  | .contextSwitch _ => none
  | .preemptFreeze _ => none
  | .issueQuantumExpiry _ => none
  | .fixedResultLand _ => none
  | .interlockedComplete _ _ _ => none
  | .ifetchFill _ _ => none
  | .contextFree _ _ => none
  | .matrixEntryStart _ => none
  | .matrixEntryEnd _ => none
  | .chainWritebackDone _ => none
  | .slewStepBoundary _ => none
  | .translationWalkComplete _ _ _ => none
  | .xltHandleLand _ _ => none
  | .handleRetranslate _ _ _ => none
  | .lineCacheEvict _ _ => none
  | .sliceStorePerform _ => none
  | .peepholeHeldPlace _ => none
  | .coalesceWindowExpiry _ => none
  | .cluAtomicWriteback _ _ => none
  | .hostStore _ _ _ => none
  | .hostLoad _ _ => none
  | .replicaInvalidateAck _ _ => none
  | .hacqGrant _ => none
  | .fenceComplete _ _ => none
  | .engineOpStart _ _ _ => none
  | .engineOpComplete _ _ _ => none
  | .tlwaitComplete _ _ => none
  | .tagwSatisfied _ _ => none
  | .mwaitbSatisfied _ _ => none
  | .barwRelease _ _ => none
  | .qpopGrant _ => none
  | .dlbarReady _ _ => none
  | .dlbarTimeout _ _ => none
  | .idleExpiry _ _ => none
  | .windowStoreAccept _ _ _ => none
  | .windowCommitPoint _ _ _ => none
  | .windowCloseComplete _ => none
  | .taskQueuePop _ => none
  | .steepBoundary => none
  | .clockReduction _ => none
  | .droopDetect _ => none
  | .stretchEpisodeEnd _ => none
  | .islandPowerGate _ => none
  | .islandUngate _ => none
  | .samplerJobStart _ => none
  | .samplerRestart _ => none
  | .shutterGo _ => none
  | .shutterAck _ _ => none
  | .shutterComplete _ => none
  | .firmwareFaultService => none
  | .faultReportWrite => none
  | .faultDisposition => none
  | .swapOrder _ _ => none
  | .swapExchange _ => none
  | .errorRowTestDone _ _ _ => none
  | .watchdogExpiry _ _ => none
  | .moduleReset => none
  | .linkTrain _ _ => none
  | .fwctlGo => none
  | .fwCheckDone _ => none
  | .fwctlStart => none
  | .pwrlimWrite _ => none
  | .registerWrite _ _ => none
  | .pcreate _ => none
  | .pdestroy _ => none
  | .pstop _ => none
  | .presume _ => none
  | .setcost _ => none
  | .setramp _ => none
  | .qcreate _ => none
  | .qdestroy _ => none
  | .pmap _ => none
  | .fsvc _ => none
  | .pstats _ => none
  | .fsrespWrite _ => none
  | .evtailWrite _ => none
  | .csctlReset _ _ _ => none
  | .csctlWrite _ _ _ => none
  | .cstailWrite _ _ _ => none
  | .csBlockFetch _ _ _ _ => none
  | .csNop _ _ => none
  | .launchCreate _ _ => none
  | .launchPush _ _ => none
  | .launchCancel _ _ => none
  | .launchDestroy _ _ => none
  | .launchReload _ _ => none
  | .write32 _ _ => none
  | .write32Consent _ _ => none
  | .write64 _ _ => none
  | .waitmem _ _ => none
  | .waitmemSatisfied _ _ => none
  | .waitmemTimeout _ _ => none
  | .pred _ _ => none
  | .ibuf _ _ => none
  | .loopp _ _ => none
  | .ffence _ _ => none
  | .signal _ _ => none
  | .haltRequest _ _ => none
  | .haltLand _ _ => none
  | .haltTimeout _ _ => none
  | .resumeRequest _ _ => none
  | .trpopWrite _ => none
  | .d3hotEntry => none
  | .d3hotExit => none
  | .d3cold => none
  | .linkError _ => none
  | .nop g => some (opNop g)
  | .br g o => some (opBr g o)
  | .brs g a => some (opBrs g a)
  | .call g o => some (opCall g o)
  | .ret g => some (opRet g)
  | .yield g => some (opYield g)
  | .yieldC g => some (opYieldC g)
  | .endTask g => some (opEndTask g)
  | .spawn g a b c => some (opSpawn g a b c)
  | .loop g l s n => some (opLoop g l s n)
  | .loopi g l t n => some (opLoopi g l t n)
  | .lstr g l k a b => some (opLstr g l k a b)
  | .lbrk g l => some (opLbrk g l)
  | .lcw g p i x => some (opLcw g p i x)
  | .add g q d a b => some (opAdd g q d a b)
  | .sub g q d a b => some (opSub g q d a b)
  | .mul g q d a b => some (opMul g q d a b)
  | .mulh g q d a b => some (opMulh g q d a b)
  | .mulhn g q d a b => some (opMulhn g q d a b)
  | .div g q d a b => some (opDiv g q d a b)
  | .divn g q d a b => some (opDivn g q d a b)
  | .rem g q d a b => some (opRem g q d a b)
  | .remn g q d a b => some (opRemn g q d a b)
  | .and g q d a b => some (opAnd g q d a b)
  | .or g q d a b => some (opOr g q d a b)
  | .xor g q d a b => some (opXor g q d a b)
  | .andn g q d a b => some (opAndn g q d a b)
  | .shl g q d a b => some (opShl g q d a b)
  | .shr g q d a b => some (opShr g q d a b)
  | .sar g q d a b => some (opSar g q d a b)
  | .rol g q d a b => some (opRol g q d a b)
  | .min g q d a b => some (opMin g q d a b)
  | .max g q d a b => some (opMax g q d a b)
  | .minn g q d a b => some (opMinn g q d a b)
  | .maxn g q d a b => some (opMaxn g q d a b)
  | .shadd1 g q d a b => some (opShadd1 g q d a b)
  | .shadd2 g q d a b => some (opShadd2 g q d a b)
  | .shadd3 g q d a b => some (opShadd3 g q d a b)
  | .cmpeq g q p a b => some (opCmpeq g q p a b)
  | .cmpne g q p a b => some (opCmpne g q p a b)
  | .cmplt g q p a b => some (opCmplt g q p a b)
  | .cmple g q p a b => some (opCmple g q p a b)
  | .cmpltn g q p a b => some (opCmpltn g q p a b)
  | .cmplen g q p a b => some (opCmplen g q p a b)
  | .fadd g q d a b => some (opFadd g q d a b)
  | .fsub g q d a b => some (opFsub g q d a b)
  | .fmul g q d a b => some (opFmul g q d a b)
  | .ffma g q d a b => some (opFfma g q d a b)
  | .fdiv g q d a b => some (opFdiv g q d a b)
  | .fsqrt g q d a => some (opFsqrt g q d a)
  | .fmin g q d a b => some (opFmin g q d a b)
  | .fmax g q d a b => some (opFmax g q d a b)
  | .fabs g q d a => some (opFabs g q d a)
  | .fneg g q d a => some (opFneg g q d a)
  | .fceq g q p a b => some (opFceq g q p a b)
  | .fclt g q p a b => some (opFclt g q p a b)
  | .fcle g q p a b => some (opFcle g q p a b)
  | .fcun g q p a b => some (opFcun g q p a b)
  | .fcvtif g q d a v => some (opFcvtif g q d a v)
  | .fcvtfi g q d a v => some (opFcvtfi g q d a v)
  | .fexp2 g q d a => some (opFexp2 g q d a)
  | .flog2 g q d a => some (opFlog2 g q d a)
  | .clz g q d a => some (opClz g q d a)
  | .ctz g q d a => some (opCtz g q d a)
  | .popc g q d a => some (opPopc g q d a)
  | .sext g q d a n => some (opSext g q d a n)
  | .zext g q d a n => some (opZext g q d a n)
  | .bfx g q d a b => some (opBfx g q d a b)
  | .bfxn g q d a b => some (opBfxn g q d a b)
  | .bfi g q d a b => some (opBfi g q d a b)
  | .mov g q d a => some (opMov g q d a)
  | .movp g q p a f b => some (opMovp g q p a f b)
  | .movtp g q p a => some (opMovtp g q p a)
  | .addi g q d a i => some (opAddi g q d a i)
  | .muli g q d a i => some (opMuli g q d a i)
  | .andi g q d a i => some (opAndi g q d a i)
  | .ori g q d a i => some (opOri g q d a i)
  | .xori g q d a i => some (opXori g q d a i)
  | .shli g q d a i => some (opShli g q d a i)
  | .shri g q d a i => some (opShri g q d a i)
  | .sari g q d a i => some (opSari g q d a i)
  | .cmpeqi g q p a i => some (opCmpeqi g q p a i)
  | .cmpnei g q p a i => some (opCmpnei g q p a i)
  | .cmplti g q p a i => some (opCmplti g q p a i)
  | .cmpltni g q p a i => some (opCmpltni g q p a i)
  | .movi g q d i => some (opMovi g q d i)
  | .movhi g q d i => some (opMovhi g q d i)
  | .vadd g q t d a b => some (opVadd g q t d a b)
  | .vsub g q t d a b => some (opVsub g q t d a b)
  | .vmul g q t d a b => some (opVmul g q t d a b)
  | .vmulh g q t d a b => some (opVmulh g q t d a b)
  | .vfma g q t d a b => some (opVfma g q t d a b)
  | .vfms g q t d a b => some (opVfms g q t d a b)
  | .vmin g q t d a b => some (opVmin g q t d a b)
  | .vmax g q t d a b => some (opVmax g q t d a b)
  | .vabs g q t d a => some (opVabs g q t d a)
  | .vneg g q t d a => some (opVneg g q t d a)
  | .vadds g q t d a b => some (opVadds g q t d a b)
  | .vsubs g q t d a b => some (opVsubs g q t d a b)
  | .vavg g q t d a b => some (opVavg g q t d a b)
  | .vdot4 g q t d a b => some (opVdot4 g q t d a b)
  | .vmulw g q t d a b => some (opVmulw g q t d a b)
  | .vclamp g q t d a b => some (opVclamp g q t d a b)
  | .vand g q t d a b => some (opVand g q t d a b)
  | .vor g q t d a b => some (opVor g q t d a b)
  | .vxor g q t d a b => some (opVxor g q t d a b)
  | .vandn g q t d a b => some (opVandn g q t d a b)
  | .vnot g q t d a => some (opVnot g q t d a)
  | .vshl g q t d a b => some (opVshl g q t d a b)
  | .vshr g q t d a b => some (opVshr g q t d a b)
  | .vsar g q t d a b => some (opVsar g q t d a b)
  | .vceq g q t d a b => some (opVceq g q t d a b)
  | .vcne g q t d a b => some (opVcne g q t d a b)
  | .vclt g q t d a b => some (opVclt g q t d a b)
  | .vcle g q t d a b => some (opVcle g q t d a b)
  | .vclass g q t d a m => some (opVclass g q t d a m)
  | .vsel g q s d a b => some (opVsel g q s d a b)
  | .vmov g q t d a => some (opVmov g q t d a)
  | .vbc g q t d a => some (opVbc g q t d a)
  | .vmovs g q t d a n => some (opVmovs g q t d a n)
  | .vins g q t d a n => some (opVins g q t d a n)
  | .viota g q t d a => some (opViota g q t d a)
  | .qand g q t d a b => some (opQand g q t d a b)
  | .qor g q t d a b => some (opQor g q t d a b)
  | .qxor g q t d a b => some (opQxor g q t d a b)
  | .qmov g q t d a => some (opQmov g q t d a)
  | .vcvt g q t d a s => some (opVcvt g q t d a s)
  | .vcvtw g q t d a s => some (opVcvtw g q t d a s)
  | .vcvtn g q t d a s => some (opVcvtn g q t d a s)
  | .vcvtns g q t d a s => some (opVcvtns g q t d a s)
  | .vpack g q t d a b => some (opVpack g q t d a b)
  | .vunpk g q t d a h => some (opVunpk g q t d a h)
  | .vperm g q t d a b => some (opVperm g q t d a b)
  | .vrot g q t d a n => some (opVrot g q t d a n)
  | .vsld g q t d a b => some (opVsld g q t d a b)
  | .vtrn g q t d a b => some (opVtrn g q t d a b)
  | .vcmpr g q t d m s => some (opVcmpr g q t d m s)
  | .vexpd g q t d a m => some (opVexpd g q t d a m)
  | .vradd g q t d a => some (opVradd g q t d a)
  | .vrmax g q t d a => some (opVrmax g q t d a)
  | .vrmin g q t d a => some (opVrmin g q t d a)
  | .vramax g q t d a => some (opVramax g q t d a)
  | .vscan g q t d a => some (opVscan g q t d a)
  | .vrcnt g q t d qa => some (opVrcnt g q t d qa)
  | .vcw g q t a => some (opVcw g q t a)
  | .vexp2 g q t d a => some (opVexp2 g q t d a)
  | .vlog2 g q t d a => some (opVlog2 g q t d a)
  | .vrcp g q t d a => some (opVrcp g q t d a)
  | .vrsq g q t d a => some (opVrsq g q t d a)
  | .vsqrt g q t d a => some (opVsqrt g q t d a)
  | .vtanh g q t d a => some (opVtanh g q t d a)
  | .vsigm g q t d a => some (opVsigm g q t d a)
  | .vsin g q t d a => some (opVsin g q t d a)
  | .vcos g q t d a => some (opVcos g q t d a)
  | .vrng g q t d a b => some (opVrng g q t d a b)
  | .vtopk g q t d a k => some (opVtopk g q t d a k)
  | .vscale g q t d a j => some (opVscale g q t d a j)
  | .vqnt g q t d a j => some (opVqnt g q t d a j)
  | .vdq g q t d a j => some (opVdq g q t d a j)
  | .vlut g q t d a b => some (opVlut g q t d a b)
  | .mma g t a b => some (opMma g t a b)
  | .mmaz g t a b => some (opMmaz g t a b)
  | .mman g t a b => some (opMman g t a b)
  | .mlda g t a => some (opMlda g t a)
  | .msta g t a => some (opMsta g t a)
  | .mdrn g t p => some (opMdrn g t p)
  | .mzero g t => some (opMzero g t)
  | .mcommit g => some (opMcommit g)
  | .mwaitb g n => some (opMwaitb g n)
  | .mwaitbId g a => some (opMwaitbId g a)
  | .mwm g d t c => some (opMwm g d t c)
  | .banklendM g a => some (opBanklendM g a)
  | .banklendV g a => some (opBanklendV g a)
  | .banklendRel g a => some (opBanklendRel g a)
  | .banklendAcq g a => some (opBanklendAcq g a)
  | .scld g k a => some (opScld g k a)
  | .mcfg g f => some (opMcfg g f)
  | .medge g a => some (opMedge g a)
  | .ldgB g q d h x m => some (opLdgB g q d h x m)
  | .ldgBn g q d h x m => some (opLdgBn g q d h x m)
  | .ldgH g q d h x m => some (opLdgH g q d h x m)
  | .ldgHn g q d h x m => some (opLdgHn g q d h x m)
  | .ldgW g q d h x m => some (opLdgW g q d h x m)
  | .ldgWn g q d h x m => some (opLdgWn g q d h x m)
  | .ldgD g q d h x m => some (opLdgD g q d h x m)
  | .stgB g d h x m => some (opStgB g d h x m)
  | .stgH g d h x m => some (opStgH g d h x m)
  | .stgW g d h x m => some (opStgW g d h x m)
  | .stgD g d h x m => some (opStgD g d h x m)
  | .vldg g q d h x m => some (opVldg g q d h x m)
  | .vstg g d h x m => some (opVstg g d h x m)
  | .ldS g q d o x m => some (opLdS g q d o x m)
  | .stS g d o x m => some (opStS g d o x m)
  | .vldS g q d o x m => some (opVldS g q d o x m)
  | .vstS g d o x m => some (opVstS g d o x m)
  | .vldC g q d o x m => some (opVldC g q d o x m)
  | .vstC g d o x m => some (opVstC g d o x m)
  | .vldX g q d o x m => some (opVldX g q d o x m)
  | .vstX g d o x m => some (opVstX g d o x m)
  | .vldL g q d o x m => some (opVldL g q d o x m)
  | .vstL g d o x m => some (opVstL g d o x m)
  | .vgthS g q d i x e => some (opVgthS g q d i x e)
  | .vsctS g d i x e => some (opVsctS g d i x e)
  | .vgthL g q d i x e => some (opVgthL g q d i x e)
  | .vsctL g d i x e => some (opVsctL g d i x e)
  | .plst g v c x => some (opPlst g v c x)
  | .vldb g q d o x m => some (opVldb g q d o x m)
  | .vstb g d o x m => some (opVstb g d o x m)
  | .xlt g w h x => some (opXlt g w h x)
  | .hdrop g h => some (opHdrop g h)
  | .aadd g d h x s => some (opAadd g d h x s)
  | .aand g d h x s => some (opAand g d h x s)
  | .aor g d h x s => some (opAor g d h x s)
  | .axor g d h x s => some (opAxor g d h x s)
  | .amin g d h x s => some (opAmin g d h x s)
  | .amax g d h x s => some (opAmax g d h x s)
  | .aminn g d h x s => some (opAminn g d h x s)
  | .amaxn g d h x s => some (opAmaxn g d h x s)
  | .aswp g d h x s => some (opAswp g d h x s)
  | .acas g d h x s => some (opAcas g d h x s)
  | .afadd g d h x s => some (opAfadd g d h x s)
  | .hbind g h x d => some (opHbind g h x d)
  | .hacqX g h x d => some (opHacqX g h x d)
  | .hacqS g h x d => some (opHacqS g h x d)
  | .hrel g h x d => some (opHrel g h x d)
  | .fenceRel g s => some (opFenceRel g s)
  | .fenceAcq g s => some (opFenceAcq g s)
  | .fenceAr g s => some (opFenceAr g s)
  | .bara g d a => some (opBara g d a)
  | .barw g a b => some (opBarw g a b)
  | .tlwait g e b => some (opTlwait g e b)
  | .tlrd g d e => some (opTlrd g d e)
  | .tlrdSt g d e => some (opTlrdSt g d e)
  | .tlrdStc g d e => some (opTlrdStc g d e)
  | .tagw g a => some (opTagw g a)
  | .tagffC g a => some (opTagffC g a)
  | .tagffS g a => some (opTagffS g a)
  | .cpy g d a => some (opCpy g d a)
  | .mvx g d a => some (opMvx g d a)
  | .qpush g d a b => some (opQpush g d a b)
  | .qpop g d a => some (opQpop g d a)
  | .wopen g d h x => some (opWopen g d h x)
  | .wcommit g d a b => some (opWcommit g d a b)
  | .wabortK g a => some (opWabortK g a)
  | .wabortF g a => some (opWabortF g a)
  | .pwatchI g d h x => some (opPwatchI g d h x)
  | .pwatchR g d x => some (opPwatchR g d x)
  | .pwatchQ g d x => some (opPwatchQ g d x)
  | .pdrop g d x => some (opPdrop g d x)
  | .smpq g d a b => some (opSmpq g d a b)
  | .tokrdy g p a => some (opTokrdy g p a)
  | .tokrdyS g a b => some (opTokrdyS g a b)
  | .trap g a n => some (opTrap g a n)
  | .mfs g d r => some (opMfs g d r)
  | .mts g r a => some (opMts g r a)
  | .trace g a n => some (opTrace g a n)
  | .brkpt g n => some (opBrkpt g n)
  | .idle g a => some (opIdle g a)
  | .budq g d i => some (opBudq g d i)
  | .budqCcost g d b => some (opBudqCcost g d b)
  | .jrd g d => some (opJrd g d)
  | .jrdL g d => some (opJrdL g d)
  | .thack g d => some (opThack g d)
  | .wpos g a b c => some (opWpos g a b c)
  | .walloc g d a => some (opWalloc g d a)
  | .btset g d a b => some (opBtset g d a b)
  | .btrd g d a w => some (opBtrd g d a w)
  | .strn g d a b => some (opStrn g d a b)
  | .lexp g d a b => some (opLexp g d a b)
  | .dlbar g p h b => some (opDlbar g p h b)

/-- The operation that a slot word encodes, if it encodes one. -/
noncomputable def slotInfoOfWord (w : BitVec 32) : Option Op := (decodeSlot w).toOption.bind slotInfo

/-! ### The same over words -/

theorem opIf {c : Prop} [Decidable c] {x y : Except SlotError Instr} {p q : Option Op}
    (hx : x.toOption.bind slotInfo = p) (hy : y.toOption.bind slotInfo = q) :
    (if c then x else y).toOption.bind slotInfo = if c then p else q := by
  split
  · exact hx
  · exact hy

/-- The operations of decodeControl. -/
def opsControl (w : BitVec 32) : Option Op :=
  match fldNat w 18 5 with
  | 0 => if fldNat w 0 18 = 0 ∧ fldNat w 23 1 = 0 then some (opNop (fld w 24 4)) else none
  | 1 => if fldNat w 23 1 = 0 then some (opBr (fld w 24 4) (fld w 0 18)) else none
  | 2 => if fldNat w 0 12 = 0 ∧ fldNat w 23 1 = 0 then some (opBrs (fld w 24 4) (fld w 12 6)) else none
  | 3 => if fldNat w 23 1 = 0 then some (opCall (fld w 24 4) (fld w 0 18)) else none
  | 4 => if fldNat w 0 18 = 0 ∧ fldNat w 23 1 = 0 then some (opRet (fld w 24 4)) else none
  | 5 => if fldNat w 0 18 = 0 ∧ fldNat w 23 1 = 0 then some (opYield (fld w 24 4)) else none
  | 6 => if fldNat w 0 18 = 0 ∧ fldNat w 23 1 = 0 then some (opYieldC (fld w 24 4)) else none
  | 7 => if fldNat w 0 18 = 0 ∧ fldNat w 23 1 = 0 then some (opEndTask (fld w 24 4)) else none
  | 8 => if fldNat w 3 3 = 0 ∧ fldNat w 23 1 = 0 then some (opSpawn (fld w 24 4) (fld w 12 6) (fld w 6 6) (fld w 0 3)) else none
  | _ => none

theorem opsControl_eq (w : BitVec 32) : (decodeControl w).toOption.bind slotInfo = opsControl w := by
  unfold decodeControl opsControl
  generalize fldNat w 18 5 = n
  iterate 9
    rcases n with _ | n
    · first | rfl | exact opIf rfl rfl | exact opIf rfl (opIf rfl rfl) | exact opIf rfl (opIf rfl (opIf rfl rfl)) |
        exact opIf rfl (opIf rfl (opIf rfl (opIf rfl rfl)))
  rfl

/-- The operations of decodeScalar. -/
def opsScalar (w : BitVec 32) : Option Op :=
  match fldNat w 18 5 with
  | 0 => some (opAdd (fld w 24 4) (fld w 23 1) (fld w 12 6) (fld w 6 6) (fld w 0 6))
  | 1 => some (opSub (fld w 24 4) (fld w 23 1) (fld w 12 6) (fld w 6 6) (fld w 0 6))
  | 2 => some (opMul (fld w 24 4) (fld w 23 1) (fld w 12 6) (fld w 6 6) (fld w 0 6))
  | 3 => some (opMulh (fld w 24 4) (fld w 23 1) (fld w 12 6) (fld w 6 6) (fld w 0 6))
  | 4 => some (opMulhn (fld w 24 4) (fld w 23 1) (fld w 12 6) (fld w 6 6) (fld w 0 6))
  | 5 => some (opDiv (fld w 24 4) (fld w 23 1) (fld w 12 6) (fld w 6 6) (fld w 0 6))
  | 6 => some (opDivn (fld w 24 4) (fld w 23 1) (fld w 12 6) (fld w 6 6) (fld w 0 6))
  | 7 => some (opRem (fld w 24 4) (fld w 23 1) (fld w 12 6) (fld w 6 6) (fld w 0 6))
  | 8 => some (opRemn (fld w 24 4) (fld w 23 1) (fld w 12 6) (fld w 6 6) (fld w 0 6))
  | 9 => some (opAnd (fld w 24 4) (fld w 23 1) (fld w 12 6) (fld w 6 6) (fld w 0 6))
  | 10 => some (opOr (fld w 24 4) (fld w 23 1) (fld w 12 6) (fld w 6 6) (fld w 0 6))
  | 11 => some (opXor (fld w 24 4) (fld w 23 1) (fld w 12 6) (fld w 6 6) (fld w 0 6))
  | 12 => some (opAndn (fld w 24 4) (fld w 23 1) (fld w 12 6) (fld w 6 6) (fld w 0 6))
  | 13 => some (opShl (fld w 24 4) (fld w 23 1) (fld w 12 6) (fld w 6 6) (fld w 0 6))
  | 14 => some (opShr (fld w 24 4) (fld w 23 1) (fld w 12 6) (fld w 6 6) (fld w 0 6))
  | 15 => some (opSar (fld w 24 4) (fld w 23 1) (fld w 12 6) (fld w 6 6) (fld w 0 6))
  | 16 => some (opRol (fld w 24 4) (fld w 23 1) (fld w 12 6) (fld w 6 6) (fld w 0 6))
  | 17 => some (opMin (fld w 24 4) (fld w 23 1) (fld w 12 6) (fld w 6 6) (fld w 0 6))
  | 18 => some (opMax (fld w 24 4) (fld w 23 1) (fld w 12 6) (fld w 6 6) (fld w 0 6))
  | 19 => some (opMinn (fld w 24 4) (fld w 23 1) (fld w 12 6) (fld w 6 6) (fld w 0 6))
  | 20 => some (opMaxn (fld w 24 4) (fld w 23 1) (fld w 12 6) (fld w 6 6) (fld w 0 6))
  | 21 => some (opShadd1 (fld w 24 4) (fld w 23 1) (fld w 12 6) (fld w 6 6) (fld w 0 6))
  | 22 => some (opShadd2 (fld w 24 4) (fld w 23 1) (fld w 12 6) (fld w 6 6) (fld w 0 6))
  | 23 => some (opShadd3 (fld w 24 4) (fld w 23 1) (fld w 12 6) (fld w 6 6) (fld w 0 6))
  | 24 => some (opCmpeq (fld w 24 4) (fld w 23 1) (fld w 12 6) (fld w 6 6) (fld w 0 6))
  | 25 => some (opCmpne (fld w 24 4) (fld w 23 1) (fld w 12 6) (fld w 6 6) (fld w 0 6))
  | 26 => some (opCmplt (fld w 24 4) (fld w 23 1) (fld w 12 6) (fld w 6 6) (fld w 0 6))
  | 27 => some (opCmple (fld w 24 4) (fld w 23 1) (fld w 12 6) (fld w 6 6) (fld w 0 6))
  | 28 => some (opCmpltn (fld w 24 4) (fld w 23 1) (fld w 12 6) (fld w 6 6) (fld w 0 6))
  | 29 => some (opCmplen (fld w 24 4) (fld w 23 1) (fld w 12 6) (fld w 6 6) (fld w 0 6))
  | _ => none

theorem opsScalar_eq (w : BitVec 32) : (decodeScalar w).toOption.bind slotInfo = opsScalar w := by
  unfold decodeScalar opsScalar
  generalize fldNat w 18 5 = n
  iterate 30
    rcases n with _ | n
    · first | rfl | exact opIf rfl rfl | exact opIf rfl (opIf rfl rfl) | exact opIf rfl (opIf rfl (opIf rfl rfl)) |
        exact opIf rfl (opIf rfl (opIf rfl (opIf rfl rfl)))
  rfl

/-- The operations of decodeFloat. -/
def opsFloat (w : BitVec 32) : Option Op :=
  match fldNat w 18 5 with
  | 0 => some (opFadd (fld w 24 4) (fld w 23 1) (fld w 12 6) (fld w 6 6) (fld w 0 6))
  | 1 => some (opFsub (fld w 24 4) (fld w 23 1) (fld w 12 6) (fld w 6 6) (fld w 0 6))
  | 2 => some (opFmul (fld w 24 4) (fld w 23 1) (fld w 12 6) (fld w 6 6) (fld w 0 6))
  | 3 => some (opFfma (fld w 24 4) (fld w 23 1) (fld w 12 6) (fld w 6 6) (fld w 0 6))
  | 4 => some (opFdiv (fld w 24 4) (fld w 23 1) (fld w 12 6) (fld w 6 6) (fld w 0 6))
  | 5 => if fldNat w 0 6 = 0 then some (opFsqrt (fld w 24 4) (fld w 23 1) (fld w 12 6) (fld w 6 6)) else none
  | 6 => some (opFmin (fld w 24 4) (fld w 23 1) (fld w 12 6) (fld w 6 6) (fld w 0 6))
  | 7 => some (opFmax (fld w 24 4) (fld w 23 1) (fld w 12 6) (fld w 6 6) (fld w 0 6))
  | 8 => if fldNat w 0 6 = 0 then some (opFabs (fld w 24 4) (fld w 23 1) (fld w 12 6) (fld w 6 6)) else none
  | 9 => if fldNat w 0 6 = 0 then some (opFneg (fld w 24 4) (fld w 23 1) (fld w 12 6) (fld w 6 6)) else none
  | 10 => some (opFceq (fld w 24 4) (fld w 23 1) (fld w 12 6) (fld w 6 6) (fld w 0 6))
  | 11 => some (opFclt (fld w 24 4) (fld w 23 1) (fld w 12 6) (fld w 6 6) (fld w 0 6))
  | 12 => some (opFcle (fld w 24 4) (fld w 23 1) (fld w 12 6) (fld w 6 6) (fld w 0 6))
  | 13 => some (opFcun (fld w 24 4) (fld w 23 1) (fld w 12 6) (fld w 6 6) (fld w 0 6))
  | 14 => if fldNat w 2 4 = 0 then some (opFcvtif (fld w 24 4) (fld w 23 1) (fld w 12 6) (fld w 6 6) (fld w 0 2)) else none
  | 15 => if fldNat w 2 4 = 0 then some (opFcvtfi (fld w 24 4) (fld w 23 1) (fld w 12 6) (fld w 6 6) (fld w 0 2)) else none
  | 16 => if fldNat w 0 6 = 0 then some (opFexp2 (fld w 24 4) (fld w 23 1) (fld w 12 6) (fld w 6 6)) else none
  | 17 => if fldNat w 0 6 = 0 then some (opFlog2 (fld w 24 4) (fld w 23 1) (fld w 12 6) (fld w 6 6)) else none
  | 18 => if fldNat w 0 6 = 0 then some (opClz (fld w 24 4) (fld w 23 1) (fld w 12 6) (fld w 6 6)) else none
  | 19 => if fldNat w 0 6 = 0 then some (opCtz (fld w 24 4) (fld w 23 1) (fld w 12 6) (fld w 6 6)) else none
  | 20 => if fldNat w 0 6 = 0 then some (opPopc (fld w 24 4) (fld w 23 1) (fld w 12 6) (fld w 6 6)) else none
  | 21 => some (opSext (fld w 24 4) (fld w 23 1) (fld w 12 6) (fld w 6 6) (fld w 0 6))
  | 22 => some (opZext (fld w 24 4) (fld w 23 1) (fld w 12 6) (fld w 6 6) (fld w 0 6))
  | 23 => some (opBfx (fld w 24 4) (fld w 23 1) (fld w 12 6) (fld w 6 6) (fld w 0 6))
  | 24 => some (opBfxn (fld w 24 4) (fld w 23 1) (fld w 12 6) (fld w 6 6) (fld w 0 6))
  | 25 => some (opBfi (fld w 24 4) (fld w 23 1) (fld w 12 6) (fld w 6 6) (fld w 0 6))
  | 26 => if fldNat w 0 6 = 0 then some (opMov (fld w 24 4) (fld w 23 1) (fld w 12 6) (fld w 6 6)) else none
  | 27 => if fldNat w 10 2 = 0 then some (opMovp (fld w 24 4) (fld w 23 1) (fld w 12 6) (fld w 6 4) (fld w 4 2) (fld w 0 4)) else none
  | 28 => if fldNat w 0 6 = 0 then some (opMovtp (fld w 24 4) (fld w 23 1) (fld w 12 6) (fld w 6 6)) else none
  | _ => none

theorem opsFloat_eq (w : BitVec 32) : (decodeFloat w).toOption.bind slotInfo = opsFloat w := by
  unfold decodeFloat opsFloat
  generalize fldNat w 18 5 = n
  iterate 29
    rcases n with _ | n
    · first | rfl | exact opIf rfl rfl | exact opIf rfl (opIf rfl rfl) | exact opIf rfl (opIf rfl (opIf rfl rfl)) |
        exact opIf rfl (opIf rfl (opIf rfl (opIf rfl rfl)))
  rfl

/-- The operations of decodeImmediate. -/
def opsImmediate (w : BitVec 32) : Option Op :=
  match fldNat w 18 5 with
  | 0 => some (opAddi (fld w 24 4) (fld w 23 1) (fld w 12 6) (fld w 6 6) (fld w 0 6))
  | 1 => some (opMuli (fld w 24 4) (fld w 23 1) (fld w 12 6) (fld w 6 6) (fld w 0 6))
  | 2 => some (opAndi (fld w 24 4) (fld w 23 1) (fld w 12 6) (fld w 6 6) (fld w 0 6))
  | 3 => some (opOri (fld w 24 4) (fld w 23 1) (fld w 12 6) (fld w 6 6) (fld w 0 6))
  | 4 => some (opXori (fld w 24 4) (fld w 23 1) (fld w 12 6) (fld w 6 6) (fld w 0 6))
  | 5 => some (opShli (fld w 24 4) (fld w 23 1) (fld w 12 6) (fld w 6 6) (fld w 0 6))
  | 6 => some (opShri (fld w 24 4) (fld w 23 1) (fld w 12 6) (fld w 6 6) (fld w 0 6))
  | 7 => some (opSari (fld w 24 4) (fld w 23 1) (fld w 12 6) (fld w 6 6) (fld w 0 6))
  | 8 => some (opCmpeqi (fld w 24 4) (fld w 23 1) (fld w 12 6) (fld w 6 6) (fld w 0 6))
  | 9 => some (opCmpnei (fld w 24 4) (fld w 23 1) (fld w 12 6) (fld w 6 6) (fld w 0 6))
  | 10 => some (opCmplti (fld w 24 4) (fld w 23 1) (fld w 12 6) (fld w 6 6) (fld w 0 6))
  | 11 => some (opCmpltni (fld w 24 4) (fld w 23 1) (fld w 12 6) (fld w 6 6) (fld w 0 6))
  | 12 => some (opMovi (fld w 24 4) (fld w 23 1) (fld w 12 6) (fld w 0 12))
  | 13 => some (opMovhi (fld w 24 4) (fld w 23 1) (fld w 12 6) (fld w 0 12))
  | _ => none

theorem opsImmediate_eq (w : BitVec 32) : (decodeImmediate w).toOption.bind slotInfo = opsImmediate w := by
  unfold decodeImmediate opsImmediate
  generalize fldNat w 18 5 = n
  iterate 14
    rcases n with _ | n
    · first | rfl | exact opIf rfl rfl | exact opIf rfl (opIf rfl rfl) | exact opIf rfl (opIf rfl (opIf rfl rfl)) |
        exact opIf rfl (opIf rfl (opIf rfl (opIf rfl rfl)))
  rfl

/-- The operations of decodeVec4. -/
def opsVec4 (w : BitVec 32) : Option Op :=
  match fldNat w 18 5 with
  | 0 => some (opVadd (fld w 24 4) (fld w 23 1) (fld w 15 3) (fld w 10 5) (fld w 5 5) (fld w 0 5))
  | 1 => some (opVsub (fld w 24 4) (fld w 23 1) (fld w 15 3) (fld w 10 5) (fld w 5 5) (fld w 0 5))
  | 2 => some (opVmul (fld w 24 4) (fld w 23 1) (fld w 15 3) (fld w 10 5) (fld w 5 5) (fld w 0 5))
  | 3 => some (opVmulh (fld w 24 4) (fld w 23 1) (fld w 15 3) (fld w 10 5) (fld w 5 5) (fld w 0 5))
  | 4 => some (opVfma (fld w 24 4) (fld w 23 1) (fld w 15 3) (fld w 10 5) (fld w 5 5) (fld w 0 5))
  | 5 => some (opVfms (fld w 24 4) (fld w 23 1) (fld w 15 3) (fld w 10 5) (fld w 5 5) (fld w 0 5))
  | 6 => some (opVmin (fld w 24 4) (fld w 23 1) (fld w 15 3) (fld w 10 5) (fld w 5 5) (fld w 0 5))
  | 7 => some (opVmax (fld w 24 4) (fld w 23 1) (fld w 15 3) (fld w 10 5) (fld w 5 5) (fld w 0 5))
  | 8 => if fldNat w 0 5 = 0 then some (opVabs (fld w 24 4) (fld w 23 1) (fld w 15 3) (fld w 10 5) (fld w 5 5)) else none
  | 9 => if fldNat w 0 5 = 0 then some (opVneg (fld w 24 4) (fld w 23 1) (fld w 15 3) (fld w 10 5) (fld w 5 5)) else none
  | 10 => some (opVadds (fld w 24 4) (fld w 23 1) (fld w 15 3) (fld w 10 5) (fld w 5 5) (fld w 0 5))
  | 11 => some (opVsubs (fld w 24 4) (fld w 23 1) (fld w 15 3) (fld w 10 5) (fld w 5 5) (fld w 0 5))
  | 12 => some (opVavg (fld w 24 4) (fld w 23 1) (fld w 15 3) (fld w 10 5) (fld w 5 5) (fld w 0 5))
  | 13 => some (opVdot4 (fld w 24 4) (fld w 23 1) (fld w 15 3) (fld w 10 5) (fld w 5 5) (fld w 0 5))
  | 14 => some (opVmulw (fld w 24 4) (fld w 23 1) (fld w 15 3) (fld w 10 5) (fld w 5 5) (fld w 0 5))
  | 15 => some (opVclamp (fld w 24 4) (fld w 23 1) (fld w 15 3) (fld w 10 5) (fld w 5 5) (fld w 0 5))
  | _ => none

theorem opsVec4_eq (w : BitVec 32) : (decodeVec4 w).toOption.bind slotInfo = opsVec4 w := by
  unfold decodeVec4 opsVec4
  generalize fldNat w 18 5 = n
  iterate 16
    rcases n with _ | n
    · first | rfl | exact opIf rfl rfl | exact opIf rfl (opIf rfl rfl) | exact opIf rfl (opIf rfl (opIf rfl rfl)) |
        exact opIf rfl (opIf rfl (opIf rfl (opIf rfl rfl)))
  rfl

/-- The operations of decodeVec5. -/
def opsVec5 (w : BitVec 32) : Option Op :=
  match fldNat w 18 5 with
  | 0 => some (opVand (fld w 24 4) (fld w 23 1) (fld w 15 3) (fld w 10 5) (fld w 5 5) (fld w 0 5))
  | 1 => some (opVor (fld w 24 4) (fld w 23 1) (fld w 15 3) (fld w 10 5) (fld w 5 5) (fld w 0 5))
  | 2 => some (opVxor (fld w 24 4) (fld w 23 1) (fld w 15 3) (fld w 10 5) (fld w 5 5) (fld w 0 5))
  | 3 => some (opVandn (fld w 24 4) (fld w 23 1) (fld w 15 3) (fld w 10 5) (fld w 5 5) (fld w 0 5))
  | 4 => if fldNat w 0 5 = 0 then some (opVnot (fld w 24 4) (fld w 23 1) (fld w 15 3) (fld w 10 5) (fld w 5 5)) else none
  | 5 => some (opVshl (fld w 24 4) (fld w 23 1) (fld w 15 3) (fld w 10 5) (fld w 5 5) (fld w 0 5))
  | 6 => some (opVshr (fld w 24 4) (fld w 23 1) (fld w 15 3) (fld w 10 5) (fld w 5 5) (fld w 0 5))
  | 7 => some (opVsar (fld w 24 4) (fld w 23 1) (fld w 15 3) (fld w 10 5) (fld w 5 5) (fld w 0 5))
  | 8 => some (opVceq (fld w 24 4) (fld w 23 1) (fld w 15 3) (fld w 10 5) (fld w 5 5) (fld w 0 5))
  | 9 => some (opVcne (fld w 24 4) (fld w 23 1) (fld w 15 3) (fld w 10 5) (fld w 5 5) (fld w 0 5))
  | 10 => some (opVclt (fld w 24 4) (fld w 23 1) (fld w 15 3) (fld w 10 5) (fld w 5 5) (fld w 0 5))
  | 11 => some (opVcle (fld w 24 4) (fld w 23 1) (fld w 15 3) (fld w 10 5) (fld w 5 5) (fld w 0 5))
  | 12 => some (opVclass (fld w 24 4) (fld w 23 1) (fld w 15 3) (fld w 10 5) (fld w 5 5) (fld w 0 5))
  | 13 => some (opVsel (fld w 24 4) (fld w 23 1) (fld w 15 3) (fld w 10 5) (fld w 5 5) (fld w 0 5))
  | 14 => if fldNat w 0 5 = 0 then some (opVmov (fld w 24 4) (fld w 23 1) (fld w 15 3) (fld w 10 5) (fld w 5 5)) else none
  | 15 => if fldNat w 0 5 = 0 then some (opVbc (fld w 24 4) (fld w 23 1) (fld w 15 3) (fld w 10 5) (fld w 5 5)) else none
  | 16 => some (opVmovs (fld w 24 4) (fld w 23 1) (fld w 15 3) (fld w 10 5) (fld w 5 5) (fld w 0 5))
  | 17 => some (opVins (fld w 24 4) (fld w 23 1) (fld w 15 3) (fld w 10 5) (fld w 5 5) (fld w 0 5))
  | 18 => if fldNat w 0 5 = 0 then some (opViota (fld w 24 4) (fld w 23 1) (fld w 15 3) (fld w 10 5) (fld w 5 5)) else none
  | 19 => if fldNat w 4 1 = 0 ∧ fldNat w 9 1 = 0 then some (opQand (fld w 24 4) (fld w 23 1) (fld w 15 3) (fld w 10 5) (fld w 5 4) (fld w 0 4)) else none
  | 20 => if fldNat w 4 1 = 0 ∧ fldNat w 9 1 = 0 then some (opQor (fld w 24 4) (fld w 23 1) (fld w 15 3) (fld w 10 5) (fld w 5 4) (fld w 0 4)) else none
  | 21 => if fldNat w 4 1 = 0 ∧ fldNat w 9 1 = 0 then some (opQxor (fld w 24 4) (fld w 23 1) (fld w 15 3) (fld w 10 5) (fld w 5 4) (fld w 0 4)) else none
  | 22 => if fldNat w 0 5 = 0 ∧ fldNat w 9 1 = 0 then some (opQmov (fld w 24 4) (fld w 23 1) (fld w 15 3) (fld w 10 5) (fld w 5 4)) else none
  | _ => none

theorem opsVec5_eq (w : BitVec 32) : (decodeVec5 w).toOption.bind slotInfo = opsVec5 w := by
  unfold decodeVec5 opsVec5
  generalize fldNat w 18 5 = n
  iterate 23
    rcases n with _ | n
    · first | rfl | exact opIf rfl rfl | exact opIf rfl (opIf rfl rfl) | exact opIf rfl (opIf rfl (opIf rfl rfl)) |
        exact opIf rfl (opIf rfl (opIf rfl (opIf rfl rfl)))
  rfl

/-- The operations of decodeVec6. -/
def opsVec6 (w : BitVec 32) : Option Op :=
  match fldNat w 18 5 with
  | 0 => if fldNat w 4 1 = 0 then some (opVcvt (fld w 24 4) (fld w 23 1) (fld w 15 3) (fld w 10 5) (fld w 5 5) (fld w 0 4)) else none
  | 1 => if fldNat w 4 1 = 0 then some (opVcvtw (fld w 24 4) (fld w 23 1) (fld w 15 3) (fld w 10 5) (fld w 5 5) (fld w 0 4)) else none
  | 2 => if fldNat w 4 1 = 0 then some (opVcvtn (fld w 24 4) (fld w 23 1) (fld w 15 3) (fld w 10 5) (fld w 5 5) (fld w 0 4)) else none
  | 3 => if fldNat w 4 1 = 0 then some (opVcvtns (fld w 24 4) (fld w 23 1) (fld w 15 3) (fld w 10 5) (fld w 5 5) (fld w 0 4)) else none
  | 4 => some (opVpack (fld w 24 4) (fld w 23 1) (fld w 15 3) (fld w 10 5) (fld w 5 5) (fld w 0 5))
  | 5 => if fldNat w 1 4 = 0 then some (opVunpk (fld w 24 4) (fld w 23 1) (fld w 15 3) (fld w 10 5) (fld w 5 5) (fld w 0 1)) else none
  | 6 => some (opVperm (fld w 24 4) (fld w 23 1) (fld w 15 3) (fld w 10 5) (fld w 5 5) (fld w 0 5))
  | 7 => some (opVrot (fld w 24 4) (fld w 23 1) (fld w 15 3) (fld w 10 5) (fld w 5 5) (fld w 0 5))
  | 8 => some (opVsld (fld w 24 4) (fld w 23 1) (fld w 15 3) (fld w 10 5) (fld w 5 5) (fld w 0 5))
  | 9 => some (opVtrn (fld w 24 4) (fld w 23 1) (fld w 15 3) (fld w 10 5) (fld w 5 5) (fld w 0 5))
  | 10 => if fldNat w 9 1 = 0 then some (opVcmpr (fld w 24 4) (fld w 23 1) (fld w 15 3) (fld w 10 5) (fld w 5 4) (fld w 0 5)) else none
  | 11 => if fldNat w 4 1 = 0 then some (opVexpd (fld w 24 4) (fld w 23 1) (fld w 15 3) (fld w 10 5) (fld w 5 5) (fld w 0 4)) else none
  | 12 => if fldNat w 0 5 = 0 then some (opVradd (fld w 24 4) (fld w 23 1) (fld w 15 3) (fld w 10 5) (fld w 5 5)) else none
  | 13 => if fldNat w 0 5 = 0 then some (opVrmax (fld w 24 4) (fld w 23 1) (fld w 15 3) (fld w 10 5) (fld w 5 5)) else none
  | 14 => if fldNat w 0 5 = 0 then some (opVrmin (fld w 24 4) (fld w 23 1) (fld w 15 3) (fld w 10 5) (fld w 5 5)) else none
  | 15 => if fldNat w 0 5 = 0 then some (opVramax (fld w 24 4) (fld w 23 1) (fld w 15 3) (fld w 10 5) (fld w 5 5)) else none
  | 16 => if fldNat w 0 5 = 0 then some (opVscan (fld w 24 4) (fld w 23 1) (fld w 15 3) (fld w 10 5) (fld w 5 5)) else none
  | 17 => if fldNat w 0 5 = 0 ∧ fldNat w 9 1 = 0 then some (opVrcnt (fld w 24 4) (fld w 23 1) (fld w 15 3) (fld w 10 5) (fld w 5 4)) else none
  | 18 => if fldNat w 0 5 = 0 ∧ fldNat w 10 5 = 0 then some (opVcw (fld w 24 4) (fld w 23 1) (fld w 15 3) (fld w 5 5)) else none
  | _ => none

theorem opsVec6_eq (w : BitVec 32) : (decodeVec6 w).toOption.bind slotInfo = opsVec6 w := by
  unfold decodeVec6 opsVec6
  generalize fldNat w 18 5 = n
  iterate 19
    rcases n with _ | n
    · first | rfl | exact opIf rfl rfl | exact opIf rfl (opIf rfl rfl) | exact opIf rfl (opIf rfl (opIf rfl rfl)) |
        exact opIf rfl (opIf rfl (opIf rfl (opIf rfl rfl)))
  rfl

/-- The operations of decodeVec7. -/
def opsVec7 (w : BitVec 32) : Option Op :=
  match fldNat w 18 5 with
  | 0 => if fldNat w 0 5 = 0 then some (opVexp2 (fld w 24 4) (fld w 23 1) (fld w 15 3) (fld w 10 5) (fld w 5 5)) else none
  | 1 => if fldNat w 0 5 = 0 then some (opVlog2 (fld w 24 4) (fld w 23 1) (fld w 15 3) (fld w 10 5) (fld w 5 5)) else none
  | 2 => if fldNat w 0 5 = 0 then some (opVrcp (fld w 24 4) (fld w 23 1) (fld w 15 3) (fld w 10 5) (fld w 5 5)) else none
  | 3 => if fldNat w 0 5 = 0 then some (opVrsq (fld w 24 4) (fld w 23 1) (fld w 15 3) (fld w 10 5) (fld w 5 5)) else none
  | 4 => if fldNat w 0 5 = 0 then some (opVsqrt (fld w 24 4) (fld w 23 1) (fld w 15 3) (fld w 10 5) (fld w 5 5)) else none
  | 5 => if fldNat w 0 5 = 0 then some (opVtanh (fld w 24 4) (fld w 23 1) (fld w 15 3) (fld w 10 5) (fld w 5 5)) else none
  | 6 => if fldNat w 0 5 = 0 then some (opVsigm (fld w 24 4) (fld w 23 1) (fld w 15 3) (fld w 10 5) (fld w 5 5)) else none
  | 7 => if fldNat w 0 5 = 0 then some (opVsin (fld w 24 4) (fld w 23 1) (fld w 15 3) (fld w 10 5) (fld w 5 5)) else none
  | 8 => if fldNat w 0 5 = 0 then some (opVcos (fld w 24 4) (fld w 23 1) (fld w 15 3) (fld w 10 5) (fld w 5 5)) else none
  | 9 => some (opVrng (fld w 24 4) (fld w 23 1) (fld w 15 3) (fld w 10 5) (fld w 5 5) (fld w 0 5))
  | 10 => some (opVtopk (fld w 24 4) (fld w 23 1) (fld w 15 3) (fld w 10 5) (fld w 5 5) (fld w 0 5))
  | 11 => if fldNat w 2 3 = 0 then some (opVscale (fld w 24 4) (fld w 23 1) (fld w 15 3) (fld w 10 5) (fld w 5 5) (fld w 0 2)) else none
  | 12 => if fldNat w 2 3 = 0 then some (opVqnt (fld w 24 4) (fld w 23 1) (fld w 15 3) (fld w 10 5) (fld w 5 5) (fld w 0 2)) else none
  | 13 => if fldNat w 2 3 = 0 then some (opVdq (fld w 24 4) (fld w 23 1) (fld w 15 3) (fld w 10 5) (fld w 5 5) (fld w 0 2)) else none
  | 14 => some (opVlut (fld w 24 4) (fld w 23 1) (fld w 15 3) (fld w 10 5) (fld w 5 5) (fld w 0 5))
  | _ => none

theorem opsVec7_eq (w : BitVec 32) : (decodeVec7 w).toOption.bind slotInfo = opsVec7 w := by
  unfold decodeVec7 opsVec7
  generalize fldNat w 18 5 = n
  iterate 15
    rcases n with _ | n
    · first | rfl | exact opIf rfl rfl | exact opIf rfl (opIf rfl rfl) | exact opIf rfl (opIf rfl (opIf rfl rfl)) |
        exact opIf rfl (opIf rfl (opIf rfl (opIf rfl rfl)))
  rfl

/-- The operations of decodeMatrix. -/
def opsMatrix (w : BitVec 32) : Option Op :=
  match fldNat w 20 3 with
  | 0 => if fldNat w 23 1 = 0 then some (opMma (fld w 24 4) (fld w 12 8) (fld w 6 6) (fld w 0 6)) else none
  | 1 => if fldNat w 23 1 = 0 then some (opMmaz (fld w 24 4) (fld w 12 8) (fld w 6 6) (fld w 0 6)) else none
  | 2 => if fldNat w 23 1 = 0 then some (opMman (fld w 24 4) (fld w 12 8) (fld w 6 6) (fld w 0 6)) else none
  | 3 => if fldNat w 0 6 = 0 ∧ fldNat w 23 1 = 0 then some (opMlda (fld w 24 4) (fld w 12 8) (fld w 6 6)) else none
  | 4 => if fldNat w 0 6 = 0 ∧ fldNat w 23 1 = 0 then some (opMsta (fld w 24 4) (fld w 12 8) (fld w 6 6)) else none
  | 5 => if fldNat w 0 6 = 0 ∧ fldNat w 7 5 = 0 ∧ fldNat w 23 1 = 0 then some (opMdrn (fld w 24 4) (fld w 12 8) (fld w 6 1)) else none
  | 6 => if fldNat w 0 12 = 0 ∧ fldNat w 23 1 = 0 then some (opMzero (fld w 24 4) (fld w 12 8)) else none
  | 7 => if fldNat w 0 20 = 0 ∧ fldNat w 23 1 = 0 then some (opMcommit (fld w 24 4)) else none
  | _ => none

theorem opsMatrix_eq (w : BitVec 32) : (decodeMatrix w).toOption.bind slotInfo = opsMatrix w := by
  unfold decodeMatrix opsMatrix
  generalize fldNat w 20 3 = n
  iterate 8
    rcases n with _ | n
    · first | rfl | exact opIf rfl rfl | exact opIf rfl (opIf rfl rfl) | exact opIf rfl (opIf rfl (opIf rfl rfl)) |
        exact opIf rfl (opIf rfl (opIf rfl (opIf rfl rfl)))
  rfl

/-- The operations of decodeMatrixAux. -/
def opsMatrixAux (w : BitVec 32) : Option Op :=
  match fldNat w 18 5 with
  | 0 => if fldNat w 4 14 = 0 ∧ fldNat w 23 1 = 0 then some (opMwaitb (fld w 24 4) (fld w 0 4)) else if fldNat w 0 11 = 0 ∧ fldNat w 17 1 = 1 ∧ fldNat w 23 1 = 0 then some (opMwaitbId (fld w 24 4) (fld w 11 6)) else none
  | 1 => if fldNat w 1 3 = 0 ∧ fldNat w 23 1 = 0 then some (opMwm (fld w 24 4) (fld w 12 6) (fld w 4 8) (fld w 0 1)) else none
  | 2 => if fldNat w 0 12 = 0 ∧ fldNat w 23 1 = 0 then some (opBanklendM (fld w 24 4) (fld w 12 6)) else if fldNat w 0 12 = 1 ∧ fldNat w 23 1 = 0 then some (opBanklendV (fld w 24 4) (fld w 12 6)) else if fldNat w 0 12 = 2 ∧ fldNat w 23 1 = 0 then some (opBanklendRel (fld w 24 4) (fld w 12 6)) else if fldNat w 0 12 = 3 ∧ fldNat w 23 1 = 0 then some (opBanklendAcq (fld w 24 4) (fld w 12 6)) else none
  | 3 => if fldNat w 0 9 = 0 ∧ fldNat w 23 1 = 0 then some (opScld (fld w 24 4) (fld w 15 3) (fld w 9 6)) else none
  | 4 => if fldNat w 0 13 = 0 ∧ fldNat w 23 1 = 0 then some (opMcfg (fld w 24 4) (fld w 13 5)) else none
  | 5 => if fldNat w 0 12 = 0 ∧ fldNat w 23 1 = 0 then some (opMedge (fld w 24 4) (fld w 12 6)) else none
  | _ => none

theorem opsMatrixAux_eq (w : BitVec 32) : (decodeMatrixAux w).toOption.bind slotInfo = opsMatrixAux w := by
  unfold decodeMatrixAux opsMatrixAux
  generalize fldNat w 18 5 = n
  iterate 6
    rcases n with _ | n
    · first | rfl | exact opIf rfl rfl | exact opIf rfl (opIf rfl rfl) | exact opIf rfl (opIf rfl (opIf rfl rfl)) |
        exact opIf rfl (opIf rfl (opIf rfl (opIf rfl rfl)))
  rfl

/-- The operations of decodeMemory. -/
def opsMemory (w : BitVec 32) : Option Op :=
  match fldNat w 18 5 with
  | 0 => some (opLdgB (fld w 24 4) (fld w 23 1) (fld w 12 6) (fld w 8 4) (fld w 2 6) (fld w 0 2))
  | 1 => some (opLdgBn (fld w 24 4) (fld w 23 1) (fld w 12 6) (fld w 8 4) (fld w 2 6) (fld w 0 2))
  | 2 => some (opLdgH (fld w 24 4) (fld w 23 1) (fld w 12 6) (fld w 8 4) (fld w 2 6) (fld w 0 2))
  | 3 => some (opLdgHn (fld w 24 4) (fld w 23 1) (fld w 12 6) (fld w 8 4) (fld w 2 6) (fld w 0 2))
  | 4 => some (opLdgW (fld w 24 4) (fld w 23 1) (fld w 12 6) (fld w 8 4) (fld w 2 6) (fld w 0 2))
  | 5 => some (opLdgWn (fld w 24 4) (fld w 23 1) (fld w 12 6) (fld w 8 4) (fld w 2 6) (fld w 0 2))
  | 6 => some (opLdgD (fld w 24 4) (fld w 23 1) (fld w 12 6) (fld w 8 4) (fld w 2 6) (fld w 0 2))
  | 7 => if fldNat w 23 1 = 0 then some (opStgB (fld w 24 4) (fld w 12 6) (fld w 8 4) (fld w 2 6) (fld w 0 2)) else none
  | 8 => if fldNat w 23 1 = 0 then some (opStgH (fld w 24 4) (fld w 12 6) (fld w 8 4) (fld w 2 6) (fld w 0 2)) else none
  | 9 => if fldNat w 23 1 = 0 then some (opStgW (fld w 24 4) (fld w 12 6) (fld w 8 4) (fld w 2 6) (fld w 0 2)) else none
  | 10 => if fldNat w 23 1 = 0 then some (opStgD (fld w 24 4) (fld w 12 6) (fld w 8 4) (fld w 2 6) (fld w 0 2)) else none
  | 11 => some (opVldg (fld w 24 4) (fld w 23 1) (fld w 12 6) (fld w 8 4) (fld w 2 6) (fld w 0 2))
  | 12 => if fldNat w 23 1 = 0 then some (opVstg (fld w 24 4) (fld w 12 6) (fld w 8 4) (fld w 2 6) (fld w 0 2)) else none
  | 13 => some (opLdS (fld w 24 4) (fld w 23 1) (fld w 12 6) (fld w 8 4) (fld w 2 6) (fld w 0 2))
  | 14 => if fldNat w 23 1 = 0 then some (opStS (fld w 24 4) (fld w 12 6) (fld w 8 4) (fld w 2 6) (fld w 0 2)) else none
  | 15 => some (opVldS (fld w 24 4) (fld w 23 1) (fld w 12 6) (fld w 8 4) (fld w 2 6) (fld w 0 2))
  | 16 => if fldNat w 23 1 = 0 then some (opVstS (fld w 24 4) (fld w 12 6) (fld w 8 4) (fld w 2 6) (fld w 0 2)) else none
  | 17 => some (opVldC (fld w 24 4) (fld w 23 1) (fld w 12 6) (fld w 8 4) (fld w 2 6) (fld w 0 2))
  | 18 => if fldNat w 23 1 = 0 then some (opVstC (fld w 24 4) (fld w 12 6) (fld w 8 4) (fld w 2 6) (fld w 0 2)) else none
  | 19 => some (opVldX (fld w 24 4) (fld w 23 1) (fld w 12 6) (fld w 8 4) (fld w 2 6) (fld w 0 2))
  | 20 => if fldNat w 23 1 = 0 then some (opVstX (fld w 24 4) (fld w 12 6) (fld w 8 4) (fld w 2 6) (fld w 0 2)) else none
  | 21 => some (opVldL (fld w 24 4) (fld w 23 1) (fld w 12 6) (fld w 8 4) (fld w 2 6) (fld w 0 2))
  | 22 => if fldNat w 23 1 = 0 then some (opVstL (fld w 24 4) (fld w 12 6) (fld w 8 4) (fld w 2 6) (fld w 0 2)) else none
  | 23 => some (opVgthS (fld w 24 4) (fld w 23 1) (fld w 12 6) (fld w 8 4) (fld w 2 6) (fld w 0 2))
  | 24 => if fldNat w 23 1 = 0 then some (opVsctS (fld w 24 4) (fld w 12 6) (fld w 8 4) (fld w 2 6) (fld w 0 2)) else none
  | 25 => some (opVgthL (fld w 24 4) (fld w 23 1) (fld w 12 6) (fld w 8 4) (fld w 2 6) (fld w 0 2))
  | 26 => if fldNat w 23 1 = 0 then some (opVsctL (fld w 24 4) (fld w 12 6) (fld w 8 4) (fld w 2 6) (fld w 0 2)) else none
  | 27 => if fldNat w 0 2 = 0 ∧ fldNat w 23 1 = 0 then some (opPlst (fld w 24 4) (fld w 12 6) (fld w 8 4) (fld w 2 6)) else none
  | 28 => some (opVldb (fld w 24 4) (fld w 23 1) (fld w 12 6) (fld w 8 4) (fld w 2 6) (fld w 0 2))
  | 29 => if fldNat w 23 1 = 0 then some (opVstb (fld w 24 4) (fld w 12 6) (fld w 8 4) (fld w 2 6) (fld w 0 2)) else none
  | 30 => if fldNat w 0 2 = 0 ∧ fldNat w 8 4 = 0 ∧ fldNat w 17 1 = 0 ∧ fldNat w 23 1 = 0 then some (opXlt (fld w 24 4) (fld w 16 1) (fld w 12 4) (fld w 2 6)) else none
  | 31 => if fldNat w 0 12 = 0 ∧ fldNat w 16 2 = 0 ∧ fldNat w 23 1 = 0 then some (opHdrop (fld w 24 4) (fld w 12 4)) else none
  | _ => none

theorem opsMemory_eq (w : BitVec 32) : (decodeMemory w).toOption.bind slotInfo = opsMemory w := by
  unfold decodeMemory opsMemory
  generalize fldNat w 18 5 = n
  iterate 32
    rcases n with _ | n
    · first | rfl | exact opIf rfl rfl | exact opIf rfl (opIf rfl rfl) | exact opIf rfl (opIf rfl (opIf rfl rfl)) |
        exact opIf rfl (opIf rfl (opIf rfl (opIf rfl rfl)))
  rfl

/-- The operations of decodeUnit. -/
def opsUnit (w : BitVec 32) : Option Op :=
  match fldNat w 18 5 with
  | 0 => if fldNat w 23 1 = 0 then some (opAadd (fld w 24 4) (fld w 12 6) (fld w 8 4) (fld w 2 6) (fld w 0 2)) else none
  | 1 => if fldNat w 23 1 = 0 then some (opAand (fld w 24 4) (fld w 12 6) (fld w 8 4) (fld w 2 6) (fld w 0 2)) else none
  | 2 => if fldNat w 23 1 = 0 then some (opAor (fld w 24 4) (fld w 12 6) (fld w 8 4) (fld w 2 6) (fld w 0 2)) else none
  | 3 => if fldNat w 23 1 = 0 then some (opAxor (fld w 24 4) (fld w 12 6) (fld w 8 4) (fld w 2 6) (fld w 0 2)) else none
  | 4 => if fldNat w 23 1 = 0 then some (opAmin (fld w 24 4) (fld w 12 6) (fld w 8 4) (fld w 2 6) (fld w 0 2)) else none
  | 5 => if fldNat w 23 1 = 0 then some (opAmax (fld w 24 4) (fld w 12 6) (fld w 8 4) (fld w 2 6) (fld w 0 2)) else none
  | 6 => if fldNat w 23 1 = 0 then some (opAminn (fld w 24 4) (fld w 12 6) (fld w 8 4) (fld w 2 6) (fld w 0 2)) else none
  | 7 => if fldNat w 23 1 = 0 then some (opAmaxn (fld w 24 4) (fld w 12 6) (fld w 8 4) (fld w 2 6) (fld w 0 2)) else none
  | 8 => if fldNat w 23 1 = 0 then some (opAswp (fld w 24 4) (fld w 12 6) (fld w 8 4) (fld w 2 6) (fld w 0 2)) else none
  | 9 => if fldNat w 23 1 = 0 then some (opAcas (fld w 24 4) (fld w 12 6) (fld w 8 4) (fld w 2 6) (fld w 0 2)) else none
  | 10 => if fldNat w 23 1 = 0 then some (opAfadd (fld w 24 4) (fld w 12 6) (fld w 8 4) (fld w 2 6) (fld w 0 2)) else none
  | 11 => if fldNat w 16 2 = 0 ∧ fldNat w 23 1 = 0 then some (opHbind (fld w 24 4) (fld w 12 4) (fld w 6 6) (fld w 0 6)) else none
  | 12 => if fldNat w 16 2 = 0 ∧ fldNat w 23 1 = 0 then some (opHacqX (fld w 24 4) (fld w 12 4) (fld w 6 6) (fld w 0 6)) else if fldNat w 16 2 = 1 ∧ fldNat w 23 1 = 0 then some (opHacqS (fld w 24 4) (fld w 12 4) (fld w 6 6) (fld w 0 6)) else none
  | 13 => if fldNat w 16 2 = 0 ∧ fldNat w 23 1 = 0 then some (opHrel (fld w 24 4) (fld w 12 4) (fld w 6 6) (fld w 0 6)) else none
  | 14 => if fldNat w 2 16 = 0 ∧ fldNat w 23 1 = 0 then some (opFenceRel (fld w 24 4) (fld w 0 2)) else if fldNat w 2 16 = 1 ∧ fldNat w 23 1 = 0 then some (opFenceAcq (fld w 24 4) (fld w 0 2)) else if fldNat w 2 16 = 2 ∧ fldNat w 23 1 = 0 then some (opFenceAr (fld w 24 4) (fld w 0 2)) else none
  | 15 => if fldNat w 0 6 = 0 ∧ fldNat w 23 1 = 0 then some (opBara (fld w 24 4) (fld w 12 6) (fld w 6 6)) else none
  | 16 => if fldNat w 0 6 = 0 ∧ fldNat w 23 1 = 0 then some (opBarw (fld w 24 4) (fld w 12 6) (fld w 6 6)) else none
  | 17 => if fldNat w 0 6 = 0 ∧ fldNat w 15 3 = 0 ∧ fldNat w 23 1 = 0 then some (opTlwait (fld w 24 4) (fld w 12 3) (fld w 6 6)) else none
  | 18 => if fldNat w 0 6 = 0 ∧ fldNat w 9 3 = 0 ∧ fldNat w 23 1 = 0 then some (opTlrd (fld w 24 4) (fld w 12 6) (fld w 6 3)) else if fldNat w 0 6 = 1 ∧ fldNat w 9 3 = 0 ∧ fldNat w 23 1 = 0 then some (opTlrdSt (fld w 24 4) (fld w 12 6) (fld w 6 3)) else if fldNat w 0 6 = 2 ∧ fldNat w 9 3 = 0 ∧ fldNat w 23 1 = 0 then some (opTlrdStc (fld w 24 4) (fld w 12 6) (fld w 6 3)) else none
  | 19 => if fldNat w 0 12 = 0 ∧ fldNat w 23 1 = 0 then some (opTagw (fld w 24 4) (fld w 12 6)) else none
  | 20 => if fldNat w 0 12 = 0 ∧ fldNat w 23 1 = 0 then some (opTagffC (fld w 24 4) (fld w 12 6)) else if fldNat w 0 12 = 1 ∧ fldNat w 23 1 = 0 then some (opTagffS (fld w 24 4) (fld w 12 6)) else none
  | 21 => if fldNat w 0 6 = 0 ∧ fldNat w 23 1 = 0 then some (opCpy (fld w 24 4) (fld w 12 6) (fld w 6 6)) else none
  | 22 => if fldNat w 0 6 = 0 ∧ fldNat w 23 1 = 0 then some (opMvx (fld w 24 4) (fld w 12 6) (fld w 6 6)) else none
  | 23 => if fldNat w 23 1 = 0 then some (opQpush (fld w 24 4) (fld w 12 6) (fld w 6 6) (fld w 0 6)) else none
  | 24 => if fldNat w 0 6 = 0 ∧ fldNat w 23 1 = 0 then some (opQpop (fld w 24 4) (fld w 12 6) (fld w 6 6)) else none
  | 25 => if fldNat w 0 2 = 0 ∧ fldNat w 23 1 = 0 then some (opWopen (fld w 24 4) (fld w 12 6) (fld w 8 4) (fld w 2 6)) else none
  | 26 => if fldNat w 23 1 = 0 then some (opWcommit (fld w 24 4) (fld w 12 6) (fld w 6 6) (fld w 0 6)) else none
  | 27 => if fldNat w 0 12 = 0 ∧ fldNat w 23 1 = 0 then some (opWabortK (fld w 24 4) (fld w 12 6)) else if fldNat w 0 12 = 1 ∧ fldNat w 23 1 = 0 then some (opWabortF (fld w 24 4) (fld w 12 6)) else none
  | 28 => if fldNat w 0 2 = 1 ∧ fldNat w 8 4 = 0 ∧ fldNat w 23 1 = 0 then some (opPwatchR (fld w 24 4) (fld w 12 6) (fld w 2 6)) else if fldNat w 0 2 = 2 ∧ fldNat w 8 4 = 0 ∧ fldNat w 23 1 = 0 then some (opPwatchQ (fld w 24 4) (fld w 12 6) (fld w 2 6)) else if fldNat w 0 2 = 0 ∧ fldNat w 23 1 = 0 then some (opPwatchI (fld w 24 4) (fld w 12 6) (fld w 8 4) (fld w 2 6)) else none
  | 29 => if fldNat w 0 2 = 0 ∧ fldNat w 8 4 = 0 ∧ fldNat w 23 1 = 0 then some (opPdrop (fld w 24 4) (fld w 12 6) (fld w 2 6)) else none
  | 30 => if fldNat w 23 1 = 0 then some (opSmpq (fld w 24 4) (fld w 12 6) (fld w 6 6) (fld w 0 6)) else none
  | 31 => if fldNat w 0 6 = 0 ∧ fldNat w 16 2 = 0 ∧ fldNat w 23 1 = 0 then some (opTokrdy (fld w 24 4) (fld w 12 4) (fld w 6 6)) else if fldNat w 12 6 = 16 ∧ fldNat w 23 1 = 0 then some (opTokrdyS (fld w 24 4) (fld w 6 6) (fld w 0 6)) else none
  | _ => none

theorem opsUnit_eq (w : BitVec 32) : (decodeUnit w).toOption.bind slotInfo = opsUnit w := by
  unfold decodeUnit opsUnit
  generalize fldNat w 18 5 = n
  iterate 32
    rcases n with _ | n
    · first | rfl | exact opIf rfl rfl | exact opIf rfl (opIf rfl rfl) | exact opIf rfl (opIf rfl (opIf rfl rfl)) |
        exact opIf rfl (opIf rfl (opIf rfl (opIf rfl rfl)))
  rfl

/-- The operations of decodeSequencer. -/
def opsSequencer (w : BitVec 32) : Option Op :=
  match fldNat w 18 5 with
  | 0 => if fldNat w 23 1 = 0 then some (opLoop (fld w 24 4) (fld w 15 3) (fld w 12 3) (fld w 0 12)) else none
  | 1 => if fldNat w 23 1 = 0 then some (opLoopi (fld w 24 4) (fld w 15 3) (fld w 9 6) (fld w 0 9)) else none
  | 2 => if fldNat w 0 1 = 0 ∧ fldNat w 23 1 = 0 then some (opLstr (fld w 24 4) (fld w 15 3) (fld w 13 2) (fld w 7 6) (fld w 1 6)) else none
  | 3 => if fldNat w 0 15 = 0 ∧ fldNat w 23 1 = 0 then some (opLbrk (fld w 24 4) (fld w 15 3)) else none
  | 4 => if fldNat w 0 4 = 0 ∧ fldNat w 15 3 = 0 ∧ fldNat w 23 1 = 0 then some (opLcw (fld w 24 4) (fld w 11 4) (fld w 5 6) (fld w 4 1)) else none
  | _ => none

theorem opsSequencer_eq (w : BitVec 32) : (decodeSequencer w).toOption.bind slotInfo = opsSequencer w := by
  unfold decodeSequencer opsSequencer
  generalize fldNat w 18 5 = n
  iterate 5
    rcases n with _ | n
    · first | rfl | exact opIf rfl rfl | exact opIf rfl (opIf rfl rfl) | exact opIf rfl (opIf rfl (opIf rfl rfl)) |
        exact opIf rfl (opIf rfl (opIf rfl (opIf rfl rfl)))
  rfl

/-- The operations of decodeSystem. -/
def opsSystem (w : BitVec 32) : Option Op :=
  match fldNat w 18 5 with
  | 0 => if fldNat w 12 6 = 0 ∧ fldNat w 23 1 = 0 then some (opTrap (fld w 24 4) (fld w 6 6) (fld w 0 6)) else none
  | 1 => if fldNat w 0 6 = 0 ∧ fldNat w 23 1 = 0 then some (opMfs (fld w 24 4) (fld w 12 6) (fld w 6 6)) else none
  | 2 => if fldNat w 0 6 = 0 ∧ fldNat w 23 1 = 0 then some (opMts (fld w 24 4) (fld w 12 6) (fld w 6 6)) else none
  | 3 => if fldNat w 12 6 = 0 ∧ fldNat w 23 1 = 0 then some (opTrace (fld w 24 4) (fld w 6 6) (fld w 0 6)) else none
  | 4 => if fldNat w 6 12 = 0 ∧ fldNat w 23 1 = 0 then some (opBrkpt (fld w 24 4) (fld w 0 6)) else none
  | 5 => if fldNat w 0 12 = 0 ∧ fldNat w 23 1 = 0 then some (opIdle (fld w 24 4) (fld w 12 6)) else none
  | 6 => if fldNat w 0 6 = 4 ∧ fldNat w 23 1 = 0 then some (opBudqCcost (fld w 24 4) (fld w 12 6) (fld w 6 6)) else if fldNat w 6 6 = 0 ∧ fldNat w 23 1 = 0 then some (opBudq (fld w 24 4) (fld w 12 6) (fld w 0 6)) else none
  | 7 => if fldNat w 0 12 = 0 ∧ fldNat w 23 1 = 0 then some (opJrd (fld w 24 4) (fld w 12 6)) else if fldNat w 0 12 = 1 ∧ fldNat w 23 1 = 0 then some (opJrdL (fld w 24 4) (fld w 12 6)) else none
  | 8 => if fldNat w 0 12 = 0 ∧ fldNat w 23 1 = 0 then some (opThack (fld w 24 4) (fld w 12 6)) else none
  | 9 => if fldNat w 23 1 = 0 then some (opWpos (fld w 24 4) (fld w 12 6) (fld w 6 6) (fld w 0 6)) else none
  | 10 => if fldNat w 0 6 = 0 ∧ fldNat w 23 1 = 0 then some (opWalloc (fld w 24 4) (fld w 12 6) (fld w 6 6)) else none
  | 11 => if fldNat w 23 1 = 0 then some (opBtset (fld w 24 4) (fld w 12 6) (fld w 6 6) (fld w 0 6)) else none
  | 12 => if fldNat w 2 4 = 0 ∧ fldNat w 23 1 = 0 then some (opBtrd (fld w 24 4) (fld w 12 6) (fld w 6 6) (fld w 0 2)) else none
  | 13 => if fldNat w 23 1 = 0 then some (opStrn (fld w 24 4) (fld w 12 6) (fld w 6 6) (fld w 0 6)) else none
  | 14 => if fldNat w 23 1 = 0 then some (opLexp (fld w 24 4) (fld w 12 6) (fld w 6 6) (fld w 0 6)) else none
  | 15 => if fldNat w 10 2 = 0 ∧ fldNat w 23 1 = 0 then some (opDlbar (fld w 24 4) (fld w 12 6) (fld w 6 4) (fld w 0 6)) else none
  | _ => none

theorem opsSystem_eq (w : BitVec 32) : (decodeSystem w).toOption.bind slotInfo = opsSystem w := by
  unfold decodeSystem opsSystem
  generalize fldNat w 18 5 = n
  iterate 16
    rcases n with _ | n
    · first | rfl | exact opIf rfl rfl | exact opIf rfl (opIf rfl rfl) | exact opIf rfl (opIf rfl (opIf rfl rfl)) |
        exact opIf rfl (opIf rfl (opIf rfl (opIf rfl rfl)))
  rfl

/-- The operation of a word, by class. -/
def opsOfWord (w : BitVec 32) : Option Op :=
  match fldNat w 28 4 with
  | 0 => opsControl w
  | 1 => opsScalar w
  | 2 => opsFloat w
  | 3 => opsImmediate w
  | 4 => opsVec4 w
  | 5 => opsVec5 w
  | 6 => opsVec6 w
  | 7 => opsVec7 w
  | 8 => opsMatrix w
  | 9 => opsMatrixAux w
  | 10 => opsMemory w
  | 11 => opsUnit w
  | 12 => opsSequencer w
  | 13 => opsSystem w
  | _ => none

@[csimp] theorem slotInfoOfWord_eq : @slotInfoOfWord = @opsOfWord := by
  funext w
  unfold slotInfoOfWord opsOfWord decodeSlot
  generalize fldNat w 28 4 = n
  match n with
  | 0 => exact opsControl_eq w
  | 1 => exact opsScalar_eq w
  | 2 => exact opsFloat_eq w
  | 3 => exact opsImmediate_eq w
  | 4 => exact opsVec4_eq w
  | 5 => exact opsVec5_eq w
  | 6 => exact opsVec6_eq w
  | 7 => exact opsVec7_eq w
  | 8 => exact opsMatrix_eq w
  | 9 => exact opsMatrixAux_eq w
  | 10 => exact opsMemory_eq w
  | 11 => exact opsUnit_eq w
  | 12 => exact opsSequencer_eq w
  | 13 => exact opsSystem_eq w
  | 14 => rfl
  | _ + 15 => rfl

end Sys2Proof.Machine
end

