-- ==== Sys2Proof/Machine/ExecEvents.lean ====
section
/-! DEFINITION. The meaning of each event and host action: what it does to the machine where its condition holds; where it
does not, the machine is as it was (log entry 1). -/

namespace Sys2Proof.Machine

/-! ### Cycles of a core as events -/

/-- A word of a bundle as it is decoded (R31, R34, R36). -/
def cellOf (w : BitVec 32) : Cell :=
  let c := w.toNat / 2 ^ 28
  if w = 0 then .empty
  else if c = 14 then .header w
  else match slotInfoOfWord w with | some f => .op c f | none => .bad c (slotInfoOfWord (withoutReserved w))

/-- The next bundle of a context, from the instruction store of the core that fetches for it. -/
def fetchBundle (s : State) (c x : Nat) : Fetch :=
  let k := getCtx s c x
  match blockAt s c k.part k.pc.toNat with
  | none => .missing
  | some b => decodeBundle (isSampler c) k.pc.toNat ((bundleWords b k.pc.toNat).map cellOf)

/-- BUNDLE_ISSUE (R35): one cycle of a core. -/
def bundleIssue (s : State) (c : Nat) : State := coreCycle fetchBundle s c

/-- FIXED_RESULT_LAND (R58): the cycle at whose end a result of a core lands. -/
def landCycle (s : State) (c : Nat) : State :=
  if (upTo 8).any fun x => (getCtx s c x).flights.any fun f => f.left ≤ 1 then bundleIssue s c else s

/-- XLT_HANDLE_LAND (R60): the cycle at whose end a handle of a context lands. -/
def handleCycle (s : State) (c x : Nat) : State :=
  if (getCtx s c x).hflights.any fun f => f.left ≤ 1 then bundleIssue s c else s

/-- WATCHDOG_EXPIRY (R387): the 2^20th stall cycle of a bundle. -/
def watchdog (s : State) (c x : Nat) : State :=
  if (getCore s c).owner = some x ∧ (getCtx s c x).stall = 2 ^ 20 - 1 then bundleIssue s c else s

/-- SLEW_STEP_BOUNDARY (R318), every four cycles. -/
def slewEvent (s : State) (i : Nat) : State := if slewDue s i then stepIsland s i else s

/-- What is done to a context, resident or swapped out, that meets a test (R378). -/
def residentOrAway (s : State) (c x : Nat) (f : Ctx → Bool) (g : State → State) : State :=
  if f (getCtx s c x) then g s
  else match (getCore s c).shadow with
    | some sh => if f (mget sh.ctxs x {}) then inShadow s c g else s
    | none => s

/-- TRANSLATION_WALK_COMPLETE (R186). -/
def walkEvent (s : State) (c x h : Nat) : State :=
  residentOrAway s c x (fun k => (readH k h).pending) fun s => walkHandle s c x h

/-- FENCE_COMPLETE (R222). -/
def fenceEvent (s : State) (c x : Nat) : State :=
  residentOrAway s c x (fun k => k.hold.any fun h => match h with | .fence _ _ => true | _ => false) fun s => fenceComplete s c x

/-! ### Events that come at a time -/

/-- The state at a time to come, where no core has a cycle to begin, no steep boundary comes and no wait ends before it. -/
def reachTime (s : State) (t : Nat) : State :=
  if s.time < t ∧ t ≤ nextBoundary s ∧ inLimits s t = true ∧ ¬ ((trailing s).any fun c => (getCore s c).tnext < t) = true then
    { s with time := t }
  else s

/-- When the first placed task of an entry's number is to be offered (R258). -/
def coalesceTime (s : State) (e : Nat) : Option Nat :=
  (least ((s.peeps.filter fun p => p.1 % 256 = e).filterMap fun p => offerAt p.2)).map (· * unitsPerNs)
/-- When a stream's WAITMEM times out (R403). -/
def timeoutTime (s : State) (part n : Nat) : Option Nat :=
  match (getStream s part n).wait with
  | some d => if d = 0 then none else some (d * unitsPerNs)
  | none => none
/-- When an island's clock reduction is due (R317). -/
def reductionTime (s : State) (i : Nat) : Option Nat := (getIsland s i).reduce.map fun r => r.due * unitsPerNs

/-- An event at its time, if it has one. -/
def atTime (s : State) (t : Option Nat) (f : State → State) : State :=
  match t with
  | some t => f (reachTime s t)
  | none => f s

/-- The regions of the tasks that an expiry offers. -/
def offeredNow (s t : State) : List Nat :=
  ((s.tasks.filter fun k => !peepOffered s k.2.peep && peepOffered t k.2.peep).map fun k => k.2.region).eraseDups
/-- COALESCE_WINDOW_EXPIRY (R258): the tasks offered may be dispatched from now on (R293). -/
def coalesceEnd (s : State) (e : Nat) : State :=
  atTime s (coalesceTime s e) fun s =>
    let t := peepOffer s e
    (offeredNow s t).foldl dispatchRegion t
/-- WAITMEM_TIMEOUT (R403). -/
def timeoutEnd (s : State) (part n : Nat) : State := atTime s (timeoutTime s part n) fun s => csTimeout s part n
/-- CLOCK_REDUCTION (R317): as soon as every context that holds the warning has acknowledged it, or at DUE. -/
def reductionEnd (s : State) (i : Nat) : State :=
  if (s.ctxs.any fun e => e.1 / 32 = i && e.2.throt.getLsbD 0) = true then atTime s (reductionTime s i) fun s => clockReduce s i
  else clockReduce s i

/-! ### The meanings -/

/-- BUNDLE_ISSUE. -/
def execBundleIssue (core : Nat) (s : State) : Result := .next (bundleIssue s core)
/-- CONTEXT_SWITCH. -/
def execContextSwitch (core : Nat) (s : State) : Result := .next (switchIn s core)
/-- PREEMPT_FREEZE. -/
def execPreemptFreeze (core : Nat) (s : State) : Result := .next (preempt fetchBundle s core)
/-- ISSUE_QUANTUM_EXPIRY. -/
def execIssueQuantumExpiry (core : Nat) (s : State) : Result := .next (quantumExpiry fetchBundle s core)
/-- FIXED_RESULT_LAND. -/
def execFixedResultLand (core : Nat) (s : State) : Result := .next (landCycle s core)
/-- INTERLOCKED_COMPLETE. -/
def execInterlockedComplete (core ctx id : Nat) (s : State) : Result := .next (complete s core ctx id)
/-- IFETCH_FILL. -/
def execIfetchFill (core ctx : Nat) (s : State) : Result := .next (fetchFill s core ctx)
/-- CONTEXT_FREE. -/
def execContextFree (core ctx : Nat) (s : State) : Result := .next (contextFree s core ctx)
/-- MATRIX_ENTRY_START. -/
def execMatrixEntryStart (core : Nat) (s : State) : Result := .next (entryStart s core)
/-- MATRIX_ENTRY_END. -/
def execMatrixEntryEnd (core : Nat) (s : State) : Result := .next (entryEnd s core)
/-- CHAIN_WRITEBACK_DONE. -/
def execChainWritebackDone (core : Nat) (s : State) : Result := .next (writebackDone s core)
/-- SLEW_STEP_BOUNDARY. -/
def execSlewStepBoundary (island : Nat) (s : State) : Result := .next (slewEvent s island)
/-- TRANSLATION_WALK_COMPLETE. -/
def execTranslationWalkComplete (core ctx h : Nat) (s : State) : Result := .next (walkEvent s core ctx h)
/-- XLT_HANDLE_LAND. -/
def execXltHandleLand (core ctx : Nat) (s : State) : Result := .next (handleCycle s core ctx)
/-- HANDLE_RETRANSLATE. -/
def execHandleRetranslate (core ctx h : Nat) (s : State) : Result := .next (retranslate s core ctx h)
/-- LINE_CACHE_EVICT. -/
def execLineCacheEvict (core line : Nat) (s : State) : Result := .next (evictLine s core line)
/-- SLICE_STORE_PERFORM. -/
def execSliceStorePerform (id : Nat) (s : State) : Result := .next (performStore s id)
/-- PEEPHOLE_HELD_PLACE. -/
def execPeepholeHeldPlace (entry : Nat) (s : State) : Result := .next (peepPlace s entry)
/-- COALESCE_WINDOW_EXPIRY. -/
def execCoalesceWindowExpiry (entry : Nat) (s : State) : Result := .next (coalesceEnd s entry)
/-- CLU_ATOMIC_WRITEBACK. -/
def execCluAtomicWriteback (cluster line : Nat) (s : State) : Result := .next (cluWriteBack s cluster line)
/-- HOST_STORE. -/
def execHostStore (pa : Nat) (bytes : List (BitVec 8)) (poisoned : Bool) (s : State) : Result :=
  .next (hostStore s pa bytes poisoned)
/-- HOST_LOAD. -/
def execHostLoad (pa n : Nat) (s : State) : Result := .next (hostLoad s pa n)
/-- REPLICA_INVALIDATE_ACK. -/
def execReplicaInvalidateAck (id cluster : Nat) (s : State) : Result := .next (replicaAck s id cluster)
/-- HACQ_GRANT. -/
def execHacqGrant (addr : Nat) (s : State) : Result := .next (hacqGrant s addr)
/-- FENCE_COMPLETE. -/
def execFenceComplete (core ctx : Nat) (s : State) : Result := .next (fenceEvent s core ctx)
/-- ENGINE_OP_START. -/
def execEngineOpStart (cluster part e : Nat) (s : State) : Result := .next (opStart s (engineKey cluster part e))
/-- ENGINE_OP_COMPLETE. -/
def execEngineOpComplete (cluster part e : Nat) (s : State) : Result := .next (opComplete s cluster part e)
/-- TLWAIT_COMPLETE. -/
def execTlwaitComplete (core ctx : Nat) (s : State) : Result := .next (tlwaitEnd s core ctx)
/-- TAGW_SATISFIED. -/
def execTagwSatisfied (core ctx : Nat) (s : State) : Result := .next (tagwEnd s core ctx)
/-- MWAITB_SATISFIED. -/
def execMwaitbSatisfied (core ctx : Nat) (s : State) : Result := .next (mwaitbEnd s core ctx)
/-- BARW_RELEASE. -/
def execBarwRelease (core ctx : Nat) (s : State) : Result := .next (barwEnd s core ctx)
/-- QPOP_GRANT. -/
def execQpopGrant (queue : Nat) (s : State) : Result := .next (qpopGrant s queue)
/-- DLBAR_READY. -/
def execDlbarReady (core ctx : Nat) (s : State) : Result := .next (dlbarReady s core ctx)
/-- DLBAR_TIMEOUT. -/
def execDlbarTimeout (core ctx : Nat) (s : State) : Result := .next (dlbarTimeout s core ctx)
/-- IDLE_EXPIRY. -/
def execIdleExpiry (core ctx : Nat) (s : State) : Result := .next (idleEnd s core ctx)
/-- WINDOW_STORE_ACCEPT. -/
def execWindowStoreAccept (core ctx _id : Nat) (s : State) : Result := .next (windowAccept s core ctx)
/-- WINDOW_COMMIT_POINT. -/
def execWindowCommitPoint (core ctx id : Nat) (s : State) : Result := .next (commitPoint s core ctx id)
/-- WINDOW_CLOSE_COMPLETE. -/
def execWindowCloseComplete (w : Nat) (s : State) : Result := .next (windowClose s w)
/-- TASK_QUEUE_POP. -/
def execTaskQueuePop (queue : Nat) (s : State) : Result := .next (taskPop s queue)
/-- STEEP_BOUNDARY. -/
def execSteepBoundary (s : State) : Result := .next (steep s)
/-- CLOCK_REDUCTION. -/
def execClockReduction (island : Nat) (s : State) : Result := .next (reductionEnd s island)
/-- DROOP_DETECT. -/
def execDroopDetect (island : Nat) (s : State) : Result := .next (droopStart s island)
/-- STRETCH_EPISODE_END. -/
def execStretchEpisodeEnd (island : Nat) (s : State) : Result := .next (droopEnd s island)
/-- ISLAND_POWER_GATE. -/
def execIslandPowerGate (island : Nat) (s : State) : Result := .next (powerGate s island)
/-- ISLAND_UNGATE. -/
def execIslandUngate (island : Nat) (s : State) : Result := .next (ungate s island)
/-- SAMPLER_JOB_START. -/
def execSamplerJobStart (n : Nat) (s : State) : Result := .next (jobStart s n)
/-- SAMPLER_RESTART. -/
def execSamplerRestart (n : Nat) (s : State) : Result := .next (samplerRestart s n)
/-- SHUTTER_GO. -/
def execShutterGo (part : Nat) (s : State) : Result := .next (shutterGo s part)
/-- SHUTTER_ACK. -/
def execShutterAck (part agent : Nat) (s : State) : Result := .next (shutterAck s part agent)
/-- SHUTTER_COMPLETE. -/
def execShutterComplete (part : Nat) (s : State) : Result := .next (shutterComplete s part)
/-- FIRMWARE_FAULT_SERVICE. -/
def execFirmwareFaultService (s : State) : Result := .next (faultService s)
/-- FAULT_REPORT_WRITE. -/
def execFaultReportWrite (s : State) : Result := .next (reportWrite s)
/-- FAULT_DISPOSITION. -/
def execFaultDisposition (s : State) : Result := .next (disposition s)
/-- SWAP_ORDER. -/
def execSwapOrder (island part : Nat) (s : State) : Result := .next (swapOrder (boundaryFault fetchBundle) s island part)
/-- SWAP_EXCHANGE. -/
def execSwapExchange (island : Nat) (s : State) : Result := .next (swapExchange s island)
/-- ERROR_ROW_TEST_DONE. -/
def execErrorRowTestDone (id left : Nat) (pass : Bool) (s : State) : Result := .next (rowTest s id left pass)
/-- WATCHDOG_EXPIRY. -/
def execWatchdogExpiry (core ctx : Nat) (s : State) : Result := .next (watchdog s core ctx)
/-- MODULE_RESET. -/
def execModuleReset (s : State) : Result := .next (moduleReset s)
/-- LINK_TRAIN. -/
def execLinkTrain (ok wide : Bool) (s : State) : Result := .next (trainLink s ok wide)
/-- FWCTL_GO. -/
def execFwctlGo (s : State) : Result := .next (fwctlGo s)
/-- FW_CHECK_DONE. -/
def execFwCheckDone (fail : Nat) (s : State) : Result := .next (fwCheckDone s fail)
/-- FWCTL_START. -/
def execFwctlStart (s : State) : Result := .next (fwctlStart s)
/-- PWRLIM_WRITE. -/
def execPwrlimWrite (v : Nat) (s : State) : Result := .next (pwrlimWrite s v)
/-- REGISTER_WRITE. -/
def execRegisterWrite (off v : Nat) (s : State) : Result := .next (registerWrite s off v)
/-- PCREATE. -/
def execPcreate (part : Nat) (s : State) : Result := .next (pcreate s part)
/-- PDESTROY. -/
def execPdestroy (part : Nat) (s : State) : Result := .next (pdestroy s part)
/-- PSTOP. -/
def execPstop (part : Nat) (s : State) : Result := .next (pstop s part)
/-- PRESUME. -/
def execPresume (part : Nat) (s : State) : Result := .next (presume s part)
/-- SETCOST. -/
def execSetcost (part : Nat) (s : State) : Result := .next (setcost s part)
/-- SETRAMP. -/
def execSetramp (part : Nat) (s : State) : Result := .next (setramp s part)
/-- QCREATE. -/
def execQcreate (part : Nat) (s : State) : Result := .next (qcreate s part)
/-- QDESTROY. -/
def execQdestroy (part : Nat) (s : State) : Result := .next (qdestroy s part)
/-- PMAP. -/
def execPmap (part : Nat) (s : State) : Result := .next (pmap s part)
/-- FSVC. -/
def execFsvc (part : Nat) (s : State) : Result := .next (fsvc s part)
/-- PSTATS. -/
def execPstats (part : Nat) (s : State) : Result := .next (pstats s part)
/-- FSRESP_WRITE. -/
def execFsrespWrite (v : Nat) (s : State) : Result := .next (fsresp s v)
/-- EVTAIL_WRITE. -/
def execEvtailWrite (v : Nat) (s : State) : Result := .next (evtailWrite s v)
/-- CSCTL_RESET. -/
def execCsctlReset (part n v : Nat) (s : State) : Result := .next (csctl s part n (v ||| 0x200))
/-- CSCTL_WRITE. -/
def execCsctlWrite (part n v : Nat) (s : State) : Result := .next (csctl s part n v)
/-- CSTAIL_WRITE. -/
def execCstailWrite (part n v : Nat) (s : State) : Result := .next (cstail s part n v)
/-- CS_BLOCK_FETCH. -/
def execCsBlockFetch (part n level block : Nat) (s : State) : Result := .next (blockFetch s part n level block)
/-- CS_NOP. -/
def execCsNop (part n : Nat) (s : State) : Result := .next (csNop s part n)
/-- LAUNCH_CREATE. -/
def execLaunchCreate (part n : Nat) (s : State) : Result := .next (launchCreate s part n)
/-- LAUNCH_PUSH. -/
def execLaunchPush (part n : Nat) (s : State) : Result := .next (launchPush s part n)
/-- LAUNCH_CANCEL. -/
def execLaunchCancel (part n : Nat) (s : State) : Result := .next (launchCancel s part n)
/-- LAUNCH_DESTROY. -/
def execLaunchDestroy (part n : Nat) (s : State) : Result := .next (launchDestroy s part n)
/-- LAUNCH_RELOAD. -/
def execLaunchReload (part n : Nat) (s : State) : Result := .next (launchReload s part n)
/-- WRITE32. -/
def execWrite32 (part n : Nat) (s : State) : Result := .next (csWrite32 s part n)
/-- WRITE32_CONSENT. -/
def execWrite32Consent (part n : Nat) (s : State) : Result := .next (csConsent s part n)
/-- WRITE64. -/
def execWrite64 (part n : Nat) (s : State) : Result := .next (csWrite64 s part n)
/-- WAITMEM. -/
def execWaitmem (part n : Nat) (s : State) : Result := .next (csWaitmem s part n)
/-- WAITMEM_SATISFIED. -/
def execWaitmemSatisfied (part n : Nat) (s : State) : Result := .next (csSatisfied s part n)
/-- WAITMEM_TIMEOUT. -/
def execWaitmemTimeout (part n : Nat) (s : State) : Result := .next (timeoutEnd s part n)
/-- PRED. -/
def execPred (part n : Nat) (s : State) : Result := .next (csPred s part n)
/-- IB. -/
def execIbuf (part n : Nat) (s : State) : Result := .next (csIbuf s part n)
/-- LOOPP. -/
def execLoopp (part n : Nat) (s : State) : Result := .next (csLoopp s part n)
/-- FFENCE. -/
def execFfence (part n : Nat) (s : State) : Result := .next (csFfence s part n)
/-- SIGNAL. -/
def execSignal (part n : Nat) (s : State) : Result := .next (csSignal s part n)
/-- HALT_REQUEST. -/
def execHaltRequest (core v : Nat) (s : State) : Result := .next (haltRequest s core v)
/-- HALT_LAND. -/
def execHaltLand (core ctx : Nat) (s : State) : Result := .next (haltLand s core ctx)
/-- HALT_TIMEOUT. -/
def execHaltTimeout (core ctx : Nat) (s : State) : Result := .next (haltTimeout s core ctx)
/-- RESUME_REQUEST. -/
def execResumeRequest (core v : Nat) (s : State) : Result := .next (resumeRequest s core v)
/-- TRPOP_WRITE. -/
def execTrpopWrite (core : Nat) (s : State) : Result := .next (trpop s core)
/-- D3HOT_ENTRY. -/
def execD3hotEntry (s : State) : Result := .next (d3hotEntry s)
/-- D3HOT_EXIT. -/
def execD3hotExit (s : State) : Result := .next (d3hotExit s)
/-- D3COLD. -/
def execD3cold (s : State) : Result := .next (d3cold s)
/-- LINK_ERROR. -/
def execLinkError (log : Nat) (s : State) : Result := .next (linkErrorEvent s log)

end Sys2Proof.Machine
end

