-- ==== Sys2Proof/Machine/Dispatch.lean ====
section
/-! DEFINITION. One arm for each row of spec/opcode_table.json. -/

namespace Sys2Proof.Machine

def exec (i : Instr) (s : State) : Host.Outcome State Fault Refusal :=
  match i with
  | .bundleIssue core => Sys2Proof.Machine.execBundleIssue core s
  | .contextSwitch core => Sys2Proof.Machine.execContextSwitch core s
  | .preemptFreeze core => Sys2Proof.Machine.execPreemptFreeze core s
  | .issueQuantumExpiry core => Sys2Proof.Machine.execIssueQuantumExpiry core s
  | .fixedResultLand core => Sys2Proof.Machine.execFixedResultLand core s
  | .interlockedComplete core ctx id => Sys2Proof.Machine.execInterlockedComplete core ctx id s
  | .ifetchFill core ctx => Sys2Proof.Machine.execIfetchFill core ctx s
  | .contextFree core ctx => Sys2Proof.Machine.execContextFree core ctx s
  | .matrixEntryStart core => Sys2Proof.Machine.execMatrixEntryStart core s
  | .matrixEntryEnd core => Sys2Proof.Machine.execMatrixEntryEnd core s
  | .chainWritebackDone core => Sys2Proof.Machine.execChainWritebackDone core s
  | .slewStepBoundary island => Sys2Proof.Machine.execSlewStepBoundary island s
  | .translationWalkComplete core ctx h => Sys2Proof.Machine.execTranslationWalkComplete core ctx h s
  | .xltHandleLand core ctx => Sys2Proof.Machine.execXltHandleLand core ctx s
  | .handleRetranslate core ctx h => Sys2Proof.Machine.execHandleRetranslate core ctx h s
  | .lineCacheEvict core line => Sys2Proof.Machine.execLineCacheEvict core line s
  | .sliceStorePerform id => Sys2Proof.Machine.execSliceStorePerform id s
  | .peepholeHeldPlace entry => Sys2Proof.Machine.execPeepholeHeldPlace entry s
  | .coalesceWindowExpiry entry => Sys2Proof.Machine.execCoalesceWindowExpiry entry s
  | .cluAtomicWriteback cluster line => Sys2Proof.Machine.execCluAtomicWriteback cluster line s
  | .hostStore pa bytes poisoned => Sys2Proof.Machine.execHostStore pa bytes poisoned s
  | .hostLoad pa n => Sys2Proof.Machine.execHostLoad pa n s
  | .replicaInvalidateAck id cluster => Sys2Proof.Machine.execReplicaInvalidateAck id cluster s
  | .hacqGrant addr => Sys2Proof.Machine.execHacqGrant addr s
  | .fenceComplete core ctx => Sys2Proof.Machine.execFenceComplete core ctx s
  | .engineOpStart cluster part e => Sys2Proof.Machine.execEngineOpStart cluster part e s
  | .engineOpComplete cluster part e => Sys2Proof.Machine.execEngineOpComplete cluster part e s
  | .tlwaitComplete core ctx => Sys2Proof.Machine.execTlwaitComplete core ctx s
  | .tagwSatisfied core ctx => Sys2Proof.Machine.execTagwSatisfied core ctx s
  | .mwaitbSatisfied core ctx => Sys2Proof.Machine.execMwaitbSatisfied core ctx s
  | .barwRelease core ctx => Sys2Proof.Machine.execBarwRelease core ctx s
  | .qpopGrant queue => Sys2Proof.Machine.execQpopGrant queue s
  | .dlbarReady core ctx => Sys2Proof.Machine.execDlbarReady core ctx s
  | .dlbarTimeout core ctx => Sys2Proof.Machine.execDlbarTimeout core ctx s
  | .idleExpiry core ctx => Sys2Proof.Machine.execIdleExpiry core ctx s
  | .windowStoreAccept core ctx id => Sys2Proof.Machine.execWindowStoreAccept core ctx id s
  | .windowCommitPoint core ctx id => Sys2Proof.Machine.execWindowCommitPoint core ctx id s
  | .windowCloseComplete w => Sys2Proof.Machine.execWindowCloseComplete w s
  | .taskQueuePop queue => Sys2Proof.Machine.execTaskQueuePop queue s
  | .steepBoundary => Sys2Proof.Machine.execSteepBoundary s
  | .clockReduction island => Sys2Proof.Machine.execClockReduction island s
  | .droopDetect island => Sys2Proof.Machine.execDroopDetect island s
  | .stretchEpisodeEnd island => Sys2Proof.Machine.execStretchEpisodeEnd island s
  | .islandPowerGate island => Sys2Proof.Machine.execIslandPowerGate island s
  | .islandUngate island => Sys2Proof.Machine.execIslandUngate island s
  | .samplerJobStart n => Sys2Proof.Machine.execSamplerJobStart n s
  | .samplerRestart n => Sys2Proof.Machine.execSamplerRestart n s
  | .shutterGo part => Sys2Proof.Machine.execShutterGo part s
  | .shutterAck part agent => Sys2Proof.Machine.execShutterAck part agent s
  | .shutterComplete part => Sys2Proof.Machine.execShutterComplete part s
  | .firmwareFaultService => Sys2Proof.Machine.execFirmwareFaultService s
  | .faultReportWrite => Sys2Proof.Machine.execFaultReportWrite s
  | .faultDisposition => Sys2Proof.Machine.execFaultDisposition s
  | .swapOrder island part => Sys2Proof.Machine.execSwapOrder island part s
  | .swapExchange island => Sys2Proof.Machine.execSwapExchange island s
  | .errorRowTestDone id left pass => Sys2Proof.Machine.execErrorRowTestDone id left pass s
  | .watchdogExpiry core ctx => Sys2Proof.Machine.execWatchdogExpiry core ctx s
  | .moduleReset => Sys2Proof.Machine.execModuleReset s
  | .linkTrain ok wide => Sys2Proof.Machine.execLinkTrain ok wide s
  | .fwctlGo => Sys2Proof.Machine.execFwctlGo s
  | .fwCheckDone fail => Sys2Proof.Machine.execFwCheckDone fail s
  | .fwctlStart => Sys2Proof.Machine.execFwctlStart s
  | .pwrlimWrite v => Sys2Proof.Machine.execPwrlimWrite v s
  | .registerWrite off v => Sys2Proof.Machine.execRegisterWrite off v s
  | .pcreate part => Sys2Proof.Machine.execPcreate part s
  | .pdestroy part => Sys2Proof.Machine.execPdestroy part s
  | .pstop part => Sys2Proof.Machine.execPstop part s
  | .presume part => Sys2Proof.Machine.execPresume part s
  | .setcost part => Sys2Proof.Machine.execSetcost part s
  | .setramp part => Sys2Proof.Machine.execSetramp part s
  | .qcreate part => Sys2Proof.Machine.execQcreate part s
  | .qdestroy part => Sys2Proof.Machine.execQdestroy part s
  | .pmap part => Sys2Proof.Machine.execPmap part s
  | .fsvc part => Sys2Proof.Machine.execFsvc part s
  | .pstats part => Sys2Proof.Machine.execPstats part s
  | .fsrespWrite v => Sys2Proof.Machine.execFsrespWrite v s
  | .evtailWrite v => Sys2Proof.Machine.execEvtailWrite v s
  | .csctlReset part n v => Sys2Proof.Machine.execCsctlReset part n v s
  | .csctlWrite part n v => Sys2Proof.Machine.execCsctlWrite part n v s
  | .cstailWrite part n v => Sys2Proof.Machine.execCstailWrite part n v s
  | .csBlockFetch part n level block => Sys2Proof.Machine.execCsBlockFetch part n level block s
  | .csNop part n => Sys2Proof.Machine.execCsNop part n s
  | .launchCreate part n => Sys2Proof.Machine.execLaunchCreate part n s
  | .launchPush part n => Sys2Proof.Machine.execLaunchPush part n s
  | .launchCancel part n => Sys2Proof.Machine.execLaunchCancel part n s
  | .launchDestroy part n => Sys2Proof.Machine.execLaunchDestroy part n s
  | .launchReload part n => Sys2Proof.Machine.execLaunchReload part n s
  | .write32 part n => Sys2Proof.Machine.execWrite32 part n s
  | .write32Consent part n => Sys2Proof.Machine.execWrite32Consent part n s
  | .write64 part n => Sys2Proof.Machine.execWrite64 part n s
  | .waitmem part n => Sys2Proof.Machine.execWaitmem part n s
  | .waitmemSatisfied part n => Sys2Proof.Machine.execWaitmemSatisfied part n s
  | .waitmemTimeout part n => Sys2Proof.Machine.execWaitmemTimeout part n s
  | .pred part n => Sys2Proof.Machine.execPred part n s
  | .ibuf part n => Sys2Proof.Machine.execIbuf part n s
  | .loopp part n => Sys2Proof.Machine.execLoopp part n s
  | .ffence part n => Sys2Proof.Machine.execFfence part n s
  | .signal part n => Sys2Proof.Machine.execSignal part n s
  | .haltRequest core v => Sys2Proof.Machine.execHaltRequest core v s
  | .haltLand core ctx => Sys2Proof.Machine.execHaltLand core ctx s
  | .haltTimeout core ctx => Sys2Proof.Machine.execHaltTimeout core ctx s
  | .resumeRequest core v => Sys2Proof.Machine.execResumeRequest core v s
  | .trpopWrite core => Sys2Proof.Machine.execTrpopWrite core s
  | .d3hotEntry => Sys2Proof.Machine.execD3hotEntry s
  | .d3hotExit => Sys2Proof.Machine.execD3hotExit s
  | .d3cold => Sys2Proof.Machine.execD3cold s
  | .linkError log => Sys2Proof.Machine.execLinkError log s
  | .nop g => Sys2Proof.Machine.execNop g s
  | .br g o => Sys2Proof.Machine.execBr g o s
  | .brs g a => Sys2Proof.Machine.execBrs g a s
  | .call g o => Sys2Proof.Machine.execCall g o s
  | .ret g => Sys2Proof.Machine.execRet g s
  | .yield g => Sys2Proof.Machine.execYield g s
  | .yieldC g => Sys2Proof.Machine.execYieldC g s
  | .endTask g => Sys2Proof.Machine.execEndTask g s
  | .spawn g a b c => Sys2Proof.Machine.execSpawn g a b c s
  | .loop g l r_s n => Sys2Proof.Machine.execLoop g l r_s n s
  | .loopi g l t n => Sys2Proof.Machine.execLoopi g l t n s
  | .lstr g l k a b => Sys2Proof.Machine.execLstr g l k a b s
  | .lbrk g l => Sys2Proof.Machine.execLbrk g l s
  | .lcw g p r_i x => Sys2Proof.Machine.execLcw g p r_i x s
  | .add g q d a b => Sys2Proof.Machine.execAdd g q d a b s
  | .sub g q d a b => Sys2Proof.Machine.execSub g q d a b s
  | .mul g q d a b => Sys2Proof.Machine.execMul g q d a b s
  | .mulh g q d a b => Sys2Proof.Machine.execMulh g q d a b s
  | .mulhn g q d a b => Sys2Proof.Machine.execMulhn g q d a b s
  | .div g q d a b => Sys2Proof.Machine.execDiv g q d a b s
  | .divn g q d a b => Sys2Proof.Machine.execDivn g q d a b s
  | .rem g q d a b => Sys2Proof.Machine.execRem g q d a b s
  | .remn g q d a b => Sys2Proof.Machine.execRemn g q d a b s
  | .and g q d a b => Sys2Proof.Machine.execAnd g q d a b s
  | .or g q d a b => Sys2Proof.Machine.execOr g q d a b s
  | .xor g q d a b => Sys2Proof.Machine.execXor g q d a b s
  | .andn g q d a b => Sys2Proof.Machine.execAndn g q d a b s
  | .shl g q d a b => Sys2Proof.Machine.execShl g q d a b s
  | .shr g q d a b => Sys2Proof.Machine.execShr g q d a b s
  | .sar g q d a b => Sys2Proof.Machine.execSar g q d a b s
  | .rol g q d a b => Sys2Proof.Machine.execRol g q d a b s
  | .min g q d a b => Sys2Proof.Machine.execMin g q d a b s
  | .max g q d a b => Sys2Proof.Machine.execMax g q d a b s
  | .minn g q d a b => Sys2Proof.Machine.execMinn g q d a b s
  | .maxn g q d a b => Sys2Proof.Machine.execMaxn g q d a b s
  | .shadd1 g q d a b => Sys2Proof.Machine.execShadd1 g q d a b s
  | .shadd2 g q d a b => Sys2Proof.Machine.execShadd2 g q d a b s
  | .shadd3 g q d a b => Sys2Proof.Machine.execShadd3 g q d a b s
  | .cmpeq g q p a b => Sys2Proof.Machine.execCmpeq g q p a b s
  | .cmpne g q p a b => Sys2Proof.Machine.execCmpne g q p a b s
  | .cmplt g q p a b => Sys2Proof.Machine.execCmplt g q p a b s
  | .cmple g q p a b => Sys2Proof.Machine.execCmple g q p a b s
  | .cmpltn g q p a b => Sys2Proof.Machine.execCmpltn g q p a b s
  | .cmplen g q p a b => Sys2Proof.Machine.execCmplen g q p a b s
  | .fadd g q d a b => Sys2Proof.Machine.execFadd g q d a b s
  | .fsub g q d a b => Sys2Proof.Machine.execFsub g q d a b s
  | .fmul g q d a b => Sys2Proof.Machine.execFmul g q d a b s
  | .ffma g q d a b => Sys2Proof.Machine.execFfma g q d a b s
  | .fdiv g q d a b => Sys2Proof.Machine.execFdiv g q d a b s
  | .fsqrt g q d a => Sys2Proof.Machine.execFsqrt g q d a s
  | .fmin g q d a b => Sys2Proof.Machine.execFmin g q d a b s
  | .fmax g q d a b => Sys2Proof.Machine.execFmax g q d a b s
  | .fabs g q d a => Sys2Proof.Machine.execFabs g q d a s
  | .fneg g q d a => Sys2Proof.Machine.execFneg g q d a s
  | .fceq g q p a b => Sys2Proof.Machine.execFceq g q p a b s
  | .fclt g q p a b => Sys2Proof.Machine.execFclt g q p a b s
  | .fcle g q p a b => Sys2Proof.Machine.execFcle g q p a b s
  | .fcun g q p a b => Sys2Proof.Machine.execFcun g q p a b s
  | .fcvtif g q d a v => Sys2Proof.Machine.execFcvtif g q d a v s
  | .fcvtfi g q d a v => Sys2Proof.Machine.execFcvtfi g q d a v s
  | .fexp2 g q d a => Sys2Proof.Machine.execFexp2 g q d a s
  | .flog2 g q d a => Sys2Proof.Machine.execFlog2 g q d a s
  | .clz g q d a => Sys2Proof.Machine.execClz g q d a s
  | .ctz g q d a => Sys2Proof.Machine.execCtz g q d a s
  | .popc g q d a => Sys2Proof.Machine.execPopc g q d a s
  | .sext g q d a n => Sys2Proof.Machine.execSext g q d a n s
  | .zext g q d a n => Sys2Proof.Machine.execZext g q d a n s
  | .bfx g q d a b => Sys2Proof.Machine.execBfx g q d a b s
  | .bfxn g q d a b => Sys2Proof.Machine.execBfxn g q d a b s
  | .bfi g q d a b => Sys2Proof.Machine.execBfi g q d a b s
  | .mov g q d a => Sys2Proof.Machine.execMov g q d a s
  | .movp g q p a f b => Sys2Proof.Machine.execMovp g q p a f b s
  | .movtp g q p a => Sys2Proof.Machine.execMovtp g q p a s
  | .addi g q d a r_i => Sys2Proof.Machine.execAddi g q d a r_i s
  | .muli g q d a r_i => Sys2Proof.Machine.execMuli g q d a r_i s
  | .andi g q d a r_i => Sys2Proof.Machine.execAndi g q d a r_i s
  | .ori g q d a r_i => Sys2Proof.Machine.execOri g q d a r_i s
  | .xori g q d a r_i => Sys2Proof.Machine.execXori g q d a r_i s
  | .shli g q d a r_i => Sys2Proof.Machine.execShli g q d a r_i s
  | .shri g q d a r_i => Sys2Proof.Machine.execShri g q d a r_i s
  | .sari g q d a r_i => Sys2Proof.Machine.execSari g q d a r_i s
  | .cmpeqi g q p a r_i => Sys2Proof.Machine.execCmpeqi g q p a r_i s
  | .cmpnei g q p a r_i => Sys2Proof.Machine.execCmpnei g q p a r_i s
  | .cmplti g q p a r_i => Sys2Proof.Machine.execCmplti g q p a r_i s
  | .cmpltni g q p a r_i => Sys2Proof.Machine.execCmpltni g q p a r_i s
  | .movi g q d r_i => Sys2Proof.Machine.execMovi g q d r_i s
  | .movhi g q d r_i => Sys2Proof.Machine.execMovhi g q d r_i s
  | .vadd g q t d a b => Sys2Proof.Machine.execVadd g q t d a b s
  | .vsub g q t d a b => Sys2Proof.Machine.execVsub g q t d a b s
  | .vmul g q t d a b => Sys2Proof.Machine.execVmul g q t d a b s
  | .vmulh g q t d a b => Sys2Proof.Machine.execVmulh g q t d a b s
  | .vfma g q t d a b => Sys2Proof.Machine.execVfma g q t d a b s
  | .vfms g q t d a b => Sys2Proof.Machine.execVfms g q t d a b s
  | .vmin g q t d a b => Sys2Proof.Machine.execVmin g q t d a b s
  | .vmax g q t d a b => Sys2Proof.Machine.execVmax g q t d a b s
  | .vabs g q t d a => Sys2Proof.Machine.execVabs g q t d a s
  | .vneg g q t d a => Sys2Proof.Machine.execVneg g q t d a s
  | .vadds g q t d a b => Sys2Proof.Machine.execVadds g q t d a b s
  | .vsubs g q t d a b => Sys2Proof.Machine.execVsubs g q t d a b s
  | .vavg g q t d a b => Sys2Proof.Machine.execVavg g q t d a b s
  | .vdot4 g q t d a b => Sys2Proof.Machine.execVdot4 g q t d a b s
  | .vmulw g q t d a b => Sys2Proof.Machine.execVmulw g q t d a b s
  | .vclamp g q t d a b => Sys2Proof.Machine.execVclamp g q t d a b s
  | .vand g q t d a b => Sys2Proof.Machine.execVand g q t d a b s
  | .vor g q t d a b => Sys2Proof.Machine.execVor g q t d a b s
  | .vxor g q t d a b => Sys2Proof.Machine.execVxor g q t d a b s
  | .vandn g q t d a b => Sys2Proof.Machine.execVandn g q t d a b s
  | .vnot g q t d a => Sys2Proof.Machine.execVnot g q t d a s
  | .vshl g q t d a b => Sys2Proof.Machine.execVshl g q t d a b s
  | .vshr g q t d a b => Sys2Proof.Machine.execVshr g q t d a b s
  | .vsar g q t d a b => Sys2Proof.Machine.execVsar g q t d a b s
  | .vceq g q t d a b => Sys2Proof.Machine.execVceq g q t d a b s
  | .vcne g q t d a b => Sys2Proof.Machine.execVcne g q t d a b s
  | .vclt g q t d a b => Sys2Proof.Machine.execVclt g q t d a b s
  | .vcle g q t d a b => Sys2Proof.Machine.execVcle g q t d a b s
  | .vclass g q t d a m => Sys2Proof.Machine.execVclass g q t d a m s
  | .vsel g q r_s d a b => Sys2Proof.Machine.execVsel g q r_s d a b s
  | .vmov g q t d a => Sys2Proof.Machine.execVmov g q t d a s
  | .vbc g q t d a => Sys2Proof.Machine.execVbc g q t d a s
  | .vmovs g q t d a n => Sys2Proof.Machine.execVmovs g q t d a n s
  | .vins g q t d a n => Sys2Proof.Machine.execVins g q t d a n s
  | .viota g q t d a => Sys2Proof.Machine.execViota g q t d a s
  | .qand g q t d a b => Sys2Proof.Machine.execQand g q t d a b s
  | .qor g q t d a b => Sys2Proof.Machine.execQor g q t d a b s
  | .qxor g q t d a b => Sys2Proof.Machine.execQxor g q t d a b s
  | .qmov g q t d a => Sys2Proof.Machine.execQmov g q t d a s
  | .vcvt g q t d a r_s => Sys2Proof.Machine.execVcvt g q t d a r_s s
  | .vcvtw g q t d a r_s => Sys2Proof.Machine.execVcvtw g q t d a r_s s
  | .vcvtn g q t d a r_s => Sys2Proof.Machine.execVcvtn g q t d a r_s s
  | .vcvtns g q t d a r_s => Sys2Proof.Machine.execVcvtns g q t d a r_s s
  | .vpack g q t d a b => Sys2Proof.Machine.execVpack g q t d a b s
  | .vunpk g q t d a h => Sys2Proof.Machine.execVunpk g q t d a h s
  | .vperm g q t d a b => Sys2Proof.Machine.execVperm g q t d a b s
  | .vrot g q t d a n => Sys2Proof.Machine.execVrot g q t d a n s
  | .vsld g q t d a b => Sys2Proof.Machine.execVsld g q t d a b s
  | .vtrn g q t d a b => Sys2Proof.Machine.execVtrn g q t d a b s
  | .vcmpr g q t d m r_s => Sys2Proof.Machine.execVcmpr g q t d m r_s s
  | .vexpd g q t d a m => Sys2Proof.Machine.execVexpd g q t d a m s
  | .vradd g q t d a => Sys2Proof.Machine.execVradd g q t d a s
  | .vrmax g q t d a => Sys2Proof.Machine.execVrmax g q t d a s
  | .vrmin g q t d a => Sys2Proof.Machine.execVrmin g q t d a s
  | .vramax g q t d a => Sys2Proof.Machine.execVramax g q t d a s
  | .vscan g q t d a => Sys2Proof.Machine.execVscan g q t d a s
  | .vrcnt g q t d qa => Sys2Proof.Machine.execVrcnt g q t d qa s
  | .vcw g q t a => Sys2Proof.Machine.execVcw g q t a s
  | .vexp2 g q t d a => Sys2Proof.Machine.execVexp2 g q t d a s
  | .vlog2 g q t d a => Sys2Proof.Machine.execVlog2 g q t d a s
  | .vrcp g q t d a => Sys2Proof.Machine.execVrcp g q t d a s
  | .vrsq g q t d a => Sys2Proof.Machine.execVrsq g q t d a s
  | .vsqrt g q t d a => Sys2Proof.Machine.execVsqrt g q t d a s
  | .vtanh g q t d a => Sys2Proof.Machine.execVtanh g q t d a s
  | .vsigm g q t d a => Sys2Proof.Machine.execVsigm g q t d a s
  | .vsin g q t d a => Sys2Proof.Machine.execVsin g q t d a s
  | .vcos g q t d a => Sys2Proof.Machine.execVcos g q t d a s
  | .vrng g q t d a b => Sys2Proof.Machine.execVrng g q t d a b s
  | .vtopk g q t d a k => Sys2Proof.Machine.execVtopk g q t d a k s
  | .vscale g q t d a j => Sys2Proof.Machine.execVscale g q t d a j s
  | .vqnt g q t d a j => Sys2Proof.Machine.execVqnt g q t d a j s
  | .vdq g q t d a j => Sys2Proof.Machine.execVdq g q t d a j s
  | .vlut g q t d a b => Sys2Proof.Machine.execVlut g q t d a b s
  | .mma g t a b => Sys2Proof.Machine.execMma g t a b s
  | .mmaz g t a b => Sys2Proof.Machine.execMmaz g t a b s
  | .mman g t a b => Sys2Proof.Machine.execMman g t a b s
  | .mlda g t a => Sys2Proof.Machine.execMlda g t a s
  | .msta g t a => Sys2Proof.Machine.execMsta g t a s
  | .mdrn g t p => Sys2Proof.Machine.execMdrn g t p s
  | .mzero g t => Sys2Proof.Machine.execMzero g t s
  | .mcommit g => Sys2Proof.Machine.execMcommit g s
  | .mwaitb g n => Sys2Proof.Machine.execMwaitb g n s
  | .mwaitbId g a => Sys2Proof.Machine.execMwaitbId g a s
  | .mwm g d t c => Sys2Proof.Machine.execMwm g d t c s
  | .banklendM g a => Sys2Proof.Machine.execBanklendM g a s
  | .banklendV g a => Sys2Proof.Machine.execBanklendV g a s
  | .banklendRel g a => Sys2Proof.Machine.execBanklendRel g a s
  | .banklendAcq g a => Sys2Proof.Machine.execBanklendAcq g a s
  | .scld g k a => Sys2Proof.Machine.execScld g k a s
  | .mcfg g f => Sys2Proof.Machine.execMcfg g f s
  | .medge g a => Sys2Proof.Machine.execMedge g a s
  | .ldgB g q d h x m => Sys2Proof.Machine.execLdgB g q d h x m s
  | .ldgBn g q d h x m => Sys2Proof.Machine.execLdgBn g q d h x m s
  | .ldgH g q d h x m => Sys2Proof.Machine.execLdgH g q d h x m s
  | .ldgHn g q d h x m => Sys2Proof.Machine.execLdgHn g q d h x m s
  | .ldgW g q d h x m => Sys2Proof.Machine.execLdgW g q d h x m s
  | .ldgWn g q d h x m => Sys2Proof.Machine.execLdgWn g q d h x m s
  | .ldgD g q d h x m => Sys2Proof.Machine.execLdgD g q d h x m s
  | .stgB g d h x m => Sys2Proof.Machine.execStgB g d h x m s
  | .stgH g d h x m => Sys2Proof.Machine.execStgH g d h x m s
  | .stgW g d h x m => Sys2Proof.Machine.execStgW g d h x m s
  | .stgD g d h x m => Sys2Proof.Machine.execStgD g d h x m s
  | .vldg g q d h x m => Sys2Proof.Machine.execVldg g q d h x m s
  | .vstg g d h x m => Sys2Proof.Machine.execVstg g d h x m s
  | .ldS g q d o x m => Sys2Proof.Machine.execLdS g q d o x m s
  | .stS g d o x m => Sys2Proof.Machine.execStS g d o x m s
  | .vldS g q d o x m => Sys2Proof.Machine.execVldS g q d o x m s
  | .vstS g d o x m => Sys2Proof.Machine.execVstS g d o x m s
  | .vldC g q d o x m => Sys2Proof.Machine.execVldC g q d o x m s
  | .vstC g d o x m => Sys2Proof.Machine.execVstC g d o x m s
  | .vldX g q d o x m => Sys2Proof.Machine.execVldX g q d o x m s
  | .vstX g d o x m => Sys2Proof.Machine.execVstX g d o x m s
  | .vldL g q d o x m => Sys2Proof.Machine.execVldL g q d o x m s
  | .vstL g d o x m => Sys2Proof.Machine.execVstL g d o x m s
  | .vgthS g q d r_i x e => Sys2Proof.Machine.execVgthS g q d r_i x e s
  | .vsctS g d r_i x e => Sys2Proof.Machine.execVsctS g d r_i x e s
  | .vgthL g q d r_i x e => Sys2Proof.Machine.execVgthL g q d r_i x e s
  | .vsctL g d r_i x e => Sys2Proof.Machine.execVsctL g d r_i x e s
  | .plst g v c x => Sys2Proof.Machine.execPlst g v c x s
  | .vldb g q d o x m => Sys2Proof.Machine.execVldb g q d o x m s
  | .vstb g d o x m => Sys2Proof.Machine.execVstb g d o x m s
  | .xlt g w h x => Sys2Proof.Machine.execXlt g w h x s
  | .hdrop g h => Sys2Proof.Machine.execHdrop g h s
  | .aadd g d h x r_s => Sys2Proof.Machine.execAadd g d h x r_s s
  | .aand g d h x r_s => Sys2Proof.Machine.execAand g d h x r_s s
  | .aor g d h x r_s => Sys2Proof.Machine.execAor g d h x r_s s
  | .axor g d h x r_s => Sys2Proof.Machine.execAxor g d h x r_s s
  | .amin g d h x r_s => Sys2Proof.Machine.execAmin g d h x r_s s
  | .amax g d h x r_s => Sys2Proof.Machine.execAmax g d h x r_s s
  | .aminn g d h x r_s => Sys2Proof.Machine.execAminn g d h x r_s s
  | .amaxn g d h x r_s => Sys2Proof.Machine.execAmaxn g d h x r_s s
  | .aswp g d h x r_s => Sys2Proof.Machine.execAswp g d h x r_s s
  | .acas g d h x r_s => Sys2Proof.Machine.execAcas g d h x r_s s
  | .afadd g d h x r_s => Sys2Proof.Machine.execAfadd g d h x r_s s
  | .hbind g h x d => Sys2Proof.Machine.execHbind g h x d s
  | .hacqX g h x d => Sys2Proof.Machine.execHacqX g h x d s
  | .hacqS g h x d => Sys2Proof.Machine.execHacqS g h x d s
  | .hrel g h x d => Sys2Proof.Machine.execHrel g h x d s
  | .fenceRel g r_s => Sys2Proof.Machine.execFenceRel g r_s s
  | .fenceAcq g r_s => Sys2Proof.Machine.execFenceAcq g r_s s
  | .fenceAr g r_s => Sys2Proof.Machine.execFenceAr g r_s s
  | .bara g d a => Sys2Proof.Machine.execBara g d a s
  | .barw g a b => Sys2Proof.Machine.execBarw g a b s
  | .tlwait g e b => Sys2Proof.Machine.execTlwait g e b s
  | .tlrd g d e => Sys2Proof.Machine.execTlrd g d e s
  | .tlrdSt g d e => Sys2Proof.Machine.execTlrdSt g d e s
  | .tlrdStc g d e => Sys2Proof.Machine.execTlrdStc g d e s
  | .tagw g a => Sys2Proof.Machine.execTagw g a s
  | .tagffC g a => Sys2Proof.Machine.execTagffC g a s
  | .tagffS g a => Sys2Proof.Machine.execTagffS g a s
  | .cpy g d a => Sys2Proof.Machine.execCpy g d a s
  | .mvx g d a => Sys2Proof.Machine.execMvx g d a s
  | .qpush g d a b => Sys2Proof.Machine.execQpush g d a b s
  | .qpop g d a => Sys2Proof.Machine.execQpop g d a s
  | .wopen g d h x => Sys2Proof.Machine.execWopen g d h x s
  | .wcommit g d a b => Sys2Proof.Machine.execWcommit g d a b s
  | .wabortK g a => Sys2Proof.Machine.execWabortK g a s
  | .wabortF g a => Sys2Proof.Machine.execWabortF g a s
  | .pwatchI g d h x => Sys2Proof.Machine.execPwatchI g d h x s
  | .pwatchR g d x => Sys2Proof.Machine.execPwatchR g d x s
  | .pwatchQ g d x => Sys2Proof.Machine.execPwatchQ g d x s
  | .pdrop g d x => Sys2Proof.Machine.execPdrop g d x s
  | .smpq g d a b => Sys2Proof.Machine.execSmpq g d a b s
  | .tokrdy g p a => Sys2Proof.Machine.execTokrdy g p a s
  | .tokrdyS g a b => Sys2Proof.Machine.execTokrdyS g a b s
  | .trap g a n => Sys2Proof.Machine.execTrap g a n s
  | .mfs g d r => Sys2Proof.Machine.execMfs g d r s
  | .mts g r a => Sys2Proof.Machine.execMts g r a s
  | .trace g a n => Sys2Proof.Machine.execTrace g a n s
  | .brkpt g n => Sys2Proof.Machine.execBrkpt g n s
  | .idle g a => Sys2Proof.Machine.execIdle g a s
  | .budq g d r_i => Sys2Proof.Machine.execBudq g d r_i s
  | .budqCcost g d b => Sys2Proof.Machine.execBudqCcost g d b s
  | .jrd g d => Sys2Proof.Machine.execJrd g d s
  | .jrdL g d => Sys2Proof.Machine.execJrdL g d s
  | .thack g d => Sys2Proof.Machine.execThack g d s
  | .wpos g a b c => Sys2Proof.Machine.execWpos g a b c s
  | .walloc g d a => Sys2Proof.Machine.execWalloc g d a s
  | .btset g d a b => Sys2Proof.Machine.execBtset g d a b s
  | .btrd g d a w => Sys2Proof.Machine.execBtrd g d a w s
  | .strn g d a b => Sys2Proof.Machine.execStrn g d a b s
  | .lexp g d a b => Sys2Proof.Machine.execLexp g d a b s
  | .dlbar g p h b => Sys2Proof.Machine.execDlbar g p h b s

end Sys2Proof.Machine
end

