-- ==== Sys2Proof/Machine/Step.lean ====
section
/-! DEFINITION. What happens next, and one step of the machine. The spec leaves the order of the events of different agents
open: the agenda names the environment's choice, and where it is empty a fixed rule chooses (log entry 1). -/

namespace Sys2Proof.Machine

/-! ### The event that comes next when the agenda is empty -/

/-- Whether an event does anything now. -/
def changes (s : State) (i : Instr) : Bool :=
  match exec i s with
  | .next t => t ≠ s
  | _ => false

/-- The events that end a wait. -/
def waitEvents (c x : Nat) (w : Wait) : List Instr :=
  match w with
  | .mwaitb _ => [.mwaitbSatisfied c x]
  | .mwaitbId _ => [.mwaitbSatisfied c x]
  | .tlwait _ _ => [.tlwaitComplete c x]
  | .tagw _ => [.tagwSatisfied c x]
  | .barw _ _ => [.barwRelease c x]
  | .qpop q => [.qpopGrant q]
  | .hacq p _ => [.hacqGrant p.pa]
  | .dlbar _ _ _ => [.dlbarReady c x, .dlbarTimeout c x]
  | .dlbarDone _ _ => []
  | .idle _ => [.idleExpiry c x]

/-- The events that end a hold. -/
def holdEvents (c x : Nat) (h : Hold) : List Instr :=
  match h with
  | .fence _ _ => [.fenceComplete c x]
  | .hatch p _ => [.hacqGrant p.pa]
  | .tlwait _ _ => [.tlwaitComplete c x]
  | .work _ => []

/-- The events of a context that may be due. -/
def ctxEvents (c x : Nat) (k : Ctx) : List Instr :=
  (if k.wreq then [.windowStoreAccept c x 0] else []) ++
  k.works.flatMap (fun w => [.interlockedComplete c x w.id, .windowCommitPoint c x w.id]) ++
  (k.h.filter (fun e => e.2.pending)).map (fun e => .translationWalkComplete c x e.1) ++
  (k.h.filter (fun e => isRevoked e.2 && e.2.sought)).map (fun e => .handleRetranslate c x e.1) ++
  k.hold.flatMap (holdEvents c x) ++
  (match k.wait with | some w => if k.status = .waiting then waitEvents c x w else [] | none => []) ++
  (if k.status = .ending ∨ k.cont = true then [.contextFree c x] else [])

/-- The events of a core that may be due: its array's, the block its owner waits for, and its swapped-out contexts'. -/
def coreEvents (s : State) (c : Nat) (core : Core) : List Instr :=
  (if endDue core then [.matrixEntryEnd c] else []) ++
  (if writeDue core then [.chainWritebackDone c] else []) ++
  (if (startDue s c).isSome then [.matrixEntryStart c] else []) ++
  (match core.owner with
    | some x => if (blockAt s c (getCtx s c x).part (getCtx s c x).pc.toNat).isNone then [.ifetchFill c x] else []
    | none => []) ++
  (match core.shadow with | some sh => sh.ctxs.flatMap (fun e => ctxEvents c e.1 e.2) | none => [])

/-- The events of an island that may be due. -/
def islandEvents (s : State) (i : Nat) (isl : Island) : List Instr :=
  (if slewDue s i then [.slewStepBoundary i] else []) ++
  (if isl.reduce.isSome ∧ (reductionTime s i).getD 0 ≤ s.time then [.clockReduction i] else []) ++
  (if isl.gated then [.islandUngate i] else if gateAfter s.gov ≤ isl.idle ∧ islandActive s i = false then [.islandPowerGate i] else [])

/-- The events of an engine context that may be due. -/
def engineEvents (key : Nat) (e : Engine) : List Instr :=
  if e.ops = [] then []
  else [.engineOpStart (key / 64) (key / 8 % 8) (key % 8), .engineOpComplete (key / 64) (key / 8 % 8) (key % 8)]

/-- The events of a partition's shutter. -/
def shutterEvents (part : Nat) (p : Part) : List Instr :=
  match p.shutter with
  | some r => r.agents.map (fun a => .shutterAck part a) ++ [.shutterComplete part]
  | none => []

/-- The events of a stream that may be due. -/
def streamEvents (s : State) (key : Nat) (t : Stream) : List Instr :=
  let p := key / 64
  let n := key % 64
  if ¬ t.en ∨ t.halt = true ∨ t.head = t.tail then []
  else if t.wait.isSome then
    .waitmemSatisfied p n :: if (timeoutTime s p n).getD 0 ≤ s.time then [.waitmemTimeout p n] else []
  else [.csNop p n, .launchCreate p n, .launchPush p n, .launchCancel p n, .launchDestroy p n, .launchReload p n, .write32 p n,
    .write32Consent p n, .write64 p n, .waitmem p n, .pred p n, .ibuf p n, .loopp p n, .ffence p n, .signal p n]

/-- The firmware command under way (R396). -/
def commandEvents (fcmd : Option (Nat × Nat)) : List Instr :=
  match fcmd with
  | some (1, p) => [.pcreate p]
  | some (2, p) => [.pdestroy p]
  | some (3, p) => [.pstop p]
  | some (4, p) => [.presume p]
  | some (5, p) => [.setcost p]
  | some (6, p) => [.setramp p]
  | some (7, p) => [.qcreate p]
  | some (8, p) => [.qdestroy p]
  | some (9, p) => [.pmap p]
  | some (10, p) => [.fsvc p]
  | some (11, p) => [.pstats p]
  | _ => []

/-- The events of the units beside the cores that may be due. -/
def unitEvents (s : State) : List Instr :=
  s.stores.flatMap (fun w => .sliceStorePerform w.id :: w.acks.map (fun q => .replicaInvalidateAck w.id q)) ++
  (s.hatchq.map (fun r => r.1)).eraseDups.map (fun a => .hacqGrant a) ++
  s.queues.map (fun e => if e.2.task then .taskQueuePop e.1 else .qpopGrant e.1) ++
  (s.peeps.filter (fun e => e.2.pend.isSome)).flatMap (fun e =>
    (if (e.2.pend.bind (fun t => t.slot)).isNone then [.peepholeHeldPlace e.1] else []) ++
    (if (coalesceTime s (e.1 % 256)).getD 0 ≤ s.time then [.coalesceWindowExpiry (e.1 % 256)] else [])) ++
  s.engines.flatMap (fun e => engineEvents e.1 e.2) ++
  (s.windows.filter (fun e => e.2.closing)).map (fun e => .windowCloseComplete e.1) ++
  (s.jobs.filter (fun e => e.2 ≠ [])).flatMap (fun e => [.samplerRestart e.1, .samplerJobStart e.1]) ++
  s.parts.flatMap (fun e => shutterEvents e.1 e.2) ++
  s.islands.flatMap (fun e => islandEvents s e.1 e.2) ++
  (if s.faults = [] then [] else [.firmwareFaultService, .faultReportWrite, .faultDisposition]) ++
  s.swaps.map (fun e => .swapExchange e.1) ++
  commandEvents s.control.fcmd ++
  s.streams.flatMap (fun e => streamEvents s e.1 e.2)

/-- The events that may be due, cores first. -/
def dueEvents (s : State) : List Instr :=
  s.cores.flatMap (fun e => coreEvents s e.1 e.2) ++
  s.ctxs.flatMap (fun e => ctxEvents (e.1 / 8) (e.1 % 8) e.2) ++
  s.ctxs.filterMap (fun e =>
    if (haltAsked s (e.1 / 8) (e.1 % 8)).isSome then some (.haltLand (e.1 / 8) (e.1 % 8)) else none) ++
  s.ctxs.filterMap (fun e =>
    if (haltAsked s (e.1 / 8) (e.1 % 8)).isSome then some (.haltTimeout (e.1 / 8) (e.1 % 8)) else none) ++
  unitEvents s

/-- What comes at a time to come, with the time: a steep boundary, the next cycle of each core, and the events that wait for
their time. -/
def timedEvents (s : State) : List (Nat × Instr) :=
  let later := fun (e : Option Nat × Instr) => match e.1 with | some t => if s.time < t then some (t, e.2) else none | none => none
  (trailing s).map (fun c => ((getCore s c).tnext, .bundleIssue c)) ++
  s.peeps.filterMap (fun e => later (coalesceTime s (e.1 % 256), .coalesceWindowExpiry (e.1 % 256))) ++
  s.streams.filterMap (fun e => later (timeoutTime s (e.1 / 64) (e.1 % 64), .waitmemTimeout (e.1 / 64) (e.1 % 64))) ++
  s.islands.filterMap (fun e => later (reductionTime s e.1, .clockReduction e.1))

/-- The earliest of timed events, the first listed where two fall together. -/
def earliest (best : Nat × Instr) (l : List (Nat × Instr)) : Nat × Instr :=
  l.foldl (fun b e => if e.1 < b.1 then e else b) best

/-- What comes next where the environment has not chosen: an event that is due and does something; else what comes first of
the events in time. -/
def defaultEvent (s : State) : Instr :=
  match (dueEvents s).find? (changes s) with
  | some i => i
  | none => (earliest (nextBoundary s, .steepBoundary) (timedEvents s)).2

/-- The event that comes next. -/
def nextEvent (s : State) : Instr :=
  match s.agenda with
  | i :: _ => i
  | [] => defaultEvent s

/-- The state with the agenda's first choice taken. -/
def popped (s : State) : State := { s with agenda := s.agenda.tail }

/-- One step of the machine. -/
def step (s : State) : Host.Outcome State Fault Refusal := exec (nextEvent s) (popped s)

/-! ### A machine that is about to run a given word -/

/-- The partition that holds a program placed from outside. -/
def bootPart : Part where
  islands := 1
  dom := 0
  ptroot := 0
  carves := []
  ways := 0
  pins := 0
  windows := 0
  peeps := 0
  slots := 0
  streamMask := 0
  mvuShare := 0
  overlay := 0
  barc := 0
  bard := 0
  slice := 0
  replica := (0, 0)
  costs := defaultCosts
  consent := 0

/-- Whether a word goes to slot 3: those of classes 0 and C, which not every slot takes (R36). -/
def slotFor (w : Nat) : Nat := if w / 2 ^ 28 % 16 = 0 ∨ w / 2 ^ 28 % 16 = 12 then 3 else 0

/-- A core that may issue: nothing held, and the bundle in its instruction store. -/
def placeBundle (core : Core) (x part pc slot w : Nat) : Core :=
  let page := alignDown pc 12
  let mine := fun (b : Block) => b.part = part && b.mapped page
  let old : Block := (core.blocks.find? mine).getD { part := part, pa := page, maps := [(page, 0)], bytes := [] }
  let bytes := writeNat old.bytes (pc % 2 ^ 12) 16 (w % 2 ^ 32 * 2 ^ (32 * slot))
  { core with
    owner := some x, rest := 0, held := 0
    blocks := core.blocks.filter (fun b => !mine b) ++ [{ old with bytes := bytes }] }

/-- `s` with a word placed where the core in focus issues its next bundle, alone in it: the module is ready, the partition
runs, a context holds issue, and the bundle stands in memory and in the instruction store (R290). -/
def placeWord (s : State) (w : Nat) : State :=
  let c := leadCore s s.focus
  let x := (getCore s c).owner.getD 0
  let k := getCtx s c x
  let pc := k.pc.toNat
  let slot := slotFor w
  let s := { s with
    latch := { slot := slot, hdr := none }
    control := { s.control with mstate := .ready, power := .d0 }
    parts := if (mfind s.parts k.part).isSome then s.parts else mset s.parts k.part bootPart }
  let s := putCtx s c x { k with status := .ready, wait := none, hold := [], due := .none, cont := false }
  let s := modCore s c fun core => placeBundle core x k.part pc slot w
  let pa := match blockAt s c k.part pc with | some b => b.pa + pc % 2 ^ 12 | none => pc
  let s := { s with mem := writeNat s.mem pa 16 (w % 2 ^ 32 * 2 ^ (32 * slot)) }
  if isSampler c then s
  else modIsland s (islandOf c) fun isl => { isl with
    cur := some k.part, gated := false, slewAt := max isl.slewAt ((getCore s c).cycle + 4) }

/-- `s` with a word placed as the next bundle, and its core's cycle next: where nothing else is due an empty agenda says so,
and otherwise the agenda begins with it. -/
def State.withFetchWord (s : State) (_nbits w : Nat) : State :=
  let s := placeWord s w
  let c := leadCore s s.focus
  match s.agenda, defaultEvent s with
  | [], .bundleIssue d => if d = c then s else { s with agenda := [.bundleIssue c] }
  | l, _ => { s with agenda := .bundleIssue c :: l }

end Sys2Proof.Machine
end

