-- ==== Sys2Proof/Safety.lean ====
section
/-! DEFINITION. The terms in which claims about the machine are made: what memories are sound, when the bundle of one slot
instruction issues, and what its cycle does to the machine beside what the instruction does. -/

namespace Sys2Proof.Machine

/-! ### Sound memories -/

/-- Every memory of the machine is in canonical form: addresses rise, and no byte is listed that an unlisted one reads as. -/
structure SoundMemory (s : State) : Prop where
  mem : Memory.wf s.mem = true
  chip : Memory.wf s.chip = true
  cluster : ∀ q, Memory.wf (mget s.cluster q []) = true
  scratch : ∀ c, Memory.wf (getCore s c).scratch = true
  lane : ∀ c, Memory.wf (getCore s c).lane = true

/-! ### Slot instructions and their bundles -/

/-- The class of a slot instruction (R31); an event has none. -/
def classOf : Instr → Option Nat
  | .bundleIssue _ => none
  | .contextSwitch _ => none
  | .preemptFreeze _ => none
  | .issueQuantumExpiry _ => none
  | .fixedResultLand _ => none
  | .interlockedComplete _ _ _ => none
  | .ifetchFill _ _ => none
  | .contextFree _ _ => none
  | .matrixEntryStart _ => none
  | .matrixEntryEnd _ => none
  | .chainWritebackDone _ => none
  | .slewStepBoundary _ => none
  | .translationWalkComplete _ _ _ => none
  | .xltHandleLand _ _ => none
  | .handleRetranslate _ _ _ => none
  | .lineCacheEvict _ _ => none
  | .sliceStorePerform _ => none
  | .peepholeHeldPlace _ => none
  | .coalesceWindowExpiry _ => none
  | .cluAtomicWriteback _ _ => none
  | .hostStore _ _ _ => none
  | .hostLoad _ _ => none
  | .replicaInvalidateAck _ _ => none
  | .hacqGrant _ => none
  | .fenceComplete _ _ => none
  | .engineOpStart _ _ _ => none
  | .engineOpComplete _ _ _ => none
  | .tlwaitComplete _ _ => none
  | .tagwSatisfied _ _ => none
  | .mwaitbSatisfied _ _ => none
  | .barwRelease _ _ => none
  | .qpopGrant _ => none
  | .dlbarReady _ _ => none
  | .dlbarTimeout _ _ => none
  | .idleExpiry _ _ => none
  | .windowStoreAccept _ _ _ => none
  | .windowCommitPoint _ _ _ => none
  | .windowCloseComplete _ => none
  | .taskQueuePop _ => none
  | .steepBoundary => none
  | .clockReduction _ => none
  | .droopDetect _ => none
  | .stretchEpisodeEnd _ => none
  | .islandPowerGate _ => none
  | .islandUngate _ => none
  | .samplerJobStart _ => none
  | .samplerRestart _ => none
  | .shutterGo _ => none
  | .shutterAck _ _ => none
  | .shutterComplete _ => none
  | .firmwareFaultService => none
  | .faultReportWrite => none
  | .faultDisposition => none
  | .swapOrder _ _ => none
  | .swapExchange _ => none
  | .errorRowTestDone _ _ _ => none
  | .watchdogExpiry _ _ => none
  | .moduleReset => none
  | .linkTrain _ _ => none
  | .fwctlGo => none
  | .fwCheckDone _ => none
  | .fwctlStart => none
  | .pwrlimWrite _ => none
  | .registerWrite _ _ => none
  | .pcreate _ => none
  | .pdestroy _ => none
  | .pstop _ => none
  | .presume _ => none
  | .setcost _ => none
  | .setramp _ => none
  | .qcreate _ => none
  | .qdestroy _ => none
  | .pmap _ => none
  | .fsvc _ => none
  | .pstats _ => none
  | .fsrespWrite _ => none
  | .evtailWrite _ => none
  | .csctlReset _ _ _ => none
  | .csctlWrite _ _ _ => none
  | .cstailWrite _ _ _ => none
  | .csBlockFetch _ _ _ _ => none
  | .csNop _ _ => none
  | .launchCreate _ _ => none
  | .launchPush _ _ => none
  | .launchCancel _ _ => none
  | .launchDestroy _ _ => none
  | .launchReload _ _ => none
  | .write32 _ _ => none
  | .write32Consent _ _ => none
  | .write64 _ _ => none
  | .waitmem _ _ => none
  | .waitmemSatisfied _ _ => none
  | .waitmemTimeout _ _ => none
  | .pred _ _ => none
  | .ibuf _ _ => none
  | .loopp _ _ => none
  | .ffence _ _ => none
  | .signal _ _ => none
  | .haltRequest _ _ => none
  | .haltLand _ _ => none
  | .haltTimeout _ _ => none
  | .resumeRequest _ _ => none
  | .trpopWrite _ => none
  | .d3hotEntry => none
  | .d3hotExit => none
  | .d3cold => none
  | .nop _ => some 0
  | .br _ _ => some 0
  | .brs _ _ => some 0
  | .call _ _ => some 0
  | .ret _ => some 0
  | .yield _ => some 0
  | .yieldC _ => some 0
  | .endTask _ => some 0
  | .spawn _ _ _ _ => some 0
  | .loop _ _ _ _ => some 12
  | .loopi _ _ _ _ => some 12
  | .lstr _ _ _ _ _ => some 12
  | .lbrk _ _ => some 12
  | .lcw _ _ _ _ => some 12
  | .add _ _ _ _ _ => some 1
  | .sub _ _ _ _ _ => some 1
  | .mul _ _ _ _ _ => some 1
  | .mulh _ _ _ _ _ => some 1
  | .mulhn _ _ _ _ _ => some 1
  | .div _ _ _ _ _ => some 1
  | .divn _ _ _ _ _ => some 1
  | .rem _ _ _ _ _ => some 1
  | .remn _ _ _ _ _ => some 1
  | .and _ _ _ _ _ => some 1
  | .or _ _ _ _ _ => some 1
  | .xor _ _ _ _ _ => some 1
  | .andn _ _ _ _ _ => some 1
  | .shl _ _ _ _ _ => some 1
  | .shr _ _ _ _ _ => some 1
  | .sar _ _ _ _ _ => some 1
  | .rol _ _ _ _ _ => some 1
  | .min _ _ _ _ _ => some 1
  | .max _ _ _ _ _ => some 1
  | .minn _ _ _ _ _ => some 1
  | .maxn _ _ _ _ _ => some 1
  | .shadd1 _ _ _ _ _ => some 1
  | .shadd2 _ _ _ _ _ => some 1
  | .shadd3 _ _ _ _ _ => some 1
  | .cmpeq _ _ _ _ _ => some 1
  | .cmpne _ _ _ _ _ => some 1
  | .cmplt _ _ _ _ _ => some 1
  | .cmple _ _ _ _ _ => some 1
  | .cmpltn _ _ _ _ _ => some 1
  | .cmplen _ _ _ _ _ => some 1
  | .fadd _ _ _ _ _ => some 2
  | .fsub _ _ _ _ _ => some 2
  | .fmul _ _ _ _ _ => some 2
  | .ffma _ _ _ _ _ => some 2
  | .fdiv _ _ _ _ _ => some 2
  | .fsqrt _ _ _ _ => some 2
  | .fmin _ _ _ _ _ => some 2
  | .fmax _ _ _ _ _ => some 2
  | .fabs _ _ _ _ => some 2
  | .fneg _ _ _ _ => some 2
  | .fceq _ _ _ _ _ => some 2
  | .fclt _ _ _ _ _ => some 2
  | .fcle _ _ _ _ _ => some 2
  | .fcun _ _ _ _ _ => some 2
  | .fcvtif _ _ _ _ _ => some 2
  | .fcvtfi _ _ _ _ _ => some 2
  | .fexp2 _ _ _ _ => some 2
  | .flog2 _ _ _ _ => some 2
  | .clz _ _ _ _ => some 2
  | .ctz _ _ _ _ => some 2
  | .popc _ _ _ _ => some 2
  | .sext _ _ _ _ _ => some 2
  | .zext _ _ _ _ _ => some 2
  | .bfx _ _ _ _ _ => some 2
  | .bfxn _ _ _ _ _ => some 2
  | .bfi _ _ _ _ _ => some 2
  | .mov _ _ _ _ => some 2
  | .movp _ _ _ _ _ _ => some 2
  | .movtp _ _ _ _ => some 2
  | .addi _ _ _ _ _ => some 3
  | .muli _ _ _ _ _ => some 3
  | .andi _ _ _ _ _ => some 3
  | .ori _ _ _ _ _ => some 3
  | .xori _ _ _ _ _ => some 3
  | .shli _ _ _ _ _ => some 3
  | .shri _ _ _ _ _ => some 3
  | .sari _ _ _ _ _ => some 3
  | .cmpeqi _ _ _ _ _ => some 3
  | .cmpnei _ _ _ _ _ => some 3
  | .cmplti _ _ _ _ _ => some 3
  | .cmpltni _ _ _ _ _ => some 3
  | .movi _ _ _ _ => some 3
  | .movhi _ _ _ _ => some 3
  | .vadd _ _ _ _ _ _ => some 4
  | .vsub _ _ _ _ _ _ => some 4
  | .vmul _ _ _ _ _ _ => some 4
  | .vmulh _ _ _ _ _ _ => some 4
  | .vfma _ _ _ _ _ _ => some 4
  | .vfms _ _ _ _ _ _ => some 4
  | .vmin _ _ _ _ _ _ => some 4
  | .vmax _ _ _ _ _ _ => some 4
  | .vabs _ _ _ _ _ => some 4
  | .vneg _ _ _ _ _ => some 4
  | .vadds _ _ _ _ _ _ => some 4
  | .vsubs _ _ _ _ _ _ => some 4
  | .vavg _ _ _ _ _ _ => some 4
  | .vdot4 _ _ _ _ _ _ => some 4
  | .vmulw _ _ _ _ _ _ => some 4
  | .vclamp _ _ _ _ _ _ => some 4
  | .vand _ _ _ _ _ _ => some 5
  | .vor _ _ _ _ _ _ => some 5
  | .vxor _ _ _ _ _ _ => some 5
  | .vandn _ _ _ _ _ _ => some 5
  | .vnot _ _ _ _ _ => some 5
  | .vshl _ _ _ _ _ _ => some 5
  | .vshr _ _ _ _ _ _ => some 5
  | .vsar _ _ _ _ _ _ => some 5
  | .vceq _ _ _ _ _ _ => some 5
  | .vcne _ _ _ _ _ _ => some 5
  | .vclt _ _ _ _ _ _ => some 5
  | .vcle _ _ _ _ _ _ => some 5
  | .vclass _ _ _ _ _ _ => some 5
  | .vsel _ _ _ _ _ _ => some 5
  | .vmov _ _ _ _ _ => some 5
  | .vbc _ _ _ _ _ => some 5
  | .vmovs _ _ _ _ _ _ => some 5
  | .vins _ _ _ _ _ _ => some 5
  | .viota _ _ _ _ _ => some 5
  | .qand _ _ _ _ _ _ => some 5
  | .qor _ _ _ _ _ _ => some 5
  | .qxor _ _ _ _ _ _ => some 5
  | .qmov _ _ _ _ _ => some 5
  | .vcvt _ _ _ _ _ _ => some 6
  | .vcvtw _ _ _ _ _ _ => some 6
  | .vcvtn _ _ _ _ _ _ => some 6
  | .vcvtns _ _ _ _ _ _ => some 6
  | .vpack _ _ _ _ _ _ => some 6
  | .vunpk _ _ _ _ _ _ => some 6
  | .vperm _ _ _ _ _ _ => some 6
  | .vrot _ _ _ _ _ _ => some 6
  | .vsld _ _ _ _ _ _ => some 6
  | .vtrn _ _ _ _ _ _ => some 6
  | .vcmpr _ _ _ _ _ _ => some 6
  | .vexpd _ _ _ _ _ _ => some 6
  | .vradd _ _ _ _ _ => some 6
  | .vrmax _ _ _ _ _ => some 6
  | .vrmin _ _ _ _ _ => some 6
  | .vramax _ _ _ _ _ => some 6
  | .vscan _ _ _ _ _ => some 6
  | .vrcnt _ _ _ _ _ => some 6
  | .vcw _ _ _ _ => some 6
  | .vexp2 _ _ _ _ _ => some 7
  | .vlog2 _ _ _ _ _ => some 7
  | .vrcp _ _ _ _ _ => some 7
  | .vrsq _ _ _ _ _ => some 7
  | .vsqrt _ _ _ _ _ => some 7
  | .vtanh _ _ _ _ _ => some 7
  | .vsigm _ _ _ _ _ => some 7
  | .vsin _ _ _ _ _ => some 7
  | .vcos _ _ _ _ _ => some 7
  | .vrng _ _ _ _ _ _ => some 7
  | .vtopk _ _ _ _ _ _ => some 7
  | .vscale _ _ _ _ _ _ => some 7
  | .vqnt _ _ _ _ _ _ => some 7
  | .vdq _ _ _ _ _ _ => some 7
  | .vlut _ _ _ _ _ _ => some 7
  | .mma _ _ _ _ => some 8
  | .mmaz _ _ _ _ => some 8
  | .mman _ _ _ _ => some 8
  | .mlda _ _ _ => some 8
  | .msta _ _ _ => some 8
  | .mdrn _ _ _ => some 8
  | .mzero _ _ => some 8
  | .mcommit _ => some 8
  | .mwaitb _ _ => some 9
  | .mwaitbId _ _ => some 9
  | .mwm _ _ _ _ => some 9
  | .banklendM _ _ => some 9
  | .banklendV _ _ => some 9
  | .banklendRel _ _ => some 9
  | .banklendAcq _ _ => some 9
  | .scld _ _ _ => some 9
  | .mcfg _ _ => some 9
  | .medge _ _ => some 9
  | .ldgB _ _ _ _ _ _ => some 10
  | .ldgBn _ _ _ _ _ _ => some 10
  | .ldgH _ _ _ _ _ _ => some 10
  | .ldgHn _ _ _ _ _ _ => some 10
  | .ldgW _ _ _ _ _ _ => some 10
  | .ldgWn _ _ _ _ _ _ => some 10
  | .ldgD _ _ _ _ _ _ => some 10
  | .stgB _ _ _ _ _ => some 10
  | .stgH _ _ _ _ _ => some 10
  | .stgW _ _ _ _ _ => some 10
  | .stgD _ _ _ _ _ => some 10
  | .vldg _ _ _ _ _ _ => some 10
  | .vstg _ _ _ _ _ => some 10
  | .ldS _ _ _ _ _ _ => some 10
  | .stS _ _ _ _ _ => some 10
  | .vldS _ _ _ _ _ _ => some 10
  | .vstS _ _ _ _ _ => some 10
  | .vldC _ _ _ _ _ _ => some 10
  | .vstC _ _ _ _ _ => some 10
  | .vldX _ _ _ _ _ _ => some 10
  | .vstX _ _ _ _ _ => some 10
  | .vldL _ _ _ _ _ _ => some 10
  | .vstL _ _ _ _ _ => some 10
  | .vgthS _ _ _ _ _ _ => some 10
  | .vsctS _ _ _ _ _ => some 10
  | .vgthL _ _ _ _ _ _ => some 10
  | .vsctL _ _ _ _ _ => some 10
  | .plst _ _ _ _ => some 10
  | .vldb _ _ _ _ _ _ => some 10
  | .vstb _ _ _ _ _ => some 10
  | .xlt _ _ _ _ => some 10
  | .hdrop _ _ => some 10
  | .aadd _ _ _ _ _ => some 11
  | .aand _ _ _ _ _ => some 11
  | .aor _ _ _ _ _ => some 11
  | .axor _ _ _ _ _ => some 11
  | .amin _ _ _ _ _ => some 11
  | .amax _ _ _ _ _ => some 11
  | .aminn _ _ _ _ _ => some 11
  | .amaxn _ _ _ _ _ => some 11
  | .aswp _ _ _ _ _ => some 11
  | .acas _ _ _ _ _ => some 11
  | .afadd _ _ _ _ _ => some 11
  | .hbind _ _ _ _ => some 11
  | .hacqX _ _ _ _ => some 11
  | .hacqS _ _ _ _ => some 11
  | .hrel _ _ _ _ => some 11
  | .fenceRel _ _ => some 11
  | .fenceAcq _ _ => some 11
  | .fenceAr _ _ => some 11
  | .bara _ _ _ => some 11
  | .barw _ _ _ => some 11
  | .tlwait _ _ _ => some 11
  | .tlrd _ _ _ => some 11
  | .tlrdSt _ _ _ => some 11
  | .tlrdStc _ _ _ => some 11
  | .tagw _ _ => some 11
  | .tagffC _ _ => some 11
  | .tagffS _ _ => some 11
  | .cpy _ _ _ => some 11
  | .mvx _ _ _ => some 11
  | .qpush _ _ _ _ => some 11
  | .qpop _ _ _ => some 11
  | .wopen _ _ _ _ => some 11
  | .wcommit _ _ _ _ => some 11
  | .wabortK _ _ => some 11
  | .wabortF _ _ => some 11
  | .pwatchI _ _ _ _ => some 11
  | .pwatchR _ _ _ => some 11
  | .pwatchQ _ _ _ => some 11
  | .pdrop _ _ _ => some 11
  | .smpq _ _ _ _ => some 11
  | .tokrdy _ _ _ => some 11
  | .tokrdyS _ _ _ => some 11
  | .trap _ _ _ => some 13
  | .mfs _ _ _ => some 13
  | .mts _ _ _ => some 13
  | .trace _ _ _ => some 13
  | .brkpt _ _ => some 13
  | .idle _ _ => some 13
  | .budq _ _ _ => some 13
  | .budqCcost _ _ _ => some 13
  | .jrd _ _ => some 13
  | .jrdL _ _ => some 13
  | .thack _ _ => some 13
  | .wpos _ _ _ _ => some 13
  | .walloc _ _ _ => some 13
  | .btset _ _ _ _ => some 13
  | .btrd _ _ _ _ => some 13
  | .strn _ _ _ _ => some 13
  | .lexp _ _ _ _ => some 13
  | .dlbar _ _ _ _ => some 13
  | .linkError _ => none

/-- The operation of class `cls` as the latch of the model places it in a bundle (R36–R38). A latch that names slot 0 leaves no
room for a header. -/
def onePlaced (l : Latch) (cls : Nat) (f : Op) : Placed :=
  let e := extOf (if l.slot % 4 = 0 then none else l.hdr) (l.slot % 4)
  { pos := l.slot % 4, cls := cls, ext := e, info := f e }

/-- What a header adds to the slot instruction that issues next (R38). -/
def latchExt (s : State) : Ext := extOf (if s.latch.slot % 4 = 0 then none else s.latch.hdr) (s.latch.slot % 4)

/-- Context `x` of the core in focus presents a bundle in the core's coming cycle and nothing of its own holds it back: it
holds issue, alone and not held at a conflict; no fence, drain or deferred fault is before it; it stands in no delay slot and
at no loop's last bundle, its innermost level active; no event of the array is due first and no freeze is due. -/
structure Ready (s : State) (x : Nat) : Prop where
  small : x < 8
  owner : (getCore s s.focus).owner = some x
  held : (getCore s s.focus).held = 0
  gang : (getCtx s s.focus x).gang = false
  hold : (getCtx s s.focus x).hold = []
  drain : (getCtx s s.focus x).drain = none
  deferred : (getCtx s s.focus x).deferred = []
  branch : (getCtx s s.focus x).branch = none
  level : (getCtx s s.focus x).loops.all (fun m => m.last ≠ (getCtx s s.focus x).pc.toNat) = true
  active : levelsLeft (getCtx s s.focus x).loops.reverse = (getCtx s s.focus x).loops
  waits : cycleWaits s [s.focus] = false
  freeze : freezeDue s s.focus x [s.focus] = none

/-- A slot instruction that issues (R35, R57): its context is ready, the bundle it stands in is legal (R43–R45), its guard is
true, no register it reads or writes is pending, and none it reads has failed its test. -/
def Issues (s : State) (x : Nat) (i : Instr) : Prop :=
  Ready s x ∧ ∃ cls f, classOf i = some cls ∧ slotInfo i = some f ∧
    decodeFault (isSampler s.focus) (getCtx s s.focus x).pc.toNat (oneCell s.latch cls f) = none ∧
    isLive s s.focus x s.focus (onePlaced s.latch cls f) = true ∧
    waiting s s.focus x s.focus [onePlaced s.latch cls f] = [] ∧
    entryBad s s.focus x s.focus [onePlaced s.latch cls f] = false

/-- The array of the core in focus closes no chain, and no bank goes back to its pool, in the coming cycle (R157, R165). -/
structure Quiet (s : State) : Prop where
  chains : ∀ ch ∈ (getCore s s.focus).chains, chainClosed s s.focus ch = false
  giving : ∀ y, y < 8 → (getCtx s s.focus y).giving = []

/-- Where the slot instruction that issues next executes. -/
def portAt (s : State) (x : Nat) (i : SlotInfo) : Port where
  core := s.focus
  ctx := x
  pos := s.latch.slot % 4
  pc := (getCtx s s.focus x).pc.toNat
  lead := s.focus
  ext := latchExt s
  squash := i.squash
  lanes := i.guard.lanes (getCtx s s.focus x)

/-- The state after a bundle of one operation has issued with an effect, and its cycle has passed. -/
def issued (s : State) (x : Nat) (p : Placed) (e : Effect) : State :=
  commitBundle s s.focus x [s.focus] [p] [(s.focus, [(p, e)])]

/-! ### What an instruction leaves behind in its context and core -/

/-- What a slot instruction does: its Q bit, the variable-latency work it puts in hand, the fixed-latency results it puts in
flight, the cycles for which it holds issue further, which a bank conflict adds to its scratchpad results, what it does at once
to its context and its core, and where the stream goes: a taken branch's target, with whether it closes the levels it
leaves, or the bundle after a loop body it skips. -/
structure Deed where
  sq : Bool := false
  works : List NewWork := []
  outs : List Out := []
  conflict : Nat := 0
  ctx : Ctx → Ctx := id
  core : Core → Core := id
  jump : Option (Nat × Bool) := none
  skip : Option Nat := none

/-- Work in hand: numbered in issue order, with its bundle and slot (R57). -/
def workOf (sq : Bool) (seq pc slot : Nat) (w : NewWork) : Work where
  id := seq
  reg := w.reg
  kind := w.kind
  squash := sq
  pc := pc
  slot := slot

/-- A result in flight (R58): `lat` cycles from landing, a scratchpad result later by the cycles of a bank conflict (R181). -/
def flightOf (sq : Bool) (conflict seq : Nat) (o : Out) : Flight where
  reg := o.reg
  mask := BitVec.ofNat 1024 o.mask
  val := BitVec.ofNat 1024 o.val
  fl := o.fl
  left := o.lat + if o.spad then conflict else 0
  squash := sq && !o.keep
  seq := seq

/-- A list with consecutive numbers. -/
def numberedFrom {α β : Type} (f : Nat → α → β) : Nat → List α → List β
  | _, [] => []
  | n, a :: t => f n a :: numberedFrom f (n + 1) t

/-- A context whose bundle issues, with the work put in hand. -/
def began (k : Ctx) (ws : List Work) : Ctx := { k with stall := 0, preStall := 0, wait := none, works := k.works ++ ws }

/-- A context one cycle on (R58, R60, R233): results, handles and work of a fixed time come nearer, and those due land. -/
def ticked (k : Ctx) : Ctx := tickWorks (tickHandles (tickFlights k))

/-- Where the stream goes after a bundle: to the next one, or past a body skipped; a taken branch goes at the end of the bundle
after this one (R66, R74). -/
def streamed (k : Ctx) (jump : Option (Nat × Bool)) (skip : Option Nat) : Ctx :=
  match jump, skip with
  | some (t, closes), _ => { k with pc := k.pc + 16, branch := some (BitVec.ofNat 57 t, closes), iterEnd := false }
  | none, some t => { k with pc := BitVec.ofNat 57 t, iterEnd := false }
  | none, none => { k with pc := k.pc + 16, iterEnd := false }

/-- A context after its bundle, with results put in flight, at the end of the cycle (R58, R66); a taken branch has killed what
is marked to be killed (R65). -/
def ended (k : Ctx) (jump : Option (Nat × Bool)) (skip : Option Nat) (fs : List Flight) : Ctx :=
  let k := ticked { streamed k jump skip with flights := k.flights ++ fs }
  if jump.isSome then killSquash k else k

/-- Everything but cores, contexts, time and the cycle counts of islands is as before; and so are the other cores and their
contexts. -/
structure Elsewhere (s t : State) : Prop where
  rest : t = { s with time := t.time, seq := t.seq, cores := t.cores, ctxs := t.ctxs, islands := t.islands }
  cores : ∀ d, d ≠ s.focus → getCore t d = getCore s d
  ctxs : ∀ d y, d ≠ s.focus → y < 8 → getCtx t d y = getCtx s d y
  islands : ∀ j, getIsland t j = { getIsland s j with
    gap := (getIsland t j).gap, episode := (getIsland t j).episode, stretched := (getIsland t j).stretched,
    filler := (getIsland t j).filler }

/-- A core after a cycle: its counters have gone on; the array's own work, the debug block and the accesses in flight on banks
have had their cycle; the rest is as given. -/
def CoreCycled (k k' : Core) (len held : Nat) : Prop :=
  k' = { k with
    cycle := k.cycle + 1, tnext := k.tnext + len, owned := k.owned + 1, held := held
    array := k'.array, guard := k'.guard, writes := k'.writes, vbusy := k'.vbusy, probe := k'.probe }

/-- What an instruction that issues does, and that it does nothing else: its context and its core are changed as told and
have had their cycle, the core's other contexts have had their cycle, and everything else, memory among it, is as before. -/
structure DidTo (s : State) (x : Nat) (d : Deed) (t : State) : Prop where
  time : t.time = max s.time (getCore s s.focus).tnext
  seq : t.seq = s.seq + d.works.length + d.outs.length
  ctx : getCtx t s.focus x =
    ended (d.ctx (began (getCtx s s.focus x)
        (numberedFrom (fun n => workOf d.sq n (getCtx s s.focus x).pc.toNat (s.latch.slot % 4)) s.seq d.works)))
      d.jump d.skip (numberedFrom (flightOf d.sq d.conflict) (s.seq + d.works.length) d.outs)
  others : ∀ y, y < 8 → y ≠ x → getCtx t s.focus y = ticked (getCtx s s.focus y)
  core : CoreCycled (d.core (getCore s s.focus)) (getCore t s.focus) (cycleLen s s.focus) d.conflict
  elsewhere : Elsewhere s t

/-- The instruction answers a next state, in which it has done that and nothing else. -/
def Did (s : State) (x : Nat) (i : Instr) (d : Deed) : Prop := ∃ t, exec i s = .next t ∧ DidTo s x d t

/-- A bundle of the context that holds issue waits for a cycle and does nothing else (R57, R58): its stall counter goes on, and its
core's contexts and array have had their cycle; every memory is as before. -/
structure Stalled (s : State) (x : Nat) (t : State) : Prop where
  time : t.time = max s.time (getCore s s.focus).tnext
  seq : t.seq = s.seq
  ctx : getCtx t s.focus x = ticked { getCtx s s.focus x with stall := (getCtx s s.focus x).stall + 1 }
  others : ∀ y, y < 8 → y ≠ x → getCtx t s.focus y = ticked (getCtx s s.focus y)
  core : CoreCycled (getCore s s.focus) (getCore t s.focus) (cycleLen s s.focus) 0
  elsewhere : Elsewhere s t

/-- The work that the slots of a bundle put in hand, in the order in which they do: what does not store, then what does (R182). -/
def bundleWorks (l : List (Placed × Effect)) : List (Placed × NewWork) :=
  let put := fun (b : Bool) => l.flatMap fun e => (e.2.works.filter fun w => w.kind.stores == b).map fun w => (e.1, w)
  put false ++ put true

/-- The results that the slots of a bundle put in flight. -/
def bundleOuts (l : List (Placed × Effect)) : List (Placed × Out) := l.flatMap fun e => e.2.outs.map fun o => (e.1, o)

/-- What a bundle does whose slots put results in flight and work in hand and do nothing else (R35, R57, R58): all of them, in
slot order, under one bank conflict; and the stream goes on to the next bundle. -/
structure Bundled (s : State) (x : Nat) (l : List (Placed × Effect)) (t : State) : Prop where
  time : t.time = max s.time (getCore s s.focus).tnext
  seq : t.seq = s.seq + (bundleWorks l).length + (bundleOuts l).length
  ctx : getCtx t s.focus x =
    let k := began (getCtx s s.focus x) (numberedFrom (fun n (e : Placed × NewWork) =>
      workOf e.1.info.squash n (getCtx s s.focus x).pc.toNat e.1.pos e.2) s.seq (bundleWorks l))
    ended k none none (numberedFrom (fun n (e : Placed × Out) => flightOf e.1.info.squash (conflictOf l) n e.2)
      (s.seq + (bundleWorks l).length) (bundleOuts l))
  others : ∀ y, y < 8 → y ≠ x → getCtx t s.focus y = ticked (getCtx s s.focus y)
  core : CoreCycled (getCore s s.focus) (getCore t s.focus) (cycleLen s s.focus) (conflictOf l)
  elsewhere : Elsewhere s t

/-- The context gives up issue at a yield: the next context's first bundle waits `rest` cycles (R53). -/
def gaveUp (u : State) (x rest : Nat) : State :=
  modCore u u.focus fun k => { k with owner := none, last := x, owned := 0, rest := rest, held := 0 }

/-- The instruction answers a next state in which it has done nothing else but meet a yield point: its context is changed by
`f`, and gives up issue until its results have landed (R53). -/
def Yielded (s : State) (x : Nat) (i : Instr) (f : State → State) : Prop :=
  ∃ u, DidTo s x {} u ∧ exec i s = .next (gaveUp (f u) x (landWait (getCtx u s.focus x)))

/-- A bundle boundary after an instruction that held issue no further: no yield point is put off (R55, R380). -/
def settled (u : State) (x : Nat) : State := modCtx u u.focus x fun k => { k with due := .none }

/-- The instruction answers a next state in which it has done nothing else but raise a fault after its bundle (R380). -/
def Trapped (s : State) (x : Nat) (i : Instr) (t : Trap) : Prop :=
  ∃ u, DidTo s x {} u ∧ exec i s = .next (takeFault (settled u x) s.focus x t)

/-- The operation of a slot instruction as the latch places it. -/
def placedAt (s : State) (i : Instr) : Option Placed :=
  match classOf i, slotInfo i with
  | some c, some f => some (onePlaced s.latch c f)
  | _, _ => none

/-- The instruction issues with an effect on more than its context and core, and answers the state that comes of it. -/
def Goes (s : State) (x : Nat) (i : Instr) (e : Effect) : Prop :=
  ∃ p, placedAt s i = some p ∧ exec i s = .next (issued s x p e)


/-! ### Instructions of one shape -/

/-- A scalar instruction of two register operands. -/
abbrev TwoReg := BitVec 4 → BitVec 1 → BitVec 6 → BitVec 6 → BitVec 6 → Instr
/-- A scalar instruction of one register operand. -/
abbrev OneReg := BitVec 4 → BitVec 1 → BitVec 6 → BitVec 6 → Instr

/-- The integer instructions with a result of fixed latency: instruction, latency, result (R58, R108, R110, R111). -/
def integerTable : List (TwoReg × Nat × (Word → Word → Word)) := [
  (.add, 1, fun a b => a + b), (.sub, 1, fun a b => a - b),
  (.mul, 3, fun a b => a * b),
  (.mulh, 3, fun a b => wordOfInt (a.toInt * b.toInt / 2 ^ 64)),
  (.mulhn, 3, fun a b => BitVec.ofNat 64 (a.toNat * b.toNat / 2 ^ 64)),
  (.and, 1, fun a b => a &&& b), (.or, 1, fun a b => a ||| b), (.xor, 1, fun a b => a ^^^ b), (.andn, 1, fun a b => a &&& ~~~b),
  (.shl, 1, fun a b => a <<< (b.toNat % 64)), (.shr, 1, fun a b => a >>> (b.toNat % 64)),
  (.sar, 1, fun a b => a.sshiftRight (b.toNat % 64)), (.rol, 1, fun a b => a.rotateLeft (b.toNat % 64)),
  (.min, 1, fun a b => if a.slt b then a else b), (.max, 1, fun a b => if a.slt b then b else a),
  (.minn, 1, fun a b => if a.ult b then a else b), (.maxn, 1, fun a b => if a.ult b then b else a),
  (.shadd1, 1, fun a b => a * 2 + b), (.shadd2, 1, fun a b => a * 4 + b), (.shadd3, 1, fun a b => a * 8 + b),
  (.bfx, 1, extractSigned), (.bfxn, 1, fun a b => BitVec.ofNat 64 (extractField a b))]

/-- The integer instructions of one operand (R112). -/
def unaryTable : List (OneReg × (Word → Word)) := [
  (.clz, fun a => BitVec.ofNat 64 (leadingZeros a)), (.ctz, fun a => BitVec.ofNat 64 (trailingZeros a)),
  (.popc, fun a => BitVec.ofNat 64 (oneBits 64 a.toNat)), (.mov, fun a => a)]

/-- The divisions and remainders (R109). -/
def divideTable : List (TwoReg × (Word → Word → Word)) := [
  (.div, fun a b => if b = 0 then BitVec.allOnes 64 else a.sdiv b),
  (.divn, fun a b => if b = 0 then BitVec.allOnes 64 else a / b),
  (.rem, fun a b => if b = 0 then a else a.srem b),
  (.remn, fun a b => if b = 0 then a else a % b)]

/-- The register compares (R113). -/
def compareTable : List (TwoReg × (Word → Word → Bool)) := [
  (.cmpeq, fun a b => a == b), (.cmpne, fun a b => a != b), (.cmplt, fun a b => a.slt b), (.cmple, fun a b => a.sle b),
  (.cmpltn, fun a b => a.ult b), (.cmplen, fun a b => a.ule b)]

/-- The compares with an immediate (R113). -/
def compareImmTable : List (TwoReg × (Word → Word → Bool)) := [
  (.cmpeqi, fun a b => a == b), (.cmpnei, fun a b => a != b), (.cmplti, fun a b => a.slt b), (.cmpltni, fun a b => a.ult b)]

/-- The instructions of a register and an immediate (R107, R108). -/
def immediateTable : List (TwoReg × Nat × (Word → Word → Word)) := [
  (.addi, 1, fun a i => a + i), (.muli, 3, fun a i => a * i), (.andi, 1, fun a i => a &&& i), (.ori, 1, fun a i => a ||| i),
  (.xori, 1, fun a i => a ^^^ i)]

/-- The shifts by an immediate (R110). -/
def shiftImmTable : List (TwoReg × (Word → Nat → Word)) := [
  (.shli, fun a n => a <<< n), (.shri, fun a n => a >>> n), (.sari, fun a n => a.sshiftRight n)]

/-- The float instructions of two operands (R117, R118): instruction, latency, result and flags. -/
def floatTable : List (TwoReg × Nat × (Nat → Nat → FRes)) := [
  (.fadd, 4, fun x y => finish fmtF32 (addV (decodeF fmtF32 x) (decodeF fmtF32 y))),
  (.fsub, 4, fun x y => finish fmtF32 (addV (decodeF fmtF32 x) (decodeF fmtF32 y).flip)),
  (.fmul, 4, fun x y => finish fmtF32 (mulE (decodeF fmtF32 x) (decodeF fmtF32 y))),
  (.fmin, 2, fun x y => ⟨minMaxF fmtF32 false x y, 0⟩), (.fmax, 2, fun x y => ⟨minMaxF fmtF32 true x y, 0⟩)]

/-- The float instructions of one operand with a result of fixed latency (R118, R121). -/
def floatUnaryTable : List (OneReg × Nat × (Nat → FRes)) := [
  (.fabs, 1, fun x => ⟨absF fmtF32 x, 0⟩), (.fneg, 1, fun x => ⟨negF fmtF32 x, 0⟩),
  (.fexp2, 8, fun x => finish fmtF32 (exp2V (decodeF fmtF32 x))), (.flog2, 8, fun x => finish fmtF32 (log2V (decodeF fmtF32 x)))]

/-- The float compares (R119): what they answer of two numbers' order, and of a pair with a NaN. -/
def floatCompareTable : List (TwoReg × (Int → Bool) × Bool) := [
  (.fceq, fun c => c == 0, false), (.fclt, fun c => decide (c < 0), false), (.fcle, fun c => decide (c ≤ 0), false),
  (.fcun, fun _ => false, true)]

/-- A float compare of two operands. -/
def floatOrder (f : Int → Bool) (unordered : Bool) (x y : Nat) : Bool :=
  let a := decodeF fmtF32 x
  let b := decodeF fmtF32 y
  if a.isNan || b.isNan then unordered else f (cmpV a b)

/-- A scalar result of latency `lat`. -/
abbrev scalarDeed (q : BitVec 1) (d : Reg) (lat v fl : Nat) : Deed where
  sq := q = 1
  outs := [{ reg := d, val := v, lat := lat, fl := fl }]

/-- A scalar result that is interlocked. -/
abbrev longDeed (q : BitVec 1) (d : Reg) (v fl : Nat) : Deed where
  sq := q = 1
  works := [{ reg := d, kind := .value (BitVec.ofNat 1024 v) fl }]

/-- The context of the instruction that issues next. -/
def issuer (s : State) (x : Nat) : Ctx := getCtx s s.focus x
/-- Its register operand. -/
def operand (s : State) (x : Nat) (r : BitVec 6) : Word := readS (issuer s x) r.toNat

/-! ### Vector instructions -/

/-- A vector instruction of three vector operands. -/
abbrev ThreeVec := BitVec 4 → BitVec 1 → BitVec 3 → BitVec 5 → BitVec 5 → BitVec 5 → Instr
/-- A vector instruction of two vector operands. -/
abbrev TwoVec := BitVec 4 → BitVec 1 → BitVec 3 → BitVec 5 → BitVec 5 → Instr

/-- Element `i` of the part of a vector register an operation reads. -/
def vElem (s : State) (x : Nat) (v : VX) (r i : Nat) : Nat := elem v.e ((readV (issuer s x) r).toNat / 2 ^ v.lo) i
/-- The elements of that part. -/
def vElems (s : State) (x : Nat) (v : VX) (r : Nat) : List Nat := (upTo v.n).map (vElem s x v r)

/-- A vector result of latency `lat`: elements of width `e` from element `i` on, each under its own guard bit (R63, R124). -/
abbrev vecDeed (s : State) (x : Nat) (g : BitVec 4) (q : BitVec 1) (v : VX) (d lat e i : Nat) (rs : List FRes) : Deed where
  sq := q = 1
  outs := [{
    reg := .v d
    val := (place (readQ (issuer s x) g.toNat) v.lo e i rs).2.1
    lat := lat
    mask := (place (readQ (issuer s x) g.toNat) v.lo e i rs).1
    fl := (place (readQ (issuer s x) g.toNat) v.lo e i rs).2.2 }]

/-- A lane-predicate result: the byte bits of each element under its own guard bit (R132). -/
abbrev lanesDeed (s : State) (x : Nat) (g : BitVec 4) (q : BitVec 1) (v : VX) (d : Nat) (bs : List Bool) : Deed where
  sq := q = 1
  outs := [{
    reg := .q (d / 2)
    val := (placeQ (readQ (issuer s x) g.toNat) v.lo v.e 0 bs).2
    lat := 2
    mask := (placeQ (readQ (issuer s x) g.toNat) v.lo v.e 0 bs).1 }]

/-- The elementwise instructions of three operands: instruction, latency by type, result of elements of va, vb and the old
vd (R58, R127–R131, R145). -/
noncomputable def vector3Table : List (ThreeVec × (VTy → Nat) × (VTy → Nat → Nat → Nat → FRes)) := [
  (.vadd, lat25, arith (fun a b _ => a + b) (fun a b _ => addV a b)),
  (.vsub, lat25, arith (fun a b _ => a - b) (fun a b _ => addV a b.flip)),
  (.vmul, lat45, arith (fun a b _ => a * b) (fun a b _ => mulE a b)),
  (.vmulh, latN 4, integral (fun e a b => a * b / 2 ^ e)),
  (.vfma, lat45, arith (fun a b d => d + a * b) (fun a b d => fmaV a b d)),
  (.vfms, lat45, arith (fun a b d => d - a * b) (fun a b d => fmaV a.flip b d)),
  (.vmin, lat25, fun t a b _ => ⟨pick false t a b, 0⟩), (.vmax, lat25, fun t a b _ => ⟨pick true t a b, 0⟩),
  (.vadds, lat25, saturate (fun a b => a + b)), (.vsubs, lat25, saturate (fun a b => a - b)),
  (.vavg, lat25, integral (fun _ a b => (a + b + 1) / 2)),
  (.vclamp, lat25, fun t a b d => ⟨pick false t (pick true t d a) b, 0⟩),
  (.vand, latN 1, fun _ a b _ => ⟨a &&& b, 0⟩), (.vor, latN 1, fun _ a b _ => ⟨a ||| b, 0⟩),
  (.vxor, latN 1, fun _ a b _ => ⟨a ^^^ b, 0⟩), (.vandn, latN 1, fun t a b _ => ⟨a &&& (ones t.bits - b), 0⟩),
  (.vshl, latN 1, fun t a b _ => ⟨a * 2 ^ (b % t.bits), 0⟩), (.vshr, latN 1, fun t a b _ => ⟨a / 2 ^ (b % t.bits), 0⟩),
  (.vsar, latN 1, fun t a b _ => ⟨narrow t.bits (signed t.bits a / 2 ^ (b % t.bits)), 0⟩),
  (.vrng, latN 6, fun t c k _ => match t with
    | .int _ _ => ⟨mix c k, 0⟩
    | .flt f => finish f (.real false (mix c k / 256) (-24) false))]

/-- What a special function gives of an element (R144). -/
def special (h : FVal → Exact) (t : VTy) (a : Nat) : FRes :=
  match t with
  | .flt f => finish f (h (decodeF f a))
  | .int _ _ => ⟨a, 0⟩

/-- The elementwise instructions of two operands (R58, R128–R131, R134, R144). -/
noncomputable def vector2Table : List (TwoVec × (VTy → Nat) × (VTy → Nat → FRes)) := [
  (.vabs, lat25, fun t a => ⟨match t with | .int sg e => narrow e (intVal sg e a).natAbs | .flt f => absF f a, 0⟩),
  (.vneg, lat25, fun t a => ⟨match t with | .int sg e => narrow e (-(intVal sg e a)) | .flt f => negF f a, 0⟩),
  (.vnot, latN 1, fun t a => ⟨ones t.bits - a, 0⟩), (.vmov, latN 1, fun _ a => ⟨a, 0⟩),
  (.vexp2, latN 12, special exp2V), (.vlog2, latN 12, special log2V), (.vrcp, latN 12, special (divV (.fin false 1 0))),
  (.vrsq, latN 12, special rsqrtV), (.vsqrt, latN 12, special sqrtV), (.vtanh, latN 12, special tanhV),
  (.vsigm, latN 12, special sigmV), (.vsin, latN 12, special sinV), (.vcos, latN 12, special cosV)]

/-- The compares into lane predicates (R132). -/
def vectorCompareTable : List (ThreeVec × (Int → Bool) × Bool) := [
  (.vceq, fun c => decide (c = 0), false), (.vcne, fun c => decide (c ≠ 0), true), (.vclt, fun c => decide (c < 0), false),
  (.vcle, fun c => decide (c ≤ 0), false)]

/-- The logic of lane predicates (R135). -/
def laneLogicTable : List ((BitVec 4 → BitVec 1 → BitVec 3 → BitVec 5 → BitVec 4 → BitVec 4 → Instr) × (QWord → QWord → QWord)) := [
  (.qand, fun a b => a &&& b), (.qor, fun a b => a ||| b), (.qxor, fun a b => a ^^^ b)]

/-- The reductions: each element of the result is that of all the source's elements (R140, R141). -/
noncomputable def reduceTable : List (TwoVec × Nat × (VTy → List Nat → Nat → FRes)) := [
  (.vradd, 8, fun t l _ => sumElems t l), (.vrmax, 8, fun t l _ => ⟨reduceElems true t l, 0⟩),
  (.vrmin, 8, fun t l _ => ⟨reduceElems false t l, 0⟩), (.vramax, 8, fun t l _ => maxMagnitude t l),
  (.vscan, 10, fun t l i => sumElems t (l.take (i + 1)))]

/-- The conversions: whether they saturate (R136). -/
def convertTable : List ((BitVec 4 → BitVec 1 → BitVec 3 → BitVec 5 → BitVec 5 → BitVec 4 → Instr) × Bool) := [
  (.vcvt, false), (.vcvtw, false), (.vcvtn, false), (.vcvtns, true)]

/-- The scale operations: instruction, source width, result width, result of an element and its two scales (R100, R147). -/
noncomputable def scaleTable : List ((BitVec 4 → BitVec 1 → BitVec 3 → BitVec 5 → BitVec 5 → BitVec 2 → Instr) ×
    (VTy → Nat) × (VTy → Nat) × (VTy → Nat → FVal × FVal → FRes)) := [
  (.vscale, fun _ => 32, fun _ => 32, fun _ v k => finish fmtF32 (mul3 (decodeF fmtF32 v) k.1 k.2)),
  (.vqnt, fun _ => 32, VTy.bits, fun t v k => quantize t (quotient (decodeF fmtF32 v) k.1 k.2)),
  (.vdq, VTy.bits, fun _ => 32, fun t v k =>
    finish fmtF32 (mul3 (match t with | .int sg e => FVal.ofInt (intVal sg e v) | .flt f => decodeF f v) k.1 k.2))]

/-- A vector result in the low part of the width, the rest written zero (R136, R147). -/
abbrev lowDeed (s : State) (x : Nat) (g : BitVec 4) (q : BitVec 1) (v : VX) (d lat e n : Nat) (rs : List FRes) : Deed where
  sq := q = 1
  outs := [{
    reg := .v d
    val := (place (readQ (issuer s x) g.toNat) v.lo e 0 rs).2.1
    lat := lat
    mask := (place (readQ (issuer s x) g.toNat) v.lo e 0 rs).1 +
      zeroFill (readQ (issuer s x) g.toNat) (v.lo + n * e) (v.lo + v.w)
    fl := (place (readQ (issuer s x) g.toNat) v.lo e 0 rs).2.2 }]

/-! ### Memory instructions -/

/-- A load through a handle, or a load of a scratchpad level. -/
abbrev LoadForm := BitVec 4 → BitVec 1 → BitVec 6 → BitVec 4 → BitVec 6 → BitVec 2 → Instr
/-- A store through a handle or to a scratchpad level. -/
abbrev StoreForm := BitVec 4 → BitVec 6 → BitVec 4 → BitVec 6 → BitVec 2 → Instr

/-- The loads through a handle (R198). -/
noncomputable def loadTable : List (LoadForm × LoadAs) := [
  (.ldgB, .signed 1), (.ldgBn, .unsigned 1), (.ldgH, .signed 2), (.ldgHn, .unsigned 2), (.ldgW, .signed 4),
  (.ldgWn, .unsigned 4), (.ldgD, .unsigned 8), (.vldg, .vector)]

/-- The stores through a handle: bytes, and whether the register is a vector (R198). -/
noncomputable def storeTable : List (StoreForm × Nat × Bool) := [
  (.stgB, 1, false), (.stgH, 2, false), (.stgW, 4, false), (.stgD, 8, false), (.vstg, 128, true)]

/-- The loads and stores of the core scratchpad (R199). -/
noncomputable def spadLoadTable : List (LoadForm × LoadAs) := [(.ldS, .unsigned 8), (.vldS, .vector)]
/-- R199. -/
noncomputable def spadStoreTable : List (StoreForm × Nat × Bool) := [(.stS, 8, false), (.vstS, 128, true)]
/-- The loads and stores of cluster-shared memory and the chip scratchpad (R199). -/
noncomputable def levelLoadTable : List (LoadForm × Level) := [(.vldC, .cluster), (.vldX, .chip)]
/-- R199. -/
noncomputable def levelStoreTable : List (StoreForm × Level) := [(.vstC, .cluster), (.vstX, .chip)]
/-- The gathers and scatters: whether of lane-private memory (R201). -/
noncomputable def gatherTable : List (LoadForm × Bool) := [(.vgthS, false), (.vgthL, true)]
/-- R201. -/
noncomputable def scatterTable : List (StoreForm × Bool) := [(.vsctS, false), (.vsctL, true)]

/-- The atomics (R205). -/
noncomputable def atomicTable : List (StoreForm × AtomOp) := [
  (.aadd, .add), (.aand, .and), (.aor, .or), (.axor, .xor), (.amin, .min), (.amax, .max), (.aminn, .minn), (.amaxn, .maxn),
  (.aswp, .swp), (.acas, .cas), (.afadd, .fadd)]

/-- The value a store takes from its register. -/
def stored (k : Ctx) (isV : Bool) (d : BitVec 6) : Nat := if isV then (readV k d.toNat).toNat else (readS k d.toNat).toNat

/-- Whether a line is in a core's line cache or finds a way of its set free (R189). -/
def lineFits (k : Core) (line : Nat) : Bool :=
  (mfind k.lines line).isSome || countIf (fun e => Config.lineSet e.1 == Config.lineSet line) k.lines < 8

/-- The line cache and the write signatures of a core after a store of `n` bytes of a task that its line cache takes (R189,
R215). -/
def cached (task pa n v : Nat) (k : Core) : Core :=
  { k with
    lines := mset k.lines (pa / 128) (lineBlend (mget k.lines (pa / 128) emptyLine) task (pa % 128) n v true)
    holdings := k.holdings.map fun h =>
      if h.lo ≤ pa ∧ pa < h.lo + h.len then
        { h with sig := h.sig ||| BitVec.twoPow 512 (((pa - h.lo) / 128 ^^^ (pa - h.lo) / 128 / 512) % 512) }
      else h }

/-- Byte `b` of memory, read as `old`, once the dirty bytes of a core's line cache have reached their slices (R189). -/
def backed (s : State) (c b old : Nat) : Nat :=
  match mfind (getCore s c).lines (b / 128) with
  | some l => if l.dirty.getLsbD (b % 128) then elem 8 l.val.toNat (b % 128) else old
  | none => old

/-- Every dirty byte of the line caches of these cores, in their order, has reached its slice, and no other byte has changed
(R189, R222). -/
def WroteBack (s t : State) (cs : List Nat) : Prop :=
  ∀ b, (mget t.mem b 0).toNat =
    if b < 2 ^ 48 then cs.foldl (fun v c => backed s c b v) (mget s.mem b 0).toNat else (mget s.mem b 0).toNat

/-- Nothing holds a store back on its way to its slice: none is on its way, no page has a replica, and no cluster unit holds a
line (R224, R229). -/
def NothingOut (s : State) : Prop := s.stores = [] ∧ s.replicas = [] ∧ s.cluLines = []

/-- What an atomic writes over the word `old` (R205), from its operand and its compare value; a CAS that fails writes nothing. -/
noncomputable def atomicWrites (op : AtomOp) (old a cmp : Nat) : Option Nat :=
  match op with
  | .add => some ((old + a) % 2 ^ 64)
  | .and => some (Nat.land old a)
  | .or => some (Nat.lor old a)
  | .xor => some (Nat.xor old a)
  | .min => some (if signed 64 old < signed 64 a then old else a)
  | .max => some (if signed 64 old < signed 64 a then a else old)
  | .minn => some (min old a)
  | .maxn => some (max old a)
  | .swp => some a
  | .cas => if old = a then some cmp else none
  | .fadd => some (finish fmtF32 (addV (decodeF fmtF32 old) (decodeF fmtF32 (a % 2 ^ 32)))).bits

/-- A number from its bytes, the lowest first (R4). -/
def ofBytes (n : Nat) (f : Nat → Nat) : Nat := nsum ((upTo n).map fun i => f i * 256 ^ i)

/-- Bit `n` of a memory. -/
def memBit (m : Map Byte) (n : Nat) : Bool := (mget m (n / 8) 0).getLsbD (n % 8)

/-- Bit `n` of a memory that had it as `old`, once pieces (first bit, bits, value) have been laid over it in their order. -/
def laid (ps : List (Nat × Nat × Nat)) (n : Nat) (old : Bool) : Bool :=
  ps.foldl (fun v p => if p.1 ≤ n ∧ n < p.1 + p.2.1 then bitOf p.2.2 (n - p.1) else v) old

/-! ### Exact sums (R93–R95) -/

/-- The products of two lists of values in their order, negated or not, and whether each is infinity times zero. -/
def products (neg : Bool) (as bs : List FVal) : List (FVal × Bool) :=
  (as.zip bs).map fun p => (if neg then (mulV p.1 p.2).1.flip else (mulV p.1 p.2).1, (mulV p.1 p.2).2)

/-- An accumulator after terms have been added, each with whether it is invalid: the exact sum of the finite ones, in units of
2^-320 for a float format; whether there was a term, and each number of them was negative; a NaN, an invalid one, an infinity of either sign. -/
def added (f : MatFmt) (a : Acc) (ts : List (FVal × Bool)) : Acc :=
  let negative := fun (v : FVal) => match v with | .nan => true | .inf _ => false | .fin n _ _ => n
  let infinite := fun (neg : Bool) (v : FVal) => match v with | .inf n => n == neg | _ => false
  { a with
    sum := a.sum + isum (ts.map fun t => if t.2 then 0 else scaleV (if f.isFloat then -320 else 0) t.1)
    any := a.any || !ts.isEmpty
    allNeg := a.allNeg && ts.all fun t => t.2 || negative t.1
    nan := a.nan || ts.any fun t => !t.2 && t.1.isNan
    bad := a.bad || ts.any fun t => t.2
    pinf := a.pinf || ts.any fun t => !t.2 && infinite false t.1
    ninf := a.ninf || ts.any fun t => !t.2 && infinite true t.1 }

/-- The word of an accumulator: the sum of integers saturated to 32 bits; of floats rounded once, a NaN where a term was one, or
invalid, or infinities of both signs met, and zero negative where every term was. -/
def sumWord (f : MatFmt) (a : Acc) : Nat :=
  if f.isFloat = false then narrow 32 (max (-2 ^ 31) (min (2 ^ 31 - 1) a.sum))
  else if a.nan || a.bad || (a.pinf && a.ninf) then 0x7FC00000
  else if a.pinf then 0x7F800000
  else if a.ninf then 0xFF800000
  else if a.sum = 0 then (if a.any && a.allNeg then 2 ^ 31 else 0)
  else (finish fmtF32 (.real (a.sum < 0) a.sum.natAbs (-320) false)).bits

/-- The accumulator with which a sum begins: nothing, or a word of the tile or of y (R158, R249). -/
def startAcc (f : MatFmt) (zero : Bool) (w : Nat) : Acc :=
  if zero then {} else added f {} [(if f.isFloat then decodeF fmtF32 w else FVal.ofInt (signed 32 w), false)]

/-! ### What engines write (R237–R239, R249) -/

/-- The bit of the memory behind a side at which a unit offset begins. -/
def bitAt (r : Reach) (u : Int) : Nat := 8 * r.byte u + if r.nib then 4 * (u % 2).toNat else 0

/-- An element of a CPY's source as its mode gives it to the destination: as it is, or converted. -/
noncomputable def copied (s : State) (d : CpyDesc) (src : Reach) (u : Int) : Nat :=
  if d.mode = 0 then readElem s src d.st u else (convert d.sat d.st d.dt (readElem s src d.st u)).bits

/-- The pieces a CPY lays over its destination: its elements in the order of its dimensions, or in a plane transpose the columns
of each buffer, positions beyond the source zero. -/
noncomputable def cpyPieces (s : State) (d : CpyDesc) (src dst : Reach) : List (Nat × Nat × Nat) :=
  match decide (d.mode = 2), transposeFmt d.dt with
  | true, some f =>
    let d0 := nth d.dims 0 ⟨0, 0, 0⟩
    let d1 := nth d.dims 1 ⟨0, 0, 0⟩
    (walkDims (d.dims.drop 2)).flatMap fun o => (upTo 16).flatMap fun col =>
      (columnPieces f col ((upTo f.k).map fun k => if k < d0.size ∧ col < d1.size then
          (convert d.sat d.st d.dt (readElem s src d.st (d.src.base + o.1 + k * d0.src + col * d1.src))).bits else 0)).map
        fun p => (8 * ((d.dst.base + o.2).toNat + p.1), 8 * p.2.1, p.2.2)
  | _, _ => (walkDims d.dims).map fun o => (bitAt dst (d.dst.base + o.2), d.dt.bits, copied s d src (d.src.base + o.1))

/-- The word an MVX gives row `r`: the sum of x times the row's weights, read with the planes declared, and of y where it
accumulates. -/
noncomputable def mvxWord (s : State) (d : MvxDesc) (f : MatFmt) (w x y : Reach) (r : Nat) : Nat :=
  let row := elems f.b.bits (readNat s.mem (w.byte (d.woff + (r * d.pitch : Nat))) ((d.n * f.b.bits + 7) / 8)) d.n
  let xs := (upTo d.n).map fun k => valueOf f.a (readElem s x f.a (d.x.base + (k * unitsOf f.a : Nat)))
  sumWord f (added f (startAcc f (!d.acc) (readNat (reachMem s y) (y.byte (d.y.base + (4 * r : Nat))) 4))
    (products false xs (row.map (weightOf f.b d.planes))))

/-- The pieces an MVX lays over y: the words of the rows whose weights lie on a channel of CHMASK. -/
noncomputable def mvxPieces (s : State) (d : MvxDesc) (f : MatFmt) (w x y : Reach) : List (Nat × Nat × Nat) :=
  ((upTo d.m).filter fun r => bitOf d.mask (bitsOf (w.byte (d.woff + (r * d.pitch : Nat))) 12 5)).map fun r =>
    (8 * y.byte (d.y.base + (4 * r : Nat)), 32, mvxWord s d f w x y r)

/-- An engine has laid these pieces over the memory behind a side, then the number of its operation at `pub` (R242), and has
written nothing else in any memory. -/
def EngineWrote (s t : State) (dst : Reach) (ps : List (Nat × Nat × Nat)) (n : Nat) (pub : Option Nat) : Prop :=
  let word := match pub with | some pa => [(8 * pa, 64, n)] | none => []
  (∀ b, memBit (reachMem t dst) b = laid (if dst.lvl = 3 then ps ++ word else ps) b (memBit (reachMem s dst) b)) ∧
  (dst.lvl ≠ 3 → ∀ b, memBit t.mem b = laid word b (memBit s.mem b)) ∧
  (dst.lvl ≠ 2 → t.chip = s.chip) ∧
  (∀ q, dst.lvl ≠ 1 ∨ q ≠ islandOf dst.core → mget t.cluster q [] = mget s.cluster q []) ∧
  (∀ c, dst.lvl ≠ 0 ∨ c ≠ dst.core → (getCore t c).scratch = (getCore s c).scratch) ∧
  ∀ c, (getCore t c).lane = (getCore s c).lane ∧ (getCore t c).tiles = (getCore s c).tiles ∧
    (getCore t c).lines = (getCore s c).lines

/-- The most accesses of one bank among the words an access needs, less one (R181). -/
def bankConflict (words : List Nat) : Nat :=
  (upTo 32).foldl (fun n b => max n (countIf (fun w => w % 32 = b) words.eraseDups)) 0 - 1


/-! ### Operations that reach beyond their context and core -/

/-- Where the slot instruction that issues next stands, as its unit sees it. -/
def here (s : State) (x : Nat) : Port where
  core := s.focus
  ctx := x
  pos := s.latch.slot % 4
  pc := (getCtx s s.focus x).pc.toNat
  lead := s.focus
  ext := latchExt s
  squash := false
  lanes := 0

/-- A unit operation's work: its register, and what the unit is asked. -/
abbrev asks (d : Reg) (u : UnitOp) : Deed where
  works := [{ reg := d, kind := .unit u }]

/-- The MMA class (R167): each instruction with its sign and whether it opens a chain with no accumulator input. -/
noncomputable def mmaTable : List ((BitVec 4 → BitVec 8 → BitVec 6 → BitVec 6 → Instr) × Bool × Bool) := [
  (.mma, false, false), (.mmaz, false, true), (.mman, true, false)]

/-- Tile moves (R168): each instruction with its operation, and whether it writes the scratchpad. -/
noncomputable def tileMoveTable : List ((BitVec 4 → BitVec 8 → BitVec 6 → Instr) × MOp × Bool) := [
  (.mlda, .mlda, false), (.msta, .msta, true)]

end Sys2Proof.Machine
end

