-- ==== Sys2Proof/WellFormed.lean ====
section
/-! DEFINITION. The well-formed instructions: the limits on the fields of a slot word that hold whatever its header (R25, R40,
and each entry), and the numbers that name a part of the machine. A word outside them is ILLEGAL_SLOT; decoding gives it as
an instruction all the same, and its issue faults. -/

namespace Sys2Proof

/-- R25: a predicate destination names an even member, 0 to 10. -/
def evenTo10 {n : Nat} (p : BitVec n) : Bool := p.toNat % 2 = 0 && p.toNat ≤ 10

/-- R40: post-increment mode 10 needs s(x + 1). -/
def nextExists (m : BitVec 2) (x : BitVec 6) : Bool := !(m == 2 && x == 63)

/-- R194: a scalar load with post-increment does not load its own address register. -/
def apart (m : BitVec 2) (d x : BitVec 6) : Bool := m == 0 || d != x

/-- R40: a vector destination in memory forms is v0 to v62. -/
def vectorDest (d : BitVec 6) : Bool := d != 63

/-- R40: tiles are m0 to m159. -/
def tileOk (t : BitVec 8) : Bool := t.toNat < 160

/-- R40: loop levels are 0 to 5. -/
def levelOk (l : BitVec 3) : Bool := l.toNat ≤ 5

/-- The numbers of cores, sampler cores among them (R8, R15), contexts, islands, partitions, queues and streams. -/
def coreOk (c : Nat) : Bool := c < 48
def ctxOk (x : Nat) : Bool := x < 8
def islandOk (i : Nat) : Bool := i < 10
def partOk (p : Nat) : Bool := p < 8
def lowerThan (n x : Nat) : Bool := x < n

/-- Whether an instruction is well formed. -/
def Instr.wellFormed : Instr → Bool
  | .bundleIssue core => coreOk core
  | .contextSwitch core => coreOk core
  | .preemptFreeze core => coreOk core
  | .issueQuantumExpiry core => coreOk core
  | .fixedResultLand core => coreOk core
  | .interlockedComplete core ctx _ => coreOk core && ctxOk ctx
  | .ifetchFill core ctx => coreOk core && ctxOk ctx
  | .contextFree core ctx => coreOk core && ctxOk ctx
  | .matrixEntryStart core => coreOk core
  | .matrixEntryEnd core => coreOk core
  | .chainWritebackDone core => coreOk core
  | .slewStepBoundary island => islandOk island
  | .translationWalkComplete core ctx h => coreOk core && ctxOk ctx && lowerThan 16 h
  | .xltHandleLand core ctx => coreOk core && ctxOk ctx
  | .handleRetranslate core ctx h => coreOk core && ctxOk ctx && lowerThan 16 h
  | .lineCacheEvict core _ => coreOk core
  | .sliceStorePerform _ => true
  | .peepholeHeldPlace entry => lowerThan 256 entry
  | .coalesceWindowExpiry entry => lowerThan 256 entry
  | .cluAtomicWriteback cluster _ => islandOk cluster
  | .hostStore _ _ _ => true
  | .hostLoad _ _ => true
  | .replicaInvalidateAck _ cluster => islandOk cluster
  | .hacqGrant _ => true
  | .fenceComplete core ctx => coreOk core && ctxOk ctx
  | .engineOpStart cluster part e => islandOk cluster && partOk part && lowerThan 8 e
  | .engineOpComplete cluster part e => islandOk cluster && partOk part && lowerThan 8 e
  | .tlwaitComplete core ctx => coreOk core && ctxOk ctx
  | .tagwSatisfied core ctx => coreOk core && ctxOk ctx
  | .mwaitbSatisfied core ctx => coreOk core && ctxOk ctx
  | .barwRelease core ctx => coreOk core && ctxOk ctx
  | .qpopGrant queue => lowerThan 64 queue
  | .dlbarReady core ctx => coreOk core && ctxOk ctx
  | .dlbarTimeout core ctx => coreOk core && ctxOk ctx
  | .idleExpiry core ctx => coreOk core && ctxOk ctx
  | .windowStoreAccept core ctx _ => coreOk core && ctxOk ctx
  | .windowCommitPoint core ctx _ => coreOk core && ctxOk ctx
  | .windowCloseComplete w => lowerThan 16 w
  | .taskQueuePop queue => lowerThan 64 queue
  | .steepBoundary => true
  | .clockReduction island => islandOk island
  | .droopDetect island => islandOk island
  | .stretchEpisodeEnd island => islandOk island
  | .islandPowerGate island => islandOk island
  | .islandUngate island => islandOk island
  | .samplerJobStart n => lowerThan 8 n
  | .samplerRestart n => lowerThan 8 n
  | .shutterGo part => partOk part
  | .shutterAck part _ => partOk part
  | .shutterComplete part => partOk part
  | .firmwareFaultService => true
  | .faultReportWrite => true
  | .faultDisposition => true
  | .swapOrder island part => islandOk island && partOk part
  | .swapExchange island => islandOk island
  | .errorRowTestDone _ _ _ => true
  | .watchdogExpiry core ctx => coreOk core && ctxOk ctx
  | .moduleReset => true
  | .linkTrain _ _ => true
  | .fwctlGo => true
  | .fwCheckDone _ => true
  | .fwctlStart => true
  | .pwrlimWrite _ => true
  | .registerWrite _ _ => true
  | .pcreate part => partOk part
  | .pdestroy part => partOk part
  | .pstop part => partOk part
  | .presume part => partOk part
  | .setcost part => partOk part
  | .setramp part => partOk part
  | .qcreate part => partOk part
  | .qdestroy part => partOk part
  | .pmap part => partOk part
  | .fsvc part => partOk part
  | .pstats part => partOk part
  | .fsrespWrite _ => true
  | .evtailWrite _ => true
  | .csctlReset part n _ => partOk part && lowerThan 64 n
  | .csctlWrite part n _ => partOk part && lowerThan 64 n
  | .cstailWrite part n _ => partOk part && lowerThan 64 n
  | .csBlockFetch part n _ _ => partOk part && lowerThan 64 n
  | .csNop part n => partOk part && lowerThan 64 n
  | .launchCreate part n => partOk part && lowerThan 64 n
  | .launchPush part n => partOk part && lowerThan 64 n
  | .launchCancel part n => partOk part && lowerThan 64 n
  | .launchDestroy part n => partOk part && lowerThan 64 n
  | .launchReload part n => partOk part && lowerThan 64 n
  | .write32 part n => partOk part && lowerThan 64 n
  | .write32Consent part n => partOk part && lowerThan 64 n
  | .write64 part n => partOk part && lowerThan 64 n
  | .waitmem part n => partOk part && lowerThan 64 n
  | .waitmemSatisfied part n => partOk part && lowerThan 64 n
  | .waitmemTimeout part n => partOk part && lowerThan 64 n
  | .pred part n => partOk part && lowerThan 64 n
  | .ibuf part n => partOk part && lowerThan 64 n
  | .loopp part n => partOk part && lowerThan 64 n
  | .ffence part n => partOk part && lowerThan 64 n
  | .signal part n => partOk part && lowerThan 64 n
  | .haltRequest core _ => coreOk core
  | .haltLand core ctx => coreOk core && ctxOk ctx
  | .haltTimeout core ctx => coreOk core && ctxOk ctx
  | .resumeRequest core _ => coreOk core
  | .trpopWrite core => coreOk core
  | .d3hotEntry => true
  | .d3hotExit => true
  | .d3cold => true
  | .linkError _ => true
  | .nop .. => true
  | .br .. => true
  | .brs .. => true
  | .call .. => true
  | .ret .. => true
  | .yield .. => true
  | .yieldC .. => true
  | .endTask .. => true
  | .spawn _ _ b _ => b.toNat ≤ 58
  | .loop _ l _ _ => levelOk l
  | .loopi _ l _ _ => levelOk l
  | .lstr _ l _ _ _ => levelOk l
  | .lbrk _ l => levelOk l
  | .lcw _ p _ _ => evenTo10 p
  | .add .. => true
  | .sub .. => true
  | .mul .. => true
  | .mulh .. => true
  | .mulhn .. => true
  | .div .. => true
  | .divn .. => true
  | .rem .. => true
  | .remn .. => true
  | .and .. => true
  | .or .. => true
  | .xor .. => true
  | .andn .. => true
  | .shl .. => true
  | .shr .. => true
  | .sar .. => true
  | .rol .. => true
  | .min .. => true
  | .max .. => true
  | .minn .. => true
  | .maxn .. => true
  | .shadd1 .. => true
  | .shadd2 .. => true
  | .shadd3 .. => true
  | .cmpeq _ _ p _ _ => evenTo10 p
  | .cmpne _ _ p _ _ => evenTo10 p
  | .cmplt _ _ p _ _ => evenTo10 p
  | .cmple _ _ p _ _ => evenTo10 p
  | .cmpltn _ _ p _ _ => evenTo10 p
  | .cmplen _ _ p _ _ => evenTo10 p
  | .fadd .. => true
  | .fsub .. => true
  | .fmul .. => true
  | .ffma .. => true
  | .fdiv .. => true
  | .fsqrt .. => true
  | .fmin .. => true
  | .fmax .. => true
  | .fabs .. => true
  | .fneg .. => true
  | .fceq _ _ p _ _ => evenTo10 p
  | .fclt _ _ p _ _ => evenTo10 p
  | .fcle _ _ p _ _ => evenTo10 p
  | .fcun _ _ p _ _ => evenTo10 p
  | .fcvtif .. => true
  | .fcvtfi .. => true
  | .fexp2 .. => true
  | .flog2 .. => true
  | .clz .. => true
  | .ctz .. => true
  | .popc .. => true
  | .sext .. => true
  | .zext .. => true
  | .bfx .. => true
  | .bfxn .. => true
  | .bfi .. => true
  | .mov .. => true
  | .movp _ _ p _ _ _ => evenTo10 p
  | .movtp _ _ p _ => evenTo10 p
  | .addi .. => true
  | .muli .. => true
  | .andi .. => true
  | .ori .. => true
  | .xori .. => true
  | .shli .. => true
  | .shri .. => true
  | .sari .. => true
  | .cmpeqi _ _ p _ _ => evenTo10 p
  | .cmpnei _ _ p _ _ => evenTo10 p
  | .cmplti _ _ p _ _ => evenTo10 p
  | .cmpltni _ _ p _ _ => evenTo10 p
  | .movi .. => true
  | .movhi .. => true
  | .vadd .. => true
  | .vsub .. => true
  | .vmul .. => true
  | .vmulh .. => true
  | .vfma .. => true
  | .vfms .. => true
  | .vmin .. => true
  | .vmax .. => true
  | .vabs .. => true
  | .vneg .. => true
  | .vadds .. => true
  | .vsubs .. => true
  | .vavg .. => true
  | .vdot4 .. => true
  | .vmulw .. => true
  | .vclamp .. => true
  | .vand .. => true
  | .vor .. => true
  | .vxor .. => true
  | .vandn .. => true
  | .vnot .. => true
  | .vshl .. => true
  | .vshr .. => true
  | .vsar .. => true
  | .vceq _ _ _ d _ _ => evenTo10 d
  | .vcne _ _ _ d _ _ => evenTo10 d
  | .vclt _ _ _ d _ _ => evenTo10 d
  | .vcle _ _ _ d _ _ => evenTo10 d
  | .vclass _ _ _ d _ _ => evenTo10 d
  | .vsel .. => true
  | .vmov .. => true
  | .vbc .. => true
  | .vmovs .. => true
  | .vins .. => true
  | .viota .. => true
  | .qand _ _ _ d _ _ => evenTo10 d
  | .qor _ _ _ d _ _ => evenTo10 d
  | .qxor _ _ _ d _ _ => evenTo10 d
  | .qmov _ _ _ d _ => evenTo10 d
  | .vcvt .. => true
  | .vcvtw .. => true
  | .vcvtn .. => true
  | .vcvtns .. => true
  | .vpack .. => true
  | .vunpk .. => true
  | .vperm .. => true
  | .vrot .. => true
  | .vsld .. => true
  | .vtrn .. => true
  | .vcmpr .. => true
  | .vexpd .. => true
  | .vradd .. => true
  | .vrmax .. => true
  | .vrmin .. => true
  | .vramax .. => true
  | .vscan .. => true
  | .vrcnt .. => true
  | .vcw .. => true
  | .vexp2 .. => true
  | .vlog2 .. => true
  | .vrcp .. => true
  | .vrsq .. => true
  | .vsqrt .. => true
  | .vtanh .. => true
  | .vsigm .. => true
  | .vsin .. => true
  | .vcos .. => true
  | .vrng .. => true
  | .vtopk .. => true
  | .vscale .. => true
  | .vqnt .. => true
  | .vdq .. => true
  | .vlut .. => true
  | .mma _ t _ _ => tileOk t
  | .mmaz _ t _ _ => tileOk t
  | .mman _ t _ _ => tileOk t
  | .mlda _ t _ => tileOk t
  | .msta _ t _ => tileOk t
  | .mdrn _ t p => tileOk t && (p == 0 || t.toNat % 2 == 0)
  | .mzero _ t => tileOk t
  | .mcommit .. => true
  | .mwaitb .. => true
  | .mwaitbId .. => true
  | .mwm _ _ t _ => tileOk t
  | .banklendM .. => true
  | .banklendV .. => true
  | .banklendRel .. => true
  | .banklendAcq .. => true
  | .scld .. => true
  | .mcfg _ f => f.toNat ≤ 14
  | .medge .. => true
  | .ldgB _ _ d _ x m => nextExists m x && apart m d x
  | .ldgBn _ _ d _ x m => nextExists m x && apart m d x
  | .ldgH _ _ d _ x m => nextExists m x && apart m d x
  | .ldgHn _ _ d _ x m => nextExists m x && apart m d x
  | .ldgW _ _ d _ x m => nextExists m x && apart m d x
  | .ldgWn _ _ d _ x m => nextExists m x && apart m d x
  | .ldgD _ _ d _ x m => nextExists m x && apart m d x
  | .stgB _ _ _ x m => nextExists m x
  | .stgH _ _ _ x m => nextExists m x
  | .stgW _ _ _ x m => nextExists m x
  | .stgD _ _ _ x m => nextExists m x
  | .vldg _ _ d _ x m => nextExists m x && vectorDest d
  | .vstg _ _ _ x m => nextExists m x
  | .ldS _ _ d _ x m => nextExists m x && apart m d x
  | .stS _ _ _ x m => nextExists m x
  | .vldS _ _ d _ x m => nextExists m x && vectorDest d
  | .vstS _ _ _ x m => nextExists m x
  | .vldC _ _ d _ x m => nextExists m x && vectorDest d
  | .vstC _ _ _ x m => nextExists m x
  | .vldX _ _ d _ x m => nextExists m x && vectorDest d
  | .vstX _ _ _ x m => nextExists m x
  | .vldL _ _ d _ x m => nextExists m x && vectorDest d
  | .vstL _ _ _ x m => nextExists m x
  | .vgthS _ _ d _ _ _ => vectorDest d
  | .vsctS .. => true
  | .vgthL _ _ d _ _ _ => vectorDest d
  | .vsctL .. => true
  | .plst .. => true
  | .vldb _ _ d _ x m => nextExists m x && vectorDest d
  | .vstb _ _ _ x m => nextExists m x
  | .xlt .. => true
  | .hdrop .. => true
  | .aadd .. => true
  | .aand .. => true
  | .aor .. => true
  | .axor .. => true
  | .amin .. => true
  | .amax .. => true
  | .aminn .. => true
  | .amaxn .. => true
  | .aswp .. => true
  | .acas _ d _ _ _ => d != 63
  | .afadd .. => true
  | .hbind .. => true
  | .hacqX .. => true
  | .hacqS .. => true
  | .hrel .. => true
  | .fenceRel .. => true
  | .fenceAcq .. => true
  | .fenceAr .. => true
  | .bara .. => true
  | .barw .. => true
  | .tlwait .. => true
  | .tlrd .. => true
  | .tlrdSt .. => true
  | .tlrdStc .. => true
  | .tagw .. => true
  | .tagffC .. => true
  | .tagffS .. => true
  | .cpy .. => true
  | .mvx .. => true
  | .qpush .. => true
  | .qpop .. => true
  | .wopen .. => true
  | .wcommit .. => true
  | .wabortK .. => true
  | .wabortF .. => true
  | .pwatchI .. => true
  | .pwatchR .. => true
  | .pwatchQ .. => true
  | .pdrop .. => true
  | .smpq .. => true
  | .tokrdy _ p _ => evenTo10 p
  | .tokrdyS .. => true
  | .trap .. => true
  | .mfs _ _ r => (r.toNat ≤ 13 || (16 ≤ r.toNat && r.toNat ≤ 23))
  | .mts _ r _ => (r == 9 || r == 12)
  | .trace .. => true
  | .brkpt .. => true
  | .idle .. => true
  | .budq _ _ i => i.toNat ≤ 8 && i != 4
  | .budqCcost .. => true
  | .jrd .. => true
  | .jrdL .. => true
  | .thack .. => true
  | .wpos .. => true
  | .walloc .. => true
  | .btset _ _ _ b => b != 63
  | .btrd .. => true
  | .strn .. => true
  | .lexp .. => true
  | .dlbar _ p _ b => evenTo10 p && b.toNat ≤ 61

end Sys2Proof
end

