-- ==== Sys2Proof/Certificates/Slice0/Obligations.lean ====
section
/-! DEFINITION. The statements about this machine. Each names the rules of the spec it formalises. -/

open Sys2Proof Sys2Proof.Machine

/-! ### Scalar instructions -/

/-- R58, R103, R108–R112, R122: each integer instruction of fixed latency puts its result in flight and does nothing else: the
two-operand ones, those of one operand, the extensions from bit `n` and the insertion of a field. The divisions are
interlocked; by zero the quotient is all ones and the remainder the dividend. -/
def Obligations.IntegerResults : Prop :=
  (∀ (s : State) (x : Nat) (g : BitVec 4) (q : BitVec 1) (d a b : BitVec 6), ∀ e ∈ integerTable,
    Issues s x (e.1 g q d a b) → Quiet s →
    Did s x (e.1 g q d a b) (scalarDeed q (sReg d.toNat) e.2.1 (e.2.2 (operand s x a) (operand s x b)).toNat 0)) ∧
  (∀ (s : State) (x : Nat) (g : BitVec 4) (q : BitVec 1) (d a b : BitVec 6), Quiet s →
    (∀ e ∈ unaryTable, Issues s x (e.1 g q d a) →
      Did s x (e.1 g q d a) (scalarDeed q (sReg d.toNat) 1 (e.2 (operand s x a)).toNat 0)) ∧
    (Issues s x (.sext g q d a b) → Did s x (.sext g q d a b)
      (scalarDeed q (sReg d.toNat) 1 (((operand s x a).setWidth (b.toNat + 1)).signExtend 64).toNat 0)) ∧
    (Issues s x (.zext g q d a b) → Did s x (.zext g q d a b)
      (scalarDeed q (sReg d.toNat) 1 ((operand s x a).toNat % 2 ^ (b.toNat + 1)) 0)) ∧
    (Issues s x (.bfi g q d a b) → Did s x (.bfi g q d a b)
      (scalarDeed q (sReg d.toNat) 1 (insertField (operand s x d) (operand s x a) (operand s x b)).toNat 0))) ∧
  (∀ (s : State) (x : Nat) (g : BitVec 4) (q : BitVec 1) (d a b : BitVec 6), Quiet s →
    (∀ e ∈ divideTable, Issues s x (e.1 g q d a b) → Did s x (e.1 g q d a b)
      (longDeed q (sReg d.toNat) (e.2 (operand s x a) (operand s x b)).toNat 0)) ∧
    (∀ e ∈ ([(5, .div), (6, .divn), (7, .rem), (8, .remn)] : List (Nat × TwoReg)),
      encode (e.2 g q d a b) = some (BitVec.ofNat 32 (2 ^ 28 + g.toNat * 2 ^ 24 + q.toNat * 2 ^ 23 + e.1 * 2 ^ 18 +
        d.toNat * 2 ^ 12 + a.toNat * 2 ^ 6 + b.toNat))))

/-- R38, R107, R108, R110, R113–R116: a compare writes one predicate pair; MOVP combines two predicates, MOVTP tests a register.
An immediate is joined with what the header adds and sign-extended; MOVHI keeps the low 39 bits. -/
def Obligations.PredicateAndImmediateResults : Prop :=
  (∀ (s : State) (x : Nat) (g : BitVec 4) (q : BitVec 1) (p a b : BitVec 6), Quiet s →
    (∀ e ∈ compareTable, Issues s x (e.1 g q p a b) → Did s x (e.1 g q p a b)
      (scalarDeed q (.p (p.toNat / 2)) 1 (natOf (e.2 (operand s x a) (operand s x b))) 0)) ∧
    (∀ e ∈ compareImmTable, Issues s x (e.1 g q p a b) → Did s x (e.1 g q p a b)
      (scalarDeed q (.p (p.toNat / 2)) 1
        (natOf (e.2 (operand s x a) (wordOfInt (joined (latchExt s) 6 b.toNat)))) 0)) ∧
    (∀ (m n : BitVec 4) (f : BitVec 2), Issues s x (.movp g q p m f n) → Did s x (.movp g q p m f n)
      (scalarDeed q (.p (p.toNat / 2)) 1 (natOf (
        let y := readP (issuer s x) m.toNat
        let z := readP (issuer s x) n.toNat
        if f = 0 then y && z else if f = 1 then y || z else if f = 2 then Bool.xor y z else y && !z)) 0)) ∧
    (Issues s x (.movtp g q p a) → Did s x (.movtp g q p a)
      (scalarDeed q (.p (p.toNat / 2)) 1 (natOf (operand s x a != 0)) 0))) ∧
  (∀ (s : State) (x : Nat) (g : BitVec 4) (q : BitVec 1) (d a i : BitVec 6) (j : BitVec 12), Quiet s →
    (∀ e ∈ immediateTable, Issues s x (e.1 g q d a i) → Did s x (e.1 g q d a i)
      (scalarDeed q (sReg d.toNat) e.2.1 (e.2.2 (operand s x a) (wordOfInt (joined (latchExt s) 6 i.toNat))).toNat 0)) ∧
    (∀ e ∈ shiftImmTable, Issues s x (e.1 g q d a i) → Did s x (e.1 g q d a i)
      (scalarDeed q (sReg d.toNat) 1 (e.2 (operand s x a) i.toNat).toNat 0)) ∧
    (Issues s x (.movi g q d j) → Did s x (.movi g q d j)
      (scalarDeed q (sReg d.toNat) 1 (wordOfInt (joined (latchExt s) 12 j.toNat)).toNat 0)) ∧
    (Issues s x (.movhi g q d j) → Did s x (.movhi g q d j)
      (scalarDeed q (sReg d.toNat) 1 (((wordOfInt (joined (latchExt s) 12 j.toNat)).setWidth 25 ++
        (operand s x d).setWidth 39 : BitVec 64)).toNat 0)))

/-- R104, R117–R122: float arithmetic on the low halves of registers, rounded once, its flags set when it lands; the
conversions; the compares; division and square root interlocked. -/
def Obligations.FloatResults : Prop :=
  ∀ (s : State) (x : Nat) (g : BitVec 4) (q : BitVec 1) (d a b : BitVec 6), Quiet s →
    let f := fun (r : BitVec 6) => (operand s x r).toNat % 2 ^ 32
    let v := fun (r : BitVec 6) => decodeF fmtF32 (f r)
    (∀ e ∈ floatTable, Issues s x (e.1 g q d a b) → Did s x (e.1 g q d a b)
      (scalarDeed q (sReg d.toNat) e.2.1 (e.2.2 (f a) (f b)).bits (e.2.2 (f a) (f b)).fl)) ∧
    (∀ e ∈ floatUnaryTable, Issues s x (e.1 g q d a) → Did s x (e.1 g q d a)
      (scalarDeed q (sReg d.toNat) e.2.1 (e.2.2 (f a)).bits (e.2.2 (f a)).fl)) ∧
    (Issues s x (.ffma g q d a b) → Did s x (.ffma g q d a b)
      (scalarDeed q (sReg d.toNat) 4 (finish fmtF32 (fmaV (v a) (v b) (v d))).bits
        (finish fmtF32 (fmaV (v a) (v b) (v d))).fl)) ∧
    (Issues s x (.fdiv g q d a b) → Did s x (.fdiv g q d a b)
      (longDeed q (sReg d.toNat) (finish fmtF32 (divV (v a) (v b))).bits (finish fmtF32 (divV (v a) (v b))).fl)) ∧
    (Issues s x (.fsqrt g q d a) → Did s x (.fsqrt g q d a)
      (longDeed q (sReg d.toNat) (finish fmtF32 (sqrtV (v a))).bits (finish fmtF32 (sqrtV (v a))).fl)) ∧
    (∀ c : BitVec 2, Issues s x (.fcvtif g q d a c) → Did s x (.fcvtif g q d a c)
      (scalarDeed q (sReg d.toNat) 3 (cvtIF c (operand s x a)).bits (cvtIF c (operand s x a)).fl)) ∧
    (∀ c : BitVec 2, Issues s x (.fcvtfi g q d a c) → Did s x (.fcvtfi g q d a c)
      (scalarDeed q (sReg d.toNat) 3 (cvtFI c (f a)).1 (cvtFI c (f a)).2)) ∧
    (∀ e ∈ floatCompareTable, Issues s x (e.1 g q d a b) → Did s x (e.1 g q d a b)
      (scalarDeed q (.p (d.toNat / 2)) 2 (natOf (floatOrder e.2.1 e.2.2 (f a) (f b))) 0))

/-! ### Vector instructions -/

/-- R58, R63, R118, R121, R124, R127–R131, R134, R144, R145: Each elementwise instruction of three operands gives every element
of the width its result, under the element's own guard. Each elementwise instruction of two operands. That VFMA and VFMS on
integer types take 4 cycles is the model's choice (log entry 83). -/
def Obligations.VectorElementResults : Prop :=
  (∀ (s : State) (x : Nat) (g : BitVec 4) (q : BitVec 1) (t : BitVec 3) (d a b : BitVec 5), ∀ e ∈ vector3Table,
    Issues s x (e.1 g q t d a b) → Quiet s →
    let v := vx (latchExt s) t
    Did s x (e.1 g q t d a b) (vecDeed s x g q v (d.toNat + v.d5) (e.2.1 v.t) v.e 0
      ((upTo v.n).map fun i => e.2.2 v.t (vElem s x v (a.toNat + v.a5) i) (vElem s x v (b.toNat + v.b5) i)
        (vElem s x v (d.toNat + v.d5) i)))) ∧
  (∀ (s : State) (x : Nat) (g : BitVec 4) (q : BitVec 1) (t : BitVec 3) (d a : BitVec 5), ∀ e ∈ vector2Table,
    Issues s x (e.1 g q t d a) → Quiet s →
    let v := vx (latchExt s) t
    Did s x (e.1 g q t d a) (vecDeed s x g q v (d.toNat + v.d5) (e.2.1 v.t) v.e 0
      ((upTo v.n).map fun i => e.2.2 v.t (vElem s x v (a.toNat + v.a5) i))))

/-- R130: VDOT4 sums four products of bytes onto each 32-bit element, saturated; VMULW multiplies the low half of the width
into elements of twice the width. -/
def Obligations.VectorWideResults : Prop :=
  ∀ (s : State) (x : Nat) (g : BitVec 4) (q : BitVec 1) (t : BitVec 3) (d a b : BitVec 5), Quiet s →
    let v := vx (latchExt s) t
    let word := fun (r i : Nat) => elem 32 ((readV (issuer s x) r).toNat / 2 ^ v.lo) i
    (Issues s x (.vdot4 g q t d a b) → Did s x (.vdot4 g q t d a b)
      (vecDeed s x g q v (d.toNat + v.d5) 4 32 0 ((upTo (v.w / 32)).map fun j =>
        let sg := match v.t with | .int sg _ => sg | .flt _ => false
        let r := clampInt (intLo sg 32) (intHi sg 32) (intVal sg 32 (word (d.toNat + v.d5) j) + isum ((upTo 4).map fun i =>
          intVal sg 8 (elem 8 (word (a.toNat + v.a5) j) i) * intVal sg 8 (elem 8 (word (b.toNat + v.b5) j) i)))
        ⟨narrow 32 r.1, r.2⟩))) ∧
    (Issues s x (.vmulw g q t d a b) → Did s x (.vmulw g q t d a b)
      (vecDeed s x g q v (d.toNat + v.d5) (lat45 v.t) (2 * v.e) 0 ((upTo (v.n / 2)).map fun i =>
        let y := vElem s x v (a.toNat + v.a5) i
        let z := vElem s x v (b.toNat + v.b5) i
        match v.t with
        | .int sg n => ⟨narrow (2 * n) (intVal sg n y * intVal sg n z), 0⟩
        | .flt f => finish fmtF32 (mulE (decodeF f y) (decodeF f z)))))

/-- R126, R132–R135, R142: Compares, VCLASS and lane-predicate logic write the byte bits of their elements in one predicate pair.
Selection by byte, broadcast, insertion, the counting vector and the count of selected elements; VMOVS gives a scalar. -/
def Obligations.LaneAndMoveResults : Prop :=
  (∀ (s : State) (x : Nat) (g : BitVec 4) (q : BitVec 1) (t : BitVec 3) (d a b : BitVec 5) (m n : BitVec 4), Quiet s →
    let v := vx (latchExt s) t
    let logic := fun (r : QWord) => ({
      sq := q = 1
      outs := [{ reg := .q (d.toNat / 2), val := r.toNat, lat := 1,
                 mask := (placeQ (readQ (issuer s x) g.toNat) v.lo (max 8 v.e) 0 (List.replicate (v.w / max 8 v.e) true)).1 }] } : Deed)
    (∀ e ∈ vectorCompareTable, Issues s x (e.1 g q t d a b) → Did s x (e.1 g q t d a b)
      (lanesDeed s x g q v d.toNat ((upTo v.n).map fun i =>
        vcond e.2.1 e.2.2 v.t (vElem s x v (a.toNat + v.a5) i) (vElem s x v (b.toNat + v.b5) i)))) ∧
    (Issues s x (.vclass g q t d a b) → Did s x (.vclass g q t d a b)
      (lanesDeed s x g q v d.toNat ((upTo v.n).map fun i => match v.t with
        | .flt f => bitOf b.toNat (classBit f (vElem s x v (a.toNat + v.a5) i))
        | .int _ _ => false))) ∧
    (∀ e ∈ laneLogicTable, Issues s x (e.1 g q t d m n) → Did s x (e.1 g q t d m n)
      (logic (e.2 (readQ (issuer s x) m.toNat) (readQ (issuer s x) n.toNat)))) ∧
    (Issues s x (.qmov g q t d m) → Did s x (.qmov g q t d m) (logic (readQ (issuer s x) m.toNat)))) ∧
  (∀ (s : State) (x : Nat) (g : BitVec 4) (q : BitVec 1) (t : BitVec 3) (d a b : BitVec 5) (m : BitVec 4), Quiet s →
    let v := vx (latchExt s) t
    let scalar := fun (r : Nat) => (readS (issuer s x) r).toNat
    (Issues s x (.vsel g q t d a b) →
      let w := vx (latchExt s) 0
      let byte := fun (r i : Nat) => elem 8 ((readV (issuer s x) r).toNat / 2 ^ w.lo) i
      Did s x (.vsel g q t d a b) (vecDeed s x g q w (d.toNat + w.d5) 1 8 0 ((upTo (w.w / 8)).map fun i =>
        ⟨if (readQ (issuer s x) (2 * t.toNat)).getLsbD (32 * w.g + i) then byte (a.toNat + w.a5) i else byte (b.toNat + w.b5) i,
          0⟩))) ∧
    (Issues s x (.vbc g q t d a) → Did s x (.vbc g q t d a)
      (vecDeed s x g q v (d.toNat + v.d5) 1 v.e 0 ((upTo v.n).map fun _ => ⟨scalar (a.toNat + v.a5), 0⟩))) ∧
    (Issues s x (.viota g q t d a) → Did s x (.viota g q t d a)
      (vecDeed s x g q v (d.toNat + v.d5) 1 v.e 0 ((upTo v.n).map fun i => ⟨scalar (a.toNat + v.a5) + i, 0⟩))) ∧
    (Issues s x (.vins g q t d a b) → Did s x (.vins g q t d a b)
      (vecDeed s x g q v (d.toNat + v.d5) 1 v.e (b.toNat + v.b5) [⟨scalar (a.toNat + v.a5), 0⟩])) ∧
    (Issues s x (.vmovs g q t d a b) → Did s x (.vmovs g q t d a b)
      (scalarDeed q (sReg (d.toNat + v.d5)) 1 (match v.t with
        | .int true n => narrow 64 (signed n (vElem s x v (a.toNat + v.a5) (b.toNat + v.b5)))
        | _ => vElem s x v (a.toNat + v.a5) (b.toNat + v.b5)) 0)) ∧
    (Issues s x (.vrcnt g q t d m) → Did s x (.vrcnt g q t d m)
      (vecDeed s x g q v (d.toNat + v.d5) 4 v.e 0 ((upTo v.n).map fun _ =>
        ⟨countIf (fun i => (readQ (issuer s x) m.toNat).getLsbD ((v.lo + v.e * i) / 8)) (upTo v.n), 0⟩))))

/-- R136, R100, R147: conversions and scale operations fill the low part of the width and zero the rest. What VCVTN makes of an
infinity and of a value out of range of f16 or bf16 is the model's choice (log entry 82). -/
def Obligations.ConvertAndScaleResults : Prop :=
  ∀ (s : State) (x : Nat) (g : BitVec 4) (q : BitVec 1) (t : BitVec 3) (d a : BitVec 5), Quiet s →
    let v := vx (latchExt s) t
    (∀ e ∈ convertTable, ∀ (c : BitVec 4) (src : VTy), typeOf (c.toNat / 8) (c.toNat % 8) = some src →
      Issues s x (e.1 g q t d a c) →
      let n := v.w / max src.bits v.e
      Did s x (e.1 g q t d a c) (lowDeed s x g q v (d.toNat + v.d5) 4 v.e n ((upTo n).map fun i =>
        convert e.2 src v.t (elem src.bits ((readV (issuer s x) (a.toNat + v.a5)).toNat / 2 ^ v.lo) i)))) ∧
    (∀ e ∈ scaleTable, ∀ (j : BitVec 2), Issues s x (e.1 g q t d a j) →
      let n := v.w / 32
      Did s x (e.1 g q t d a j) (lowDeed s x g q v (d.toNat + v.d5) 6 (e.2.2.1 v.t) n ((upTo n).map fun i =>
        e.2.2.2 v.t (elem (e.2.1 v.t) ((readV (issuer s x) (a.toNat + v.a5)).toNat / 2 ^ v.lo) i)
          (scales (issuer s x) (a.toNat + v.a5 == 63) j.toNat (8 * v.g + i)))))

/-- R137–R141, R146, R148: permutations, packing, reductions, ranking and table lookup across a register. -/
def Obligations.VectorAcrossResults : Prop :=
  ∀ (s : State) (x : Nat) (g : BitVec 4) (q : BitVec 1) (t : BitVec 3) (d a b : BitVec 5), Quiet s →
    let v := vx (latchExt s) t
    let A := vElem s x v (a.toNat + v.a5)
    let B := vElem s x v (b.toNat + v.b5)
    let gives := fun (i : Instr) (lat e n : Nat) (f : Nat → FRes) =>
      Issues s x i → Did s x i (vecDeed s x g q v (d.toNat + v.d5) lat e 0 ((upTo n).map f))
    gives (.vperm g q t d a b) 3 v.e v.n (fun i => ⟨A (B i % v.n), 0⟩) ∧
    gives (.vrot g q t d a b) 3 v.e v.n (fun i => ⟨A ((i + v.n - (b.toNat + v.b5) % v.n) % v.n), 0⟩) ∧
    gives (.vsld g q t d a b) 3 v.e v.n (fun i => ⟨if i + 1 < v.n then A (i + 1) else B 0, 0⟩) ∧
    gives (.vtrn g q t d a b) 3 v.e v.n (fun i => ⟨if i % 2 = 0 then A i else B (i - 1), 0⟩) ∧
    gives (.vpack g q t d a b) 3 v.e v.n
      (fun i => ⟨if i < v.n / 2 then A (2 * i) else B (2 * (i - v.n / 2)), 0⟩) ∧
    (∀ h : BitVec 1, gives (.vunpk g q t d a h) 3 (2 * v.e) (v.n / 2) (fun i => match v.t with
      | .int sg n => ⟨narrow (2 * n) (intVal sg n (A (h.toNat * (v.n / 2) + i))), 0⟩
      | .flt _ => ⟨A (h.toNat * (v.n / 2) + i), 0⟩)) ∧
    (∀ e ∈ reduceTable, gives (e.1 g q t d a) e.2.1 v.e v.n (e.2.2 v.t ((upTo v.n).map A))) ∧
    gives (.vtopk g q t d a b) 15 v.e v.n (fun r =>
      ⟨(if r < b.toNat + v.b5 + 1 then rankIndex v.t ((upTo v.n).map A) r else none).getD (ones v.t.bits), 0⟩) ∧
    gives (.vlut g q t d a b) 4 v.e v.n (fun i =>
      ⟨elem v.e (readV (issuer s x) (b.toNat + v.b5)).toNat
        (elem 4 ((readV (issuer s x) (a.toNat + v.a5)).toNat / 2 ^ v.lo) i), 0⟩) ∧
    (∀ m : BitVec 4,
      let rs := expand (selects (readQ (issuer s x) m.toNat) v.lo v.e v.n) (vElems s x v (a.toNat + v.a5))
      Issues s x (.vexpd g q t d a m) → Did s x (.vexpd g q t d a m) (vecDeed s x g q v (d.toNat + v.d5) 4 v.e 0 rs))

/-- R139, R81, R143: VCMPR packs the selected elements of vd to its front and counts them; VCW sends a control word on its
way to a queue of four. -/
def Obligations.CompressAndControlWord : Prop :=
  ∀ (s : State) (x : Nat) (g : BitVec 4) (q : BitVec 1) (t : BitVec 3) (d a b : BitVec 5) (m : BitVec 4), Quiet s →
    let v := vx (latchExt s) t
    let kept := ((upTo v.n).filter fun i => (readQ (issuer s x) m.toNat).getLsbD ((v.lo + v.e * i) / 8)).map
      (vElem s x v (d.toNat + v.d5))
    let lanes := readQ (issuer s x) g.toNat
    let p := place lanes v.lo v.e 0 ((kept ++ List.replicate (v.n - kept.length) 0).map fun y => ⟨y, 0⟩)
    (Issues s x (.vcmpr g q t d m b) → Did s x (.vcmpr g q t d m b) {
      sq := q = 1
      outs := [{ reg := .v (d.toNat + v.d5), val := p.2.1, lat := 4, mask := p.1, fl := p.2.2 },
               { reg := sReg (b.toNat + v.b5), val := kept.length, lat := 4 }] }) ∧
    (Issues s x (.vcw g q t a) →
      (issuer s x).cwq.length + countIf (fun f => f.reg = .cwq) (issuer s x).flights < 4 →
      Did s x (.vcw g q t a) {
        sq := q = 1
        outs := [{ reg := .cwq, lat := 8, val := nsum ((upTo v.n).map fun i =>
          let y := vElem s x v (a.toNat + v.a5) i
          if (match v.t with | .int _ _ => y != 0 | .flt f => !(decodeF f y).isZero) &&
              lanes.getLsbD ((v.lo + v.e * i) / 8) && i < 64 then 2 ^ i else 0) }] })

/-! ### Control, the loop sequencer and the system registers -/

/-- R65, R66, R67, R68: NOP does nothing; a taken branch is pending while the next bundle issues, goes to its target after
it, and kills what its Q bits allow; CALL's link is the address of the bundle after the delay slot. -/
def Obligations.BranchResults : Prop :=
  ∀ (s : State) (x : Nat) (g : BitVec 4) (o : BitVec 18) (a : BitVec 6), Quiet s →
    let pc := (issuer s x).pc.toNat
    let near := (((pc : Int) + 16 * joined (latchExt s) 18 o.toNat) % 2 ^ 57).toNat
    (Issues s x (.nop g) → Did s x (.nop g) {}) ∧
    (Issues s x (.br g o) → Did s x (.br g o) { jump := some (near, true) }) ∧
    (Issues s x (.brs g a) → Did s x (.brs g a) { jump := some ((operand s x a).toNat % 2 ^ 57 / 16 * 16, true) }) ∧
    (Issues s x (.call g o) → Did s x (.call g o)
      { outs := [{ reg := .s 62, val := pc + 32, lat := 1 }], jump := some (near, false) }) ∧
    (Issues s x (.ret g) → Did s x (.ret g) { jump := some ((operand s x 62).toNat % 2 ^ 57 / 16 * 16, false) })

/-- R53, R69–R72, R219, R221: A yield gives up issue; YIELD.C besides leaves its loops, chain and drain, gives its banks back and
goes on as at dispatch; END stops its context. A chain so closed begins its write-back with the next cycle. Each waits for a
hatch release under way. SPAWN puts a context at the bundle
named, with six arguments, in the issuer's task and region, where that context is free; a sampler core has none beside its
own. -/
def Obligations.YieldAndSpawnResults : Prop :=
  (∀ (s : State) (x : Nat) (g : BitVec 4), Quiet s →
    (Issues s x (.yield g) → Yielded s x (.yield g) id) ∧
    (Issues s x (.yieldC g) → releasing (issuer s x) = false → (issuer s x).spawned = true →
      Yielded s x (.yieldC g) id) ∧
    (Issues s x (.yieldC g) → releasing (issuer s x) = false → (issuer s x).spawned = false →
      Yielded s x (.yieldC g) fun u => giveBanks (closeChains (modCtx u s.focus x fun k => { k with
        loops := [], mopen := none, drain := none, cont := true
        giving := ((getCore u s.focus).banks.filter fun b => b.2.ctx = (getCtx u s.focus x).part * 8 + x).map fun b => b.1 })
          s.focus) s.focus) ∧
    (Issues s x (.endTask g) → releasing (issuer s x) = false → heldAtEnd s s.focus x = none →
      Yielded s x (.endTask g) fun u => closeChains (modCtx u s.focus x fun k => { k with
        status := .ending, loops := [], mopen := none, drain := none }) s.focus)) ∧
  (∀ (s : State) (x : Nat) (g : BitVec 4) (a b : BitVec 6) (c : BitVec 3), Issues s x (.spawn g a b c) →
    occupied s s.focus c.toNat = false → isSampler s.focus = false →
    let k := issuer s x
    Goes s x (.spawn g a b c) { act := fun u => putCtx u s.focus c.toNat {
      freshCtx u s.focus c.toNat k.part k.region k.task k.cr ((operand s x a).toNat % 2 ^ 57 / 16 * 16)
        ((upTo 6).map fun i => (readS k (b.toNat + i)).toNat) 0 with spawned := true, gang := k.gang } })

/-- R74, R79–R81: LOOP and LOOPI open the next level over the bundles that follow, with the trip count and stages given; a trip
count of zero skips them. LSTR sets a stride link of an active level, LBRK ends a level after its iteration, LCW takes a bit
of the oldest control word, and 0 where there is none and none is on its way. -/
def Obligations.SequencerResults : Prop :=
  (∀ (s : State) (x : Nat) (g : BitVec 4) (l t : BitVec 3) (n : BitVec 12) (n' : BitVec 9) (i : BitVec 6), Quiet s →
    let k := issuer s x
    let level := fun (len trip stages : Nat) => ({
      count := 0, trip := trip, first := k.pc.toNat + 16, last := k.pc.toNat + 16 * len, stages := stages, links := [],
      brk := false, opener := k.pc.toNat } : Loop)
    let fits := fun (len : Nat) => k.loops.length = l.toNat ∧ (∀ m ∈ k.loops, m.off = false) ∧
      ∀ m, k.loops.getLast? = some m → m.first ≤ k.pc.toNat + 16 ∧ k.pc.toNat + 16 * len ≤ m.last
    let v := (readS k (8 + t.toNat)).toNat
    (Issues s x (.loop g l t n) → fits (n.toNat + 1) → v % 2 ^ 32 ≠ 0 → Did s x (.loop g l t n)
      { ctx := fun k => { k with loops := k.loops ++ [level (n.toNat + 1) (v % 2 ^ 32) (v / 2 ^ 32 % 16 + 1)] } }) ∧
    (Issues s x (.loop g l t n) → fits (n.toNat + 1) → v % 2 ^ 32 = 0 → Did s x (.loop g l t n)
      { skip := some (k.pc.toNat + 16 * (n.toNat + 1) + 16) }) ∧
    (Issues s x (.loopi g l i n') → fits (n'.toNat + 1) → Did s x (.loopi g l i n')
      { ctx := fun k => { k with loops := k.loops ++ [level (n'.toNat + 1) (i.toNat + 1) 1] } })) ∧
  (∀ (s : State) (x : Nat) (g p : BitVec 4) (l : BitVec 3) (j : BitVec 2) (a b i : BitVec 6) (pop : BitVec 1), Quiet s →
    let k := issuer s x
    let at_ := fun (f : Loop → Loop) (k : Ctx) =>
      { k with loops := k.loops.zipIdx.map fun e => if e.2 = l.toNat then f e.1 else e.1 }
    (Issues s x (.lstr g l j a b) → levelOn k l.toNat = true → Did s x (.lstr g l j a b)
      { ctx := at_ fun m => setLink m j.toNat a.toNat ((operand s x b).toNat % 2 ^ 32) }) ∧
    (Issues s x (.lbrk g l) → Did s x (.lbrk g l) { ctx := at_ fun m => { m with brk := true } }) ∧
    (Issues s x (.lcw g p i pop) → ∀ w t, k.cwq = w :: t → Did s x (.lcw g p i pop)
      { outs := [{ reg := .p (p.toNat / 2), val := natOf (w.getLsbD i.toNat), lat := 1 }]
        ctx := fun k => if pop = 1 then { k with cwq := k.cwq.drop 1 } else k }) ∧
    (Issues s x (.lcw g p i pop) → k.cwq = [] → k.flights.any (fun f => f.reg = .cwq) = false → Did s x (.lcw g p i pop)
      { outs := [{ reg := .p (p.toNat / 2), val := 0, lat := 1 }] }))

/-- R29, R381: MFS reads a system register with latency 2; MTS sets FFLAGS to six bits, or MFMT to a format code. That MTS to MFMT
ignores the operand's upper bits, and what COREID reads as on a sampler core, are the model's choices (log entries 65 and 3). -/
def Obligations.SystemRegisterResults : Prop :=
  ∀ (s : State) (x : Nat) (g : BitVec 4) (d r a : BitVec 6), Quiet s →
    (Issues s x (.mfs g d r) → Did s x (.mfs g d r) (scalarDeed 0 (sReg d.toNat) 2 (sysValue s s.focus x r.toNat) 0)) ∧
    (Issues s x (.mts g 9 a) → Did s x (.mts g 9 a)
      { ctx := fun k => { k with fflags := ((operand s x a).setWidth 6).setWidth 32 } }) ∧
    (Issues s x (.mts g 12 a) → (operand s x a).toNat % 32 ≤ 14 → Did s x (.mts g 12 a)
      { ctx := fun k => { k with mfmt := (operand s x a).setWidth 5 } })

/-- R380, R382, R408: TRAP raises USER_TRAP after its bundle, with its number and its operand; BRKPT raises DEBUG where its
breakpoint is armed and consent allows halts, and otherwise does nothing; IDLE past its time does nothing. -/
def Obligations.TrapResults : Prop :=
  ∀ (s : State) (x : Nat) (g : BitVec 4) (a n : BitVec 6), Quiet s →
    let pc := (issuer s x).pc.toNat
    let slot := 2 ^ (s.latch.slot % 4)
    let armed := (getCore s s.focus).probe.brken.getLsbD n.toNat && consents s (issuer s x).part 1
    (Issues s x (.trap g a n) → Trapped s x (.trap g a n)
      { code := 0x51, mask := slot, pc := pc, va := (operand s x a).toNat, aux := (latchExt s).x * 64 + n.toNat }) ∧
    (Issues s x (.brkpt g n) → armed = true → Trapped s x (.brkpt g n) { code := 0x50, mask := slot, pc := pc, obj := n.toNat }) ∧
    (Issues s x (.brkpt g n) → armed = false → Did s x (.brkpt g n) {}) ∧
    (Issues s x (.idle g a) → (operand s x a).toNat ≤ issueNs s s.focus x → Did s x (.idle g a) {})

/-- R368, R369, R371, R373: Taking a fault of a context outside a gang writes its record, moves its results in flight to the
snapshot, freezes it, has its core give up issue, counts the fault, and puts it before firmware; its TIME is that of the
cycle at which it stands, after those its bundle holds. But for a halt, it leaves the queues of hatches and of pops (log entry 98). In a partition that is neither stopped nor being swapped out RESUME makes a frozen context ready
again where it stands, and its snapshot runs on when it issues (R56). -/
def Obligations.FaultTakenAndReturn : Prop :=
  (∀ (s : State) (c x : Nat) (t : Trap), c < 40 → x < 8 → (getCtx s c x).gang = false → (getCore s c).owner = some x →
    let k := getCtx s c x
    let u := takeFault s c x t
    let info := (if k.flights = [] then 0 else 2 ^ 37) + natOf t.deferred * 2 ^ 36 + t.mask % 16 * 2 ^ 32 +
      t.aux % 2 ^ 16 * 2 ^ 16 + t.code % 256
    let record := [info, t.pc, k.pc.toNat, if t.code = 0x51 then t.va % 2 ^ 64 else t.va % 2 ^ 57, t.obj % 2 ^ 16,
      x + c * 2 ^ 8 + k.part * 2 ^ 16 + k.region % 4096 * 2 ^ 32,
      (max s.time (getCore s c).tnext + (getCore s c).held * cycleLen s c) / unitsPerNs, k.cr]
    getCtx u c x = { k with
      status := .frozen, wait := none, stall := 0, preStall := 0, snap := k.snap ++ k.flights, flights := []
      trap := trapMap record } ∧
    getCore u c = { getCore s c with owner := none, last := x, owned := 0, rest := (getCore s c).held + 23, held := 0 } ∧
    (∀ d y, d * 8 + y ≠ c * 8 + x → getCtx u d y = getCtx s d y) ∧
    (∀ p, (mfind u.parts p).map (fun q => q.faults) =
      (mfind s.parts p).map (fun q => if p = k.part then q.faults + 1 else q.faults)) ∧
    u = { s with
      cores := u.cores, ctxs := u.ctxs, parts := u.parts
      hatchq := if t.code = 0x50 then s.hatchq else s.hatchq.filter fun r => r.2 ≠ (c, x, k.part)
      queues := if t.code = 0x50 then s.queues else s.queues.map fun e =>
        if e.2.part = k.part then (e.1, { e.2 with waiters := e.2.waiters.filter (· ≠ (c, x)) }) else e
      faults := s.faults ++ [{
        core := some c, ctx := x, part := k.part, region := k.region, code := t.code % 256, kettle := kettleOf t.code
        record := record
        args := (upTo 6).map (fun i => (readS k (i + 1)).toNat)
        stage := .fresh }] }) ∧
  (∀ (s : State) (c x : Nat), (getCtx s c x).gang = false → (getCtx s c x).status = .frozen →
    (∀ p, mfind s.parts (getCtx s c x).part = some p → p.stopped = false) →
    (∀ w, mfind s.swaps (c / 4) = some w → w.outgoing ≠ (getCtx s c x).part) →
    getCtx (resumeCtx s c x) c x = { getCtx s c x with status := .ready } ∧
    (∀ d y, d * 8 + y ≠ c * 8 + x → getCtx (resumeCtx s c x) d y = getCtx s d y) ∧
    resumeCtx s c x = { s with ctxs := (resumeCtx s c x).ctxs })

/-! ### Memory instructions -/

/-- R57, R189, R194, R195, R197, R198: a load through a handle that passes its checks is put in hand, and its address register is
post-incremented. Performed on an ordinary page, it returns the bytes its core's line cache has valid or dirty, and memory's for
the others, sign- or zero-extended; or POISON, where what it takes is poisoned. It changes no byte of memory, unless room for its
line sends another line's bytes back. -/
def Obligations.GlobalLoads : Prop :=
  (∀ (s : State) (x : Nat) (g : BitVec 4) (q : BitVec 1) (d : BitVec 6) (h : BitVec 4) (a : BitVec 6) (m : BitVec 2) (pl : Place),
    ∀ e ∈ loadTable, Issues s x (e.1 g q d h a m) → Quiet s →
    checkGlobal s (issuer s x) h.toNat (globalOff (latchExt s) (issuer s x) a e.2.bytes) e.2.bytes true false
      { uncached := q = 1 } = .ok pl →
    Did s x (e.1 g q d h a m) {
      sq := q = 1
      works := [{ reg := loadReg e.2 d, kind := .gload pl e.2 }]
      outs := postOut (issuer s x) m a e.2.bytes }) ∧
  (∀ (s : State) (c x : Nat) (w : Work) (pl : Place) (as : LoadAs), w.kind = .gload pl as → pl.bind = 0 →
    isMmio pl.pa = false → pl.pa % 128 + as.bytes ≤ 128 →
    let line := mget (getCore s c).lines (pl.pa / 128) emptyLine
    let hit := lineHit s c pl.pa as.bytes
    let bad := line.poison || (!hit && linePoison s (pl.pa / 128))
    let v := ofBytes as.bytes fun i =>
      if hit || line.dirty.getLsbD (pl.pa % 128 + i) then elem 8 line.val.toNat (pl.pa % 128 + i)
      else (mget s.mem (pl.pa + i) 0).toNat
    let given := match as with | .signed n => (signed (8 * n) v % 2 ^ 64).toNat | _ => v
    (workPerform s c x w).2 = (if bad then .poison pl.va else .done given 0) ∧
    (lineFits (getCore s c) (pl.pa / 128) = true → (workPerform s c x w).1.mem = s.mem))

/-- R182, R189, R190, R194, R195, R198, R215, R269: A store of ordinary memory that no earlier access of its context holds back
is performed in the core's line cache as its bundle issues, at the address its checks give, and nowhere else, where its set
has room for the line. A store to a
watched or uncached page, through a window, or behind an earlier access goes to its place: the window's overlay at the
current position, the queue to the slice, the host's aperture, or the context's work in hand; one through a window is accepted
by its unit first, and meets no access of its core still on its way. -/
def Obligations.GlobalStores : Prop :=
  (∀ (s : State) (x : Nat) (g : BitVec 4) (d : BitVec 6) (h : BitVec 4) (a : BitVec 6) (m : BitVec 2) (pl : Place),
    ∀ e ∈ storeTable, Issues s x (e.1 g d h a m) → Quiet s →
    checkGlobal s (issuer s x) h.toNat (globalOff (latchExt s) (issuer s x) a e.2.1) e.2.1 false true {} = .ok pl →
    pl.bind = 0 → isMmio pl.pa = false → pl.watched = false → storeWaits (issuer s x) pl e.2.1 = false →
    lineFits (getCore s s.focus) (pl.pa / 128) = true →
    Did s x (e.1 g d h a m) {
      outs := postOut (issuer s x) m a e.2.1
      core := cached (issuer s x).task pl.pa e.2.1 (stored (issuer s x) e.2.2 d) }) ∧
  (∀ (s : State) (x : Nat) (g : BitVec 4) (d : BitVec 6) (h : BitVec 4) (a : BitVec 6) (m : BitVec 2) (pl : Place),
    ∀ e ∈ storeTable, Issues s x (e.1 g d h a m) →
    checkGlobal s (issuer s x) h.toNat (globalOff (latchExt s) (issuer s x) a e.2.1) e.2.1 false true {} = .ok pl →
    (pl.bind = 0 → Goes s x (e.1 g d h a m) {
      outs := postOut (issuer s x) m a e.2.1, act := storeNow (here s x) pl e.2.1 (stored (issuer s x) e.2.2 d) }) ∧
    (pl.bind ≠ 0 → committing (issuer s x) (bindWindow pl.bind) = false →
      worksMeet (issuer s x).works (0, pl.pa, e.2.1) = false → storesMeet s s.focus (pl.pa / 128 * 128) 128 = false →
      windowStoreFault s pl = none → (issuer s x).wack = true → Goes s x (e.1 g d h a m) {
        outs := postOut (issuer s x) m a e.2.1
        act := fun u => modCtx (storeNow (here s x) pl e.2.1 (stored (issuer s x) e.2.2 d) u) s.focus x
          fun k => { k with wack := false } }))

/-- R4, R179, R189: A store in a line cache changes the bytes stored and no other byte of its line, and marks them valid and
dirty. Bytes written in a memory read back as written, little-endian, and every other byte reads as before. -/
def Obligations.BytesStored : Prop :=
  (∀ (l : Line) (task o n v i : Nat), o + n ≤ 128 → i < 128 →
    let m := lineBlend l task o n v true
    elem 8 m.val.toNat i = (if o ≤ i ∧ i < o + n then elem 8 v (i - o) else elem 8 l.val.toNat i) ∧
    m.valid.getLsbD i = (decide (o ≤ i ∧ i < o + n) || l.valid.getLsbD i) ∧
    m.dirty.getLsbD i = (decide (o ≤ i ∧ i < o + n) || l.dirty.getLsbD i)) ∧
  (∀ (m : Map Byte) (a n v b : Nat),
    (mget (writeNat m a n v) b 0).toNat = (if a ≤ b ∧ b < a + n then v / 256 ^ (b - a) % 256 else (mget m b 0).toNat) ∧
    readNat (writeNat m a n v) a n = v % 256 ^ n)

/-- R181, R193, R194, R199: a core-scratchpad load inside the carve, of words that are not poisoned, puts the bytes read in
flight with latency 8; a bank conflict delays them and holds issue. That the address is taken modulo 2^64 is the model's choice
(log entry 79). -/
def Obligations.ScratchLoads : Prop :=
  ∀ (s : State) (x : Nat) (g : BitVec 4) (q : BitVec 1) (d : BitVec 6) (o : BitVec 4) (a : BitVec 6) (m : BitVec 2),
    ∀ e ∈ spadLoadTable, Issues s x (e.1 g q d o a m) → Quiet s →
    let n := e.2.bytes
    let at_ := spadAddr (latchExt s) (issuer s x) o a n
    guardMeets s s.focus at_ n false = false → inCarve s (issuer s x) 0 at_ n = true → spadBad s s.focus at_ n = false →
    Did s x (e.1 g q d o a m) {
      sq := q = 1
      outs := { reg := loadReg e.2 d, val := readNat (getCore s s.focus).scratch at_ n, lat := 8, spad := true } ::
        postOut (issuer s x) m a n
      conflict := bankConflict (spadWords at_ n) }

/-- R181, R193, R194, R199: a core-scratchpad store inside the carve writes its bytes, at the address of R193, as its bundle
issues. That the address is taken modulo 2^64 is the model's choice (log entry 79). -/
def Obligations.ScratchStores : Prop :=
  ∀ (s : State) (x : Nat) (g : BitVec 4) (d : BitVec 6) (o : BitVec 4) (a : BitVec 6) (m : BitVec 2),
    ∀ e ∈ spadStoreTable, Issues s x (e.1 g d o a m) → Quiet s →
    let n := e.2.1
    let at_ := spadAddr (latchExt s) (issuer s x) o a n
    guardMeets s s.focus at_ n true = false → inCarve s (issuer s x) 0 at_ n = true →
    Did s x (e.1 g d o a m) {
      outs := postOut (issuer s x) m a n
      conflict := bankConflict (spadWords at_ n)
      core := fun k => { k with
        scratch := writeNat k.scratch at_ n (stored (issuer s x) e.2.2 d), poison := clearPoison k.poison at_ n } }

/-- R98, R199, R200, R202, R203: Loads and stores of cluster-shared memory and the chip scratchpad inside the carve are put in
hand; those of lane-private memory reach all four lane groups at one address. PLST writes the transposed column of a B buffer
and holds issue one cycle more, or as its bank conflicts do; VLDB and VSTB reach a row of a bank the context has in V mode. That
an address is taken modulo 2^64 is the model's choice (log entry 79). -/
def Obligations.LevelAndBankAccesses : Prop :=
  (∀ (s : State) (x : Nat) (g : BitVec 4) (q : BitVec 1) (d : BitVec 6) (o : BitVec 4) (a : BitVec 6) (m : BitVec 2), Quiet s →
    let k := issuer s x
    let row := spadAddr (latchExt s) k o a 128
    let lane := spadAddr (latchExt s) k o a 32
    let laneWrite := fun (c : Core) => (upTo 4).foldl (fun c n => { c with
      lane := writeNat c.lane (n * 2 ^ 16 + lane) 32 (elem 256 (readV k d.toNat).toNat n)
      poison := c.poison.filter (· ≠ lanePoison n lane) }) c
    (∀ e ∈ levelLoadTable, Issues s x (e.1 g q d o a m) → inCarve s k e.2.index row 128 = true →
      Did s x (e.1 g q d o a m) {
        sq := q = 1
        works := [{ reg := .v d.toNat, kind := .levelLoad e.2 row }]
        outs := postOut k m a 128 }) ∧
    (∀ e ∈ levelStoreTable, Issues s x (e.1 g d o a m) → inCarve s k e.2.index row 128 = true →
      Did s x (e.1 g d o a m) {
        works := [{ reg := .none, kind := .levelStore e.2 row (readV k d.toNat).toNat }]
        outs := postOut k m a 128 }) ∧
    (Issues s x (.vldL g q d o a m) → inCarve s k 3 lane 32 = true →
      (∀ n, n < 4 → laneBad s s.focus n lane = false) →
      Did s x (.vldL g q d o a m) {
        sq := q = 1
        outs := { reg := .v d.toNat, lat := 4,
                  val := ofElems 256 ((upTo 4).map fun n => readNat (getCore s s.focus).lane (n * 2 ^ 16 + lane) 32) } ::
          postOut k m a 32 }) ∧
    (Issues s x (.vstL g d o a m) → inCarve s k 3 lane 32 = true →
      Did s x (.vstL g d o a m) { outs := postOut k m a 32, core := laneWrite } ∧
        ∀ (c : Core) (b : Nat), (mget (laneWrite c).lane b 0).toNat =
          if b < 2 ^ 18 ∧ lane ≤ b % 2 ^ 16 ∧ b % 2 ^ 16 < lane + 32 then
            (readV k d.toNat).toNat / 256 ^ (32 * (b / 2 ^ 16) + (b % 2 ^ 16 - lane)) % 256
          else (mget c.lane b 0).toNat)) ∧
  (∀ (s : State) (x : Nat) (g : BitVec 4) (q : BitVec 1) (d : BitVec 6) (o : BitVec 4) (a : BitVec 6) (m : BitVec 2), Quiet s →
    let k := issuer s x
    (Issues s x (.plst g d o a) → ∀ f, matFmt k.mfmt.toNat = some f →
      let b := (readS k a.toNat).toNat / 64 * 64
      let ps := columnPieces f o.toNat (elems f.b.bits (readV k d.toNat).toNat f.k)
      (∀ p ∈ ps, guardMeets s s.focus (b + p.1) p.2.1 true = false) → firstOutside s k (ps.map fun p => (b + p.1, p.2.1)) = none →
      Goes s x (.plst g d o a) {
        words := ps.flatMap fun p => spadWords (b + p.1) p.2.1
        heldMore := 1, act := fun u => ps.foldl (fun u p => spadStore u s.focus (b + p.1) p.2.1 p.2.2) u }) ∧
    (∀ w, bankRow s s.focus x (spadAddr (latchExt s) k o a 128) = .inl w →
      (Issues s x (.vldb g q d o a m) → bankBad (getCore s s.focus) w = false → Did s x (.vldb g q d o a m) {
        sq := q = 1
        outs := { reg := .v d.toNat, val := tileWords (getCore s s.focus).tiles w 32, lat := 6 } :: postOut k m a 128
        core := fun c => { c with vbusy := c.vbusy ++ [(w / 2048, 6)] } }) ∧
      (Issues s x (.vstb g d o a m) → Did s x (.vstb g d o a m) {
        outs := postOut k m a 128
        core := fun c => { c with
          tiles := tileWrite c.tiles w 32 (readV k d.toNat).toNat
          badRows := c.badRows.filter fun r => r ≠ w / 16 ∧ r ≠ w / 16 + 1 } })))

/-- R201: a gather reads each active element at its own address; a scatter writes them, in order. Each completes where every
active element lies in the carve and no word is poisoned or guarded. That s[x] counts as signed and the sum is not cut is the
model's choice (log entry 79). -/
def Obligations.GatherScatter : Prop :=
  ∀ (s : State) (x : Nat) (g : BitVec 4) (q : BitVec 1) (d : BitVec 6) (i : BitVec 4) (a : BitVec 6) (m : BitVec 2), Quiet s →
    let k := issuer s x
    let z := 2 ^ m.toNat
    let es := gatherElems (latchExt s) k i a z
    let group := fun (n : GatherElem) => n.i * 8 * z / 256
    (∀ e ∈ gatherTable, Issues s x (e.1 g q d i a m) → (∀ n ∈ es, inCarve s k (if e.2 then 3 else 0) n.a z = true) →
      (e.2 = false → ∀ n ∈ es, guardMeets s s.focus n.a z false = false ∧ spadBad s s.focus n.a z = false) →
      (e.2 = true → ∀ n ∈ es, laneBad s s.focus (group n) n.a = false) →
      Did s x (e.1 g q d i a m) {
        sq := q = 1
        conflict := bankConflict (if e.2 then [] else es.map fun n => n.a / 32)
        outs := [{
          reg := .v d.toNat, lat := if e.2 then 6 else 10, spad := !e.2
          mask := nsum (es.map fun n => ones (8 * z) * 2 ^ (8 * z * n.i))
          val := nsum (es.map fun n => (if e.2 then readNat (getCore s s.focus).lane (group n * 2 ^ 16 + n.a) z
            else readNat (getCore s s.focus).scratch n.a z) * 2 ^ (8 * z * n.i)) }] }) ∧
    (∀ e ∈ scatterTable, Issues s x (e.1 g d i a m) → (∀ n ∈ es, inCarve s k (if e.2 then 3 else 0) n.a z = true) →
      (e.2 = false → ∀ n ∈ es, guardMeets s s.focus n.a z true = false) →
      Goes s x (e.1 g d i a m) {
        words := if e.2 then [] else es.map fun n => n.a / 32
        act := fun u => es.foldl (fun u n =>
          let b := elem (8 * z) (readV k d.toNat).toNat n.i
          if e.2 then laneStore u s.focus (group n) n.a z b else spadStore u s.focus n.a z b) u })

/-- R60, R186, R187: XLT puts in flight, for 16 cycles, the handle of a translation found, or a pending one; HDROP an empty
handle, for the end of the cycle. -/
def Obligations.HandleResults : Prop :=
  ∀ (s : State) (x : Nat) (g : BitVec 4) (w : BitVec 1) (h : BitVec 4) (a : BitVec 6), Quiet s →
    let v := (operand s x a).toNat
    let bind := if w = 1 then 2 ^ 12 + v / 2 ^ 57 % 16 * 2 ^ 8 + (getWindow s (v / 2 ^ 57 % 16)).count % 256 else 0
    let puts := fun (n : Nat) (hd : Handle) (k : Ctx) =>
      { k with hflights := k.hflights ++ [{ h := h.toNat, left := n, handle := hd }] }
    (Issues s x (.xlt g w h a) → Did s x (.xlt g w h a) {
      ctx := puts 16 (match tlbLookup s s.focus (issuer s x).part (v % 2 ^ 57) with
        | some l => leafHandle s (issuer s x).part l (v % 2 ^ 57) bind 0
        | none => { pending := true, va := BitVec.ofNat 57 v, bind := BitVec.ofNat 13 bind }) }) ∧
    (Issues s x (.hdrop g h) → Did s x (.hdrop g h) { ctx := puts 1 {} })

/-- R57, R195, R204–R207, R224: an atomic that passes its checks is put in hand with its operands as read at issue. Performed at
its home, it returns the word that stands there and leaves the one its operation makes of it, and no other byte has changed: in
the core's line cache; at the cluster's unit, where the core's line cache does not hold the line; at the slice, with the line
cache's dirty bytes of the line. -/
def Obligations.AtomicsInHand : Prop :=
  (∀ (s : State) (x : Nat) (g : BitVec 4) (d : BitVec 6) (h : BitVec 4) (a : BitVec 6) (sc : BitVec 2) (pl : Place),
    ∀ e ∈ atomicTable, Issues s x (e.1 g d h a sc) → Quiet s →
    let z := if e.2 = .fadd then 4 else 8
    checkGlobal s (issuer s x) h.toNat (globalOff (latchExt s) (issuer s x) a z) z true true
      { bound := true, uncached := true } = .ok pl →
    Did s x (e.1 g d h a sc) { works := [{
      reg := sReg d.toNat
      kind := .atomic e.2 (scopeOf sc.toNat) pl (operand s x d).toNat
        (if e.2 = .cas then (readS (issuer s x) (d.toNat + 1)).toNat else 0) }] }) ∧
  (∀ (s : State) (c x : Nat) (w : Work) (op : AtomOp) (sc : Scope) (pl : Place) (a cmp : Nat), w.kind = .atomic op sc pl a cmp →
    let z := if op = .fadd then 4 else 8
    let l := pl.pa / 128
    let o := pl.pa % 128
    let home := atomicHome c sc pl
    let t := (workPerform s c x w).1
    let byte := fun (s : State) (b : Nat) => (mget s.mem b 0).toNat
    let cached := mget (getCore s c).lines l emptyLine
    let flags := fun (old : Nat) =>
      if op = .fadd then (finish fmtF32 (addV (decodeF fmtF32 old) (decodeF fmtF32 (a % 2 ^ 32)))).fl else 0
    pl.pa % z = 0 → a < 2 ^ 64 → cmp < 2 ^ 64 → cached.poison = false → linePoison s l = false →
    (home = .core → lineHit s c pl.pa z = true →
      let old := ofBytes z fun i => elem 8 cached.val.toNat (o + i)
      (workPerform s c x w).2 = .done old (flags old) ∧ t.mem = s.mem ∧
      ∀ b, b < 128 → elem 8 (mget (getCore t c).lines l emptyLine).val.toNat b =
        if o ≤ b ∧ b < o + z then ((atomicWrites op old a cmp).getD old) / 256 ^ (b - o) % 256 else elem 8 cached.val.toNat b) ∧
    (home = .clu → mfind (getCore s c).lines l = none → lineBusy s l = false →
      let held := match cluFind s (clusterOf c) l with
        | some e => e.val
        | none => readNat s.mem (l * 128) 128
      let old := ofBytes z fun i => elem 8 held (o + i)
      (workPerform s c x w).2 = .done old (flags old) ∧ t.mem = s.mem ∧
      ∃ e, cluFind t (clusterOf c) l = some e ∧ ∀ b, b < 128 → elem 8 e.val b =
        if o ≤ b ∧ b < o + z then ((atomicWrites op old a cmp).getD old) / 256 ^ (b - o) % 256 else elem 8 held b) ∧
    (home ≠ .core → home ≠ .clu → lineBusy s l = false → replicasOf s pl.pa = [] → (∀ e ∈ s.cluLines, e.line ≠ l) →
      let old := ofBytes z fun i => backed s c (pl.pa + i) (byte s (pl.pa + i))
      (workPerform s c x w).2 = .done old (flags old) ∧
      ∀ b, byte t b = if pl.pa ≤ b ∧ b < pl.pa + z then ((atomicWrites op old a cmp).getD old) / 256 ^ (b - pl.pa) % 256
        else if b / 128 = l then backed s c b (byte s b) else byte s b))

/-! ### Matrix instructions -/

/-- R150–R154, R157, R161, R162, R166–R168, R170: An entry joins the queue of its context, with its operand addresses, format,
planes and guard ranges, where the queue and the guard have room, no MSTA is yet to write its operands, the tile's bank is
granted in M mode, and the operands lie in the carve. MCOMMIT closes the batch; every entry but a continued MMA closes the open chain. What an entry placed in a
queue is, and what placing it changes. That MCOMMIT and MZERO, which take no guard entry, do not wait for room in the guard is the
model's reading (log entry 72). -/
def Obligations.MatrixEntries : Prop :=
  (∀ (s : State) (x : Nat) (g : BitVec 4) (t : BitVec 8) (a b : BitVec 6), (issuer s x).mq.length < 16 →
    let k := issuer s x
    let tile := t.toNat
    let code := (latchExt s).x / 16
    let n := (latchExt s).x % 16
    let fmt := if code = 0 then k.mfmt.toNat else code
    let room := guardUsed (getCore s s.focus) < 16
    let granted := bankM s s.focus x (bankOf tile) = true
    (Issues s x (.mcommit g) → Goes s x (.mcommit g) {
      act := enqueue (here s x) .mcommit 0 0 0 0 0 false false (some 0) [] false }) ∧
    (Issues s x (.mzero g t) → granted → Goes s x (.mzero g t) {
      act := enqueue (here s x) .mzero tile 0 0 0 0 false false (some 0) [] false }) ∧
    (∀ e ∈ tileMoveTable, Issues s x (e.1 g t a) → room → granted →
      let at_ := (operand s x a).toNat / 64 * 64
      awaitsMsta s s.focus [(at_, 2048)] = false → firstOutside s k [(at_, 2048)] = none → Goes s x (e.1 g t a) {
        act := enqueue (here s x) e.2.1 tile at_ 0 0 0 false false (some 0) [(at_, 2048)] e.2.2 }) ∧
    (∀ e ∈ mmaTable, Issues s x (e.1 g t a b) → room → granted → ∀ f, matFmt fmt = some f → n ≤ f.full →
      let planes := if n = 0 then f.full else n
      let a0 := (operand s x a).toNat / 32 * 32
      let b0 := (operand s x b).toNat / 64 * 64
      let chain := match k.mopen with
        | some m => if !e.2.2 && m.2.1 = tile && m.2.2 = fmt then some m.1 else none
        | none => none
      awaitsMsta s s.focus (mmaRanges f a0 b0 planes k.edge) = false →
      firstOutside s k (mmaRanges f a0 b0 planes k.edge) = none → Goes s x (e.1 g t a b) {
        act := enqueue (here s x) (.mma e.2.1) tile a0 b0 fmt planes chain.isNone e.2.2 chain [(a0, 3072), (b0, f.bBytes)]
          false })) ∧
  (∀ (p : Port) (op : MOp) (tile a b fmt planes : Nat) (opens zero : Bool) (chain : Option Nat) (ranges : List (Nat × Nat))
    (write : Bool) (u : State),
    let v := enqueue p op tile a b fmt planes opens zero chain ranges write u
    let k := getCtx u p.core p.ctx
    let id := chain.getD u.seq
    getCtx v p.core p.ctx = { k with
      mq := k.mq ++ [{
        ctx := p.ctx, op := op, tile := tile, a := a, b := b, fmt := fmt, planes := planes, edge := k.edge
        batch := k.batch + 1, chain := id, opens := opens, zero := zero, seq := u.seq, cycle := (getCore u p.core).cycle }]
      batch := if op = .mcommit then k.batch + 1 else k.batch
      mopen := if op = .mma true ∨ op = .mma false then some (id, tile, fmt) else none } ∧
    getCore v p.core = { getCore u p.core with
      guard := (getCore u p.core).guard ++ ranges.map fun r => { seq := u.seq, lo := r.1, size := r.2, write := write } } ∧
    v.seq = u.seq + 1 ∧
    (∀ c, c ≠ p.core → getCore v c = getCore u c) ∧
    (∀ c y, c * 8 + y ≠ p.core * 8 + p.ctx → getCtx v c y = getCtx u c y) ∧
    v = { u with seq := v.seq, cores := v.cores, ctxs := v.ctxs })

/-- R164, R169, R172–R177: MDRN begins a drain at row 0; the batch waits pass; MWM returns its word; BANKLEND changes a bank's
mode or holder; SCLD loads a scale register; MCFG and MEDGE set the format and the extents. -/
def Obligations.MatrixControl : Prop :=
  ∀ (s : State) (x : Nat) (g n : BitVec 4) (t : BitVec 8) (pr c : BitVec 1) (a d : BitVec 6) (r : BitVec 3) (f : BitVec 5),
    Quiet s →
    let k := issuer s x
    let core := getCore s s.focus
    let tile := t.toNat
    let granted := bankM s s.focus x (bankOf tile) = true
    let bank := (operand s x a).toNat % 64
    let own := ∃ b, mfind core.banks bank = some b ∧ b.ctx = k.part * 8 + x
    let setMode := fun (v : Bool) (u : State) => modCore u s.focus fun c => { c with banks := match mfind c.banks bank with
      | some b => mset c.banks bank { b with vmode := v }
      | none => c.banks }
    (Issues s x (.mdrn g t pr) → granted → Goes s x (.mdrn g t pr) {
      act := fun u => modCtx u s.focus x fun k => { closeOn k fun u => u = tile || (pr = 1 && u = tile + 1) with
        drain := some { tile := tile, pair := pr = 1, next := 0 } } }) ∧
    (Issues s x (.mwaitb g n) → openBatches core k x ≤ n.toNat → Did s x (.mwaitb g n) {}) ∧
    (Issues s x (.mwaitbId g a) → batchDone core k x (batchNamed k (operand s x a).toNat) = true → Did s x (.mwaitbId g a) {}) ∧
    (Issues s x (.mwm g d t c) → granted → Goes s x (.mwm g d t c) {
      works := [{ reg := sReg d.toNat, kind := .value (BitVec.ofNat 1024 (mwmWord core k x tile)) 0 }]
      act := fun u =>
        let u := modCtx u s.focus x fun k => closeOn k fun v => v = tile
        if c = 1 then modCore u s.focus fun k => { k with tof := k.tof.filter (· ≠ tile), tnv := k.tnv.filter (· ≠ tile) }
        else u }) ∧
    (Issues s x (.banklendM g a) → bank ≤ 39 → own → bankFlight core bank = false →
      Goes s x (.banklendM g a) { act := setMode false }) ∧
    (Issues s x (.banklendV g a) → bank ≤ 39 → own → bankBusy core k x bank = false →
      Goes s x (.banklendV g a) { act := setMode true }) ∧
    (Issues s x (.banklendRel g a) → bank ≤ 39 → own → bankBusy core k x bank = false →
      Goes s x (.banklendRel g a) { act := fun u => modCore u s.focus fun c => { c with banks := mdel c.banks bank } }) ∧
    (Issues s x (.banklendAcq g a) → bank ≤ 39 → bitOf (ctxRegion s k).pool bank = true → mfind core.banks bank = none →
      bankFlight core bank = false → Goes s x (.banklendAcq g a) {
        act := fun u => modCore { u with seq := u.seq + 1 } s.focus fun c =>
          { clearSticky (grantBank c (regionKey k.part k.region) (k.part * 8 + x) bank) bank with
            writes := c.writes ++ acquireWrites k x u.seq bank } }) ∧
    (Issues s x (.scld g r a) →
      let at_ := (operand s x a).toNat / 128 * 128
      guardMeets s s.focus at_ 128 false = false → inCarve s k 0 at_ 128 = true → spadBad s s.focus at_ 128 = false →
      Did s x (.scld g r a) {
        outs := [{ reg := .k r.toNat, val := readNat core.scratch at_ 128, lat := 6, spad := true }]
        conflict := bankConflict (spadWords at_ 128) }) ∧
    (Issues s x (.mcfg g f) → Did s x (.mcfg g f) { ctx := fun k => { k with mfmt := f } }) ∧
    (Issues s x (.medge g a) →
      let v := (operand s x a).toNat
      Did s x (.medge g a) { ctx := fun k => { k with edge := {
        rows := if v % 64 = 0 ∨ 32 < v % 64 then 32 else v % 64
        cols := if v / 2 ^ 8 % 64 = 0 ∨ 16 < v / 2 ^ 8 % 64 then 16 else v / 2 ^ 8 % 64
        kext := v / 2 ^ 16 % 256 } } })

/-! ### Ordering, engines, windows and units -/

/-- R213, R217–R219, R222: a fence holds the bundles after it until it completes; HBIND answers its status, once a dirty copy of
the hatch's line whose page has replicas is written back; an acquisition that
may be granted writes OWNER and records what it holds, with the rest of its work still to do; a release is put in hand. -/
def Obligations.FencesAndHatches : Prop :=
  ∀ (s : State) (x : Nat) (g h : BitVec 4) (sc : BitVec 2) (a d : BitVec 6) (pl : Place), Quiet s →
    let k := issuer s x
    let hh := readHatch s pl.pa
    let fence := fun (kind : Nat) => ({ ctx := fun k => { k with hold := k.hold ++ [.fence kind (scopeOf sc.toNat)] } } : Deed)
    let placed := hatchPlace s (here s x) (latchExt s) h a = .ok pl
    let granted := fun (owner : Nat) (u : State) =>
      let u := { u with hatchq := u.hatchq.filter fun r => r ≠ (pl.pa, s.focus, x, k.part) }
      let hh := readHatch u pl.pa
      writeHatch (sliceFetchAll u k.task pl.pa 128) (.ctx s.focus x) k.task pl.pa { hh with owner := owner }
    (Issues s x (.fenceRel g sc) → Did s x (.fenceRel g sc) (fence 0)) ∧
    (Issues s x (.fenceAcq g sc) → Did s x (.fenceAcq g sc) (fence 1)) ∧
    (Issues s x (.fenceAr g sc) → Did s x (.fenceAr g sc) (fence 2)) ∧
    (Issues s x (.hbind g h a d) → placed → lineDirty s s.focus (pl.pa / 128) = false ∨ replicasOf s pl.pa = [] → ∀ v, (hbindRun s s.focus x pl).2 = .inl v → Goes s x (.hbind g h a d) {
      works := [statusWork d v], act := statusAct (here s x) fun u => hbindRun u s.focus x pl }) ∧
    (Issues s x (.hacqX g h a d) → placed → releasing k = false → (bindingOf s k.part pl.pa hh).isSome →
      (getCore s s.focus).holdings.length < 16 → ¬ (hh.excl = true ∧ hh.tag = k.cr) → hacqReady s s.focus x pl true = true →
      Goes s x (.hacqX g h a d) { works := [statusWork d hh.seq], act := hacqTake (here s x) k pl true }) ∧
    (∀ u b, bindingOf (granted (2 ^ 63 + k.cr % 2 ^ 48) u) k.part pl.pa (readHatch u pl.pa) = some b →
      hacqTake (here s x) k pl true u =
        modCtx (modCore (granted (2 ^ 63 + k.cr % 2 ^ 48) u) s.focus fun c => { c with holdings := c.holdings ++
          [{ hatch := pl.pa, lo := b.pa, len := b.len, va := pl.va, tag := k.cr, sig := 0 }] }) s.focus x
            fun k => { k with hold := k.hold ++ [.hatch pl true] }) ∧
    (Issues s x (.hacqS g h a d) → placed → releasing k = false → (bindingOf s k.part pl.pa hh).isSome →
      ¬ (hh.excl = true ∧ hh.tag = k.cr) → hacqReady s s.focus x pl false = true →
      Goes s x (.hacqS g h a d) { works := [statusWork d hh.seq], act := hacqTake (here s x) k pl false }) ∧
    (∀ u, hacqTake (here s x) k pl false u =
      modCtx (modTask (granted ((readHatch u pl.pa).owner + 2 ^ 48) u) k.task fun t => { t with shared := t.shared ++ [(s.focus, pl.pa)] })
        s.focus x fun k => { k with hold := k.hold ++ [.hatch pl false] }) ∧
    (Issues s x (.hrel g h a d) → placed → (bindingOf s k.part pl.pa hh).isSome →
      (hh.excl = true ∧ hh.tag = k.cr ∨ hh.excl = false ∧ 0 < hh.shared) →
      Did s x (.hrel g h a d) (asks (sReg d.toNat) (.hrel pl hh.excl)))

/-- R233, R244–R246, R299–R304: barriers, queues, timelines and tags: operations are put in hand, and waits whose condition
holds pass, with the acquire that follows them. -/
def Obligations.BarriersQueuesAndTags : Prop :=
  ∀ (s : State) (x : Nat) (g : BitVec 4) (a b d : BitVec 6) (e : BitVec 3), Quiet s →
    let k := issuer s x
    let va := (operand s x a).toNat
    let vb := (operand s x b).toNat
    let tags := (getCore s s.focus).tags
    (Issues s x (.bara g d a) → (barrierOf s s.focus k (va % 32)).isSome →
      Did s x (.bara g d a) (asks (sReg d.toNat) (.bara (va % 32)))) ∧
    (Issues s x (.barw g a b) → (∃ r, barrierOf s s.focus k (va % 32) = some r ∧ r.phase ≠ vb % 2 ^ 32) →
      Did s x (.barw g a b) { ctx := fun k => { k with
        hold := k.hold ++ [.fence 1 (if va % 32 < 16 then .clu else .dev)] } }) ∧
    (Issues s x (.qpush g d a b) → (queueOf s s.focus k (va % 64)).isSome →
      Did s x (.qpush g d a b) (asks (sReg d.toNat) (.qpush (va % 64) vb))) ∧
    (Issues s x (.qpop g d a) → (∃ q, queueOf s s.focus k (va % 64) = some q ∧ q.task = false ∧ q.items ≠ [] ∧
        popAhead s q s.focus x = false) →
      Goes s x (.qpop g d a) {
        works := [{ reg := sReg d.toNat, kind := .unit (.qpop (va % 64) none) }], act := popIssue (here s x) (va % 64) }) ∧
    (Issues s x (.tlwait g e b) → vb ≤ (getEngine s (engineKey (islandOf s.focus) k.part e.toNat)).counter →
      Did s x (.tlwait g e b) { ctx := fun k => { k with hold := k.hold ++ [.tlwait e.toNat vb] } }) ∧
    (Issues s x (.tlrd g d e) → Did s x (.tlrd g d e) (asks (sReg d.toNat) (.tlrd e.toNat 0))) ∧
    (Issues s x (.tlrdSt g d e) → Did s x (.tlrdSt g d e) (asks (sReg d.toNat) (.tlrd e.toNat 1))) ∧
    (Issues s x (.tlrdStc g d e) → Did s x (.tlrdStc g d e) (asks (sReg d.toNat) (.tlrd e.toNat 2))) ∧
    (Issues s x (.tagw g a) → tags &&& operand s x a = operand s x a → Did s x (.tagw g a) {}) ∧
    (Issues s x (.tagffC g a) → Did s x (.tagffC g a) { core := fun c => { c with tags := c.tags &&& ~~~ operand s x a } }) ∧
    (Issues s x (.tagffS g a) → Did s x (.tagffS g a) { core := fun c => { c with tags := c.tags ||| operand s x a } })

/-- R232–R235, R244, R248: CPY and MVX, their descriptor read and found in rule, are accepted in their engine context: the next
number is returned, to land in the cycle after the bundle issues, and the operation stands last in the context's queue with the handles it names; a CPY's tag is cleared
and counted. -/
def Obligations.EngineOperations : Prop :=
  (∀ (s : State) (x : Nat) (g : BitVec 4) (d a : BitVec 6),
    let k := issuer s x
    let at_ := fun (n : Nat) => (operand s x a).toNat / n * n
    let ws := fun (n : Nat) => elems 64 (readNat (getCore s s.focus).scratch (at_ n) n) (n / 8)
    let ready := fun (n : Nat) => 3 ≤ k.preStall ∧ guardMeets s s.focus (at_ n) n false = false ∧ inCarve s k 0 (at_ n) n = true
    let key := fun (e : Nat) => engineKey (islandOf s.focus) k.part e
    let number := fun (e : Nat) => ({
      reg := sReg d.toNat
      kind := .timed (BitVec.ofNat 1024 ((getEngine s (key e)).accepted + 1)) 2 } : NewWork)
    let through := fun (d : Side) => if d.lvl = 3 then some d.h else none
    (Issues s x (.cpy g d a) → ready 256 → ∀ m, readCpy (ws 256) = some m →
      checkCpy s k m (trapOf codeDescriptor (at_ 256 % 2 ^ 57) m.ectx) = .ok → (getEngine s (key m.ectx)).ops.length < 32 →
      Goes s x (.cpy g d a) {
        works := [number m.ectx], act := acceptOp (here s x) false m.ectx (ws 256)
          [through m.src, through m.dst, m.pub.map fun q => q.1] m.tag }) ∧
    (Issues s x (.mvx g d a) → ready 128 → ∀ m, readMvx (ws 128) (fun h => (readH k h).va.toNat) = some m →
      checkMvx s k m (trapOf codeDescriptor (at_ 128 % 2 ^ 57) m.ectx) = .ok → (getEngine s (key m.ectx)).ops.length < 32 →
      Goes s x (.mvx g d a) {
        works := [number m.ectx]
        act := acceptOp (here s x) true m.ectx (ws 128)
          [through m.x, through m.y, m.pub.map fun q => q.1, some m.wh] none })) ∧
  (∀ (p : Port) (mvx : Bool) (e : Nat) (ws : List Nat) (hs : List (Option Nat)) (tag : Option Nat) (u : State),
    let k := getCtx u p.core p.ctx
    let key := engineKey (islandOf p.core) k.part e
    let v := acceptOp p mvx e ws hs tag u
    getEngine v key = { getEngine u key with
      accepted := (getEngine u key).accepted + 1
      ops := (getEngine u key).ops ++ [{
        n := (getEngine u key).accepted + 1, core := p.core, ctx := p.ctx, part := k.part, task := k.task, mvx := mvx,
        desc := ws, handles := hs.map fun h => match h with | some n => readH k n | none => {}, started := false }] } ∧
    (∀ j, j ≠ key → getEngine v j = getEngine u j) ∧
    (∀ t, tag = some t → getCore v p.core = { getCore u p.core with
      tags := (getCore u p.core).tags &&& ~~~ BitVec.twoPow 64 t
      counts := mset (getCore u p.core).counts t (mget (getCore u p.core).counts t 0 + 1) }) ∧
    (tag = none → ∀ c, getCore v c = getCore u c) ∧
    v = { u with engines := v.engines, cores := v.cores })

/-- R263–R269, R272–R275: WOPEN and PWATCH.I answer their status; WPOS sets a position and its parent; WALLOC takes the first
page of the list; a commit is put in hand; WABORT, after the context's own stores into it, empties the window, and .F closes it besides; PWATCH.R, PWATCH.Q and PDROP
are put in hand for the entry in s[x] bits 7:0. -/
def Obligations.WindowsAndPeepholes : Prop :=
  ∀ (s : State) (x : Nat) (g h : BitVec 4) (a b c d : BitVec 6) (pl : Place), Quiet s →
    let k := issuer s x
    let va := (operand s x a).toNat
    let vb := (operand s x b).toNat
    let vc := (operand s x c).toNat
    let placed := descPlace s (here s x) (latchExt s) h a = .ok pl
    let named := windowNamed s k va = some va ∧ committing k va = false
    let emptied := fun (w : Window) => ({ w with
      overlay := [], parents := [], pages := w.taken.map (fun t => t.1) ++ w.pages, taken := [] } : Window)
    let onWindow := fun (f : Window → Window) (u : State) => { u with windows := mset u.windows va (f (getWindow u va)) }
    (Issues s x (.wopen g d h a) → placed → ∀ v, (wopenRun s s.focus x pl).2 = .inl v → Goes s x (.wopen g d h a) {
      works := [statusWork d v], act := statusAct (here s x) fun u => wopenRun u s.focus x pl }) ∧
    (Issues s x (.pwatchI g d h a) → placed → ∀ v, (pwatchRun s s.focus x pl).2 = .inl v → Goes s x (.pwatchI g d h a) {
      works := [statusWork d v], act := statusAct (here s x) fun u => pwatchRun u s.focus x pl }) ∧
    (Issues s x (.wpos g a b c) → named → vb ≤ 63 → (vc = 64 ∨ vc < vb) → Goes s x (.wpos g a b c) {
      act := fun u => modCtx (onWindow (fun w => { w with parents := mput w.parents vb vc 64 }) u) s.focus x
        fun k => { k with curw := some va, curp := vb } }) ∧
    (Issues s x (.walloc g d a) → named → k.curw = some va → (getWindow s va).pages = [] → Goes s x (.walloc g d a) {
      works := [statusWork d 0], act := fun u => (wallocRun u va k.curp).1 }) ∧
    (Issues s x (.walloc g d a) → named → k.curw = some va → ∀ q t, (getWindow s va).pages = q :: t →
      Goes s x (.walloc g d a) { works := [statusWork d q], act := fun u => (wallocRun u va k.curp).1 } ∧
      ∀ u, (getWindow u va).pages = q :: t →
        (wallocRun u va k.curp).1 = onWindow (fun w => { w with pages := t, taken := w.taken ++ [(q, k.curp)] }) u) ∧
    (Issues s x (.wcommit g d a b) → named → Did s x (.wcommit g d a b) (asks (sReg d.toNat) (.wcommit va vb))) ∧
    (Issues s x (.wabortK g a) → named → k.works.any (intoWindow va) = false → Goes s x (.wabortK g a) {
      act := onWindow fun w => { emptied w with closing := false } }) ∧
    (Issues s x (.wabortF g a) → named → k.works.any (intoWindow va) = false → Goes s x (.wabortF g a) {
      act := onWindow fun w => { emptied w with closing := true } }) ∧
    (Issues s x (.pwatchR g d a) → Did s x (.pwatchR g d a) (asks (sReg d.toNat) (.pwatchR (va % 256) (va / 2 ^ 32 % 2 ^ 16)))) ∧
    (Issues s x (.pwatchQ g d a) → Did s x (.pwatchQ g d a) (asks (sReg d.toNat) (.pwatchQ (va % 256)))) ∧
    (Issues s x (.pdrop g d a) → Did s x (.pdrop g d a) (asks (sReg d.toNat) (.pdrop (va % 256))))

/-- R321–R324, R328, R334–R337, R339–R341, R407: Requests to the dispatcher, the batching table and the sampling queues are put
in hand with their operands as read at issue; DLBAR passes with its answer where the word is ready or the deadline has passed.
TOKRDY.S holds the bundles after it on its own work; STRN and LEXP hold their input and output ranges in the operand guard
while their work is in hand; TRACE writes a record, with the state before its bundle, where consent allows it. -/
def Obligations.UnitRequests : Prop :=
  (∀ (s : State) (x : Nat) (g h p : BitVec 4) (a b d i pd : BitVec 6) (w : BitVec 2) (pl : Place), Quiet s →
    let va := (operand s x a).toNat
    let vb := (operand s x b).toNat
    let next := fun (n : Nat) => (readS (issuer s x) (b.toNat + n)).toNat
    (Issues s x (.smpq g d a b) → Did s x (.smpq g d a b) (asks (sReg d.toNat) (.smpq va vb))) ∧
    (Issues s x (.tokrdy g p a) → Did s x (.tokrdy g p a) (asks (.p (p.toNat / 2)) (.tokrdy (va % 4096)))) ∧
    (Issues s x (.btset g d a b) → Did s x (.btset g d a b) (asks (sReg d.toNat) (.btset va vb (next 1)))) ∧
    (Issues s x (.btrd g d a w) → Did s x (.btrd g d a w) (asks (sReg d.toNat) (.btrd va w.toNat))) ∧
    (Issues s x (.budq g d i) → Did s x (.budq g d i) (asks (sReg d.toNat) (.budq i.toNat 0))) ∧
    (Issues s x (.budqCcost g d b) → Did s x (.budqCcost g d b) (asks (sReg d.toNat) (.budq 4 (vb % 8)))) ∧
    (Issues s x (.jrd g d) → Did s x (.jrd g d) (asks (sReg d.toNat) (.jrd false))) ∧
    (Issues s x (.jrdL g d) → Did s x (.jrdL g d) (asks (sReg d.toNat) (.jrd true))) ∧
    (Issues s x (.thack g d) → Did s x (.thack g d) (asks (sReg d.toNat) .thack)) ∧
    (Issues s x (.dlbar g pd h b) →
      checkGlobal s (issuer s x) h.toNat (operand s x b).toInt 8 true false { bound := true, uncached := true } = .ok pl →
      let goes := fun (r : Bool) => Goes s x (.dlbar g pd h b) {
        works := [{ reg := .p (pd.toNat / 2), kind := .unit (.dlbar r) }]
        act := fun u => sliceFetchAll u (issuer s x).task pl.pa 8 }
      let ready := decide (next 1 ≤ readNat s.mem pl.pa 8)
      (∀ q r, (issuer s x).wait = some (.dlbarDone q r) → q.pa = pl.pa → goes r) ∧
      ((∀ q r, (issuer s x).wait = some (.dlbarDone q r) → q.pa ≠ pl.pa) → ready = true ∨ next 2 < issueNs s s.focus x →
        goes ready))) ∧
  (∀ (s : State) (x : Nat) (g : BitVec 4) (a b d n : BitVec 6),
    let k := issuer s x
    let va := (operand s x a).toNat
    let vb := (operand s x b).toNat
    let free := fun (i o : Nat × Nat) => guardUsed (getCore s s.focus) ≤ 14 ∧ guardMeets s s.focus i.1 i.2 false = false ∧
      guardMeets s s.focus o.1 o.2 true = false ∧ firstOutside s k [i, o] = none
    let onWork := fun (i o : Nat × Nat) => ∀ (u : State) (v : Work),
      (getCtx u s.focus x).works.getLast? = some v → v.pc = k.pc.toNat → v.slot = s.latch.slot % 4 →
      rangeHold (here s x) i o u = modCore u s.focus fun c => { c with guard := c.guard ++
        [{ seq := 2 * v.id + 2 ^ 64, lo := i.1, size := i.2, write := false },
         { seq := 2 * v.id + 2 ^ 64 + 1, lo := o.1, size := o.2, write := true }] }
    let paths := (va / 4 * 4, vb / 2 ^ 32 % 256 * (vb / 2 ^ 40 % 16 + 1) * 4)
    let nodes := (vb % 2 ^ 24 / 64 * 64, 576)
    let table := (va / 64 * 64, 512)
    let rows := (vb % 2 ^ 24 / 128 * 128, 1024)
    (Issues s x (.tokrdyS g a b) → Goes s x (.tokrdyS g a b) {
      works := [{ reg := .none, kind := .unit (.tokrdyS va vb) }], act := holdOwn (here s x) }) ∧
    (∀ (u : State) (v : Work), (getCtx u s.focus x).works.getLast? = some v → v.pc = k.pc.toNat → v.slot = s.latch.slot % 4 →
      holdOwn (here s x) u = modCtx u s.focus x fun k => { k with hold := k.hold ++ [.work v.id] }) ∧
    (Issues s x (.strn g d a b) → free paths nodes → Goes s x (.strn g d a b) {
      works := [{ reg := sReg d.toNat, kind := .unit (.strn va vb) }], act := rangeHold (here s x) paths nodes }) ∧
    (Issues s x (.lexp g d a b) → free table rows → Goes s x (.lexp g d a b) {
      works := [{ reg := sReg d.toNat, kind := .unit (.lexp va vb) }], act := rangeHold (here s x) table rows }) ∧
    onWork paths nodes ∧ onWork table rows ∧
    (Issues s x (.trace g a n) →
      let number := (latchExt s).x * 64 + n.toNat
      Goes s x (.trace g a n) {
        trace := some number
        act := fun u => if consents u k.part 0 then modCore u s.focus fun c =>
            { c with probe := pushTrace c.probe (traceRecord s s.focus x va number 0) }
          else u }))

/-! ### Events of the cores -/

/-- R53–R58, R60, R71, R181, R290, R333, R387: a core hands issue on, and a freeze moves results in flight to the snapshot, but
where its next bundle raises a decode fault, which wins. A bundle of any number of slots issues with the results and the work of
all those whose guards are true; one that raises a decode fault takes it, and one that has waited 2^20 cycles takes WATCHDOG.
An idle or held cycle is counted off and lands what is due; a piece of work completes; a block is read for a context that waits
for it; a context past END is freed. -/
def Obligations.CoreEvents : Prop :=
  (∀ (s : State) (c x id : Nat), x < 8 → (getCtx s c x).gang = false →
    let k := getCtx s c x
    let core := getCore s c
    let froze := fun (t : State) =>
      getCtx t c x = { k with snap := k.snap ++ k.flights, flights := [], stall := 0, preStall := 0 } ∧
      getCore t c = { core with owner := none, last := x, owned := 0, rest := 23, held := 0 } ∧
      t = { s with cores := t.cores, ctxs := t.ctxs }
    let boundary := toBoundary s c x
    let freezes := fun (i : Instr) => (faultFirst fetchBundle boundary c x = none → ∃ t, exec i s = .next t ∧ froze t) ∧
      ∀ t, fetchBundle boundary c x = .fault t → t.deferred = false → t.code ≠ codePoison →
        exec i s = .next (takeFault boundary c x { t with pc := k.pc.toNat })
    let cycles := fun (i : Instr) (f : Core → Core) => ∃ t, exec i s = .next t ∧ t.time = max s.time core.tnext ∧
      (∀ y, y < 8 → (getCtx t c y).flights = (ticked (getCtx s c y)).flights ∧ (getCtx t c y).s = (ticked (getCtx s c y)).s ∧
        (getCtx t c y).h = (ticked (getCtx s c y)).h) ∧
      (getCore t c).cycle = core.cycle + 1 ∧ (getCore t c).tnext = core.tnext + cycleLen s c ∧
      (getCore t c).held = (f core).held ∧ (getCore t c).rest = (f core).rest
    let passes := fun (i : Instr) => cycleWaits s [c] = false →
      (core.owner = some x → core.held ≠ 0 → cycles i fun k => { k with held := k.held - 1 }) ∧
      (core.owner = none → core.rest ≠ 0 → cycles i fun k => { k with rest := k.rest - 1 })
    (core.owner = none → core.rest = 0 → nextCtx s c = some x → k.due = .none → k.cont = false →
      ∃ t, exec (.contextSwitch c) s = .next t ∧
        getCtx t c x = { k with flights := k.snap ++ k.flights, snap := [] } ∧
        (getCore t c).owner = some x ∧ (getCore t c).owned = 0 ∧ (∀ d, d ≠ c → getCore t d = getCore s d)) ∧
    (core.owner = some x → core.held = 0 → outranked s c x = true → freezes (.preemptFreeze c)) ∧
    (core.owner = some x → core.held = 0 → quantumOver s c x = true → freezes (.issueQuantumExpiry c)) ∧
    passes (.bundleIssue c) ∧
    ((∃ y, y < 8 ∧ (getCtx s c y).flights.any (fun f => f.left ≤ 1) = true) →
      passes (.fixedResultLand c) ∧ ∃ t, exec (.fixedResultLand c) s = .next t ∧ exec (.bundleIssue c) s = .next t) ∧
    (k.hflights.any (fun f => f.left ≤ 1) = true →
      passes (.xltHandleLand c x) ∧ ∃ t, exec (.xltHandleLand c x) s = .next t ∧ exec (.bundleIssue c) s = .next t) ∧
    (awayWork s c x id = false → ∀ w, k.works.find? (fun w => w.id = id) = some w → workReady s c x w = true →
      (∀ u v fl, workPerform s c x w = (u, .done v fl) →
        exec (.interlockedComplete c x id) s = .next (modCtx u c x (landWork w v fl))) ∧
      (∀ u va, workPerform s c x w = (u, .poison va) →
        exec (.interlockedComplete c x id) s = .next (landPoison u c x w va))) ∧
    (core.owner = some x → blockAt s c k.part k.pc.toNat = none →
      (∀ u l, translate s c k.part k.task k.pc.toNat = (u, .inl l) → l.perm % 2 = 1 → isMmio l.frame = false →
        ∃ t, exec (.ifetchFill c x) s = .next t ∧ ∃ b, blockAt t c k.part k.pc.toNat = some b ∧
          b.part = k.part ∧ b.pa = leafPa l k.pc.toNat / 2 ^ 12 * 2 ^ 12) ∧
      (core.held = 0 → ∀ u code, translate s c k.part k.task k.pc.toNat = (u, .inr code) →
        exec (.ifetchFill c x) s = .next (takeFault u c x
          { code := code, va := k.pc.toNat, obj := 0xFF, pc := k.pc.toNat }))) ∧
    (k.status = .ending → ctxQuiet s c x = true → 40 ≤ c →
      ∃ t, exec (.contextFree c x) s = .next t ∧ mfind t.ctxs (c * 8 + x) = none ∧
        mget t.jobs (c - 40) [] = (mget s.jobs (c - 40) []).drop 1) ∧
    (k.status = .ending → ctxQuiet s c x = true → c < 40 → taskRuns (freeCtx s c x) k.task = true →
      exec (.contextFree c x) s = .next (dispatch (freeCtx s c x) (c / 4)))) ∧
  (∀ (s : State) (x : Nat) (ps : List Placed), Ready s x → Quiet s →
    let live := liveSlots s s.focus x s.focus ps
    let waits := waiting s s.focus x s.focus ps
    (∀ l : List (Placed × Effect), fetchBundle s s.focus x = .slots ps → waits = [] → entryBad s s.focus x s.focus ps = false →
      live = l.map (fun e => e.1) →
      (∀ e ∈ l, e.1.info.run (portOf s s.focus x s.focus e.1) s = .go e.2 ∧ e.2.act = id ∧ e.2.ctl = .none ∧
        e.2.trace = none ∧ e.2.turn = false ∧ e.2.guards = 0 ∧ (∀ w ∈ e.2.works, w.fault = none) ∧
        ∀ o ∈ e.2.outs, o.fault = none) →
      ∃ t, exec (.bundleIssue s.focus) s = .next t ∧ Bundled s x l t) ∧
    (∀ t, fetchBundle s s.focus x = .fault t → t.deferred = false → t.code ≠ codePoison → exec (.bundleIssue s.focus) s =
      .next (takeFault s s.focus x { t with pc := (issuer s x).pc.toNat })) ∧
    (fetchBundle s s.focus x = .slots ps → waits ≠ [] → (issuer s x).stall + 1 < 2 ^ 20 →
      ∃ t, exec (.bundleIssue s.focus) s = .next t ∧ Stalled s x t) ∧
    (fetchBundle s s.focus x = .slots ps → waits ≠ [] → (issuer s x).stall + 1 = 2 ^ 20 →
      ∃ u, Stalled s x u ∧ ∀ i ∈ [.bundleIssue s.focus, .watchdogExpiry s.focus x], exec i s = .next (takeFault u s.focus x {
        code := 0x41, mask := maskOf (waits.map fun p => p.pos).eraseDups, pc := (issuer s x).pc.toNat })))

/-! ### Events of the matrix arrays -/

/-- R154–R160, R162, R318, R319: the array moves to the context it serves next, parking an open chain; starts its next entry, an
MMA's exact products being added to the sums of its chain, which begin with the tile's words or with nothing; ends one, and an
MSTA's tile stands in the scratchpad, and every sum of a chain that is closed in its tile, rounded once, what the chain's
entries masked being left as it was; a write-back done sets the tile's sticky bits; and a step of the slew limiter runs filler
on idle arrays, so that the count of active ones falls by one at most. -/
def Obligations.MatrixEvents : Prop :=
  (∀ (s : State) (c x : Nat) (e : MEntry), startDue s c = some (x, e) →
    let core := getCore s c
    let key := fun (y : Nat) => (getCtx s c y).part * 8 + y
    (x ≠ core.array.serve → ∃ t, exec (.matrixEntryStart c) s = .next t ∧
      (getCore t c).array.serve = x ∧ (getCore t c).array.cur = core.array.cur ∧
      (getCore t c).array.busy = (if core.chains.any (fun ch => ch.ctx = key core.array.serve ∧ ¬ ch.parked) then 8 else 0) ∧
      (∀ ch ∈ (getCore t c).chains, ch.ctx = key core.array.serve → ch.parked = true) ∧
      (∀ y, getCtx t c y = getCtx s c y)) ∧
    (x = core.array.serve → ∃ t, exec (.matrixEntryStart c) s = .next t ∧
      getCtx t c x = { getCtx s c x with mq := (getCtx s c x).mq.drop 1 } ∧
      (getCore t c).array.cur = some e ∧ (getCore t c).array.done = 0 ∧
      (e.isMma = false → (getCore t c).array.left = if e.op = .mcommit then 0 else 8) ∧
      (e.isMma = true → (getCore t c).array.left =
        if (match chainOfEntry core (key x) e with | some ch => ch.parked | none => true) then max e.planes 8 else e.planes) ∧
      (∀ neg f, e.op = .mma neg → matFmt e.fmt = some f →
        (∀ d, chainOfEntry core (key x) e = some d → d.accs.length = 512) →
        let before := fun (i : Nat) => match chainOfEntry core (key x) e with
          | some d => nth d.accs i {}
          | none => startAcc f e.zero (mget core.tiles (e.tile * 512 + i) 0).toNat
        let sums := fun (i : Nat) => added f (before i) (products neg (aRow f core.scratch e.a (i / 16) (kExt f e.edge))
          ((upTo (kExt f e.edge)).map fun k => bElem f core.scratch e.b e.planes (i % 16) k))
        ∃ ch ∈ (getCore t c).chains, ch.ctx = key x ∧ ch.id = e.chain ∧ ch.accs.length = 512 ∧
          (chainOfEntry core (key x) e = none → ch.tile = e.tile ∧ ch.fmt = e.fmt) ∧
          (∀ d, chainOfEntry core (key x) e = some d → ch.tile = d.tile ∧ ch.fmt = d.fmt) ∧
          ∀ i, i < 512 → nth ch.accs i {} =
            if i / 16 < e.edge.rows ∧ i % 16 < e.edge.cols then { sums i with live := true } else before i))) ∧
  (∀ (s : State) (c : Nat) (e : MEntry), (getCore s c).array.cur = some e → (getCore s c).array.left = 0 →
    let chains := (getCore s c).chains
    let closed := fun (ch : Chain) => chainClosed (modCore s c fun k => { k with array := { k.array with cur := none } }) c ch = true
    ∃ t, exec (.matrixEntryEnd c) s = .next t ∧ (getCore t c).array.cur = none ∧
      (∀ ch ∈ (getCore t c).chains, ch ∈ chains ∧ ¬ closed ch) ∧
      ((∀ d ∈ chains, d.accs.length = 512) →
        (∀ ch ∈ chains, closed ch → (∀ d ∈ chains, closed d → d.tile = ch.tile → d = ch) → ∀ f, matFmt ch.fmt = some f →
          ∀ i, i < 512 → mget (getCore t c).tiles (ch.tile * 512 + i) 0 =
            if (nth ch.accs i {}).live then BitVec.ofNat 32 (sumWord f (nth ch.accs i {}))
            else mget (getCore s c).tiles (ch.tile * 512 + i) 0) ∧
        ∀ n, (∀ d ∈ chains, closed d → d.tile ≠ n / 512) → mget (getCore t c).tiles n 0 = mget (getCore s c).tiles n 0) ∧
      (getCore t c).guard = (getCore s c).guard.filter (fun g => g.seq ≠ e.seq) ∧
      (e.op = .msta → ∀ b, (mget (getCore t c).scratch b 0).toNat =
        if e.a ≤ b ∧ b < e.a + 2048 then ofElems 32 (tileList (getCore s c).tiles e.tile) / 256 ^ (b - e.a) % 256
        else (mget (getCore s c).scratch b 0).toNat)) ∧
  (∀ (s : State) (c : Nat), ∃ t, exec (.chainWritebackDone c) s = .next t ∧
    (getCore t c).writes = (getCore s c).writes.filter (fun w => w.rows < 32) ∧
    (∀ i, i ∈ (getCore t c).tof ↔ i ∈ (getCore s c).tof ∨ ∃ w ∈ (getCore s c).writes, 32 ≤ w.rows ∧ w.tof = true ∧ w.tile = i) ∧
    (∀ i, i ∈ (getCore t c).tnv ↔ i ∈ (getCore s c).tnv ∨ ∃ w ∈ (getCore s c).writes, 32 ≤ w.rows ∧ w.tnv = true ∧ w.tile = i)) ∧
  (∀ (s : State) (i : Nat), slewDue s i = true → (getIsland s i).active ≤ 4 → (∀ c ∈ coresOf i, coreStill s c = false) →
    let busy := (coresOf i).filter (fun c => planeBusy (getCore s c))
    let idle := (coresOf i).filter (fun c => planeBusy (getCore s c) = false)
    let fill := idle.take ((getIsland s i).active - 1 - busy.length)
    ∃ t, exec (.slewStepBoundary i) s = .next t ∧
      (∀ c ∈ idle, (getCore t c).array.filler = fill.contains c) ∧
      (∀ c ∈ coresOf i, (getCore t c).cycle < (getIsland t i).slewAt) ∧
      (getIsland s i).active ≤ (getIsland t i).active + 1)

/-! ### Events of translation and memory -/

/-- R186, R362: a walk's leaf or fault lands in the handle that waits for it, but for a shutter its core has yet to acknowledge;
a revoked handle that an access waits at translates anew, its context leaving the queue of a hatch in the frame it names no more. -/
def Obligations.HandleEvents : Prop :=
  ∀ (s : State) (c x h : Nat),
    let k := getCtx s c x
    let hd := readH k h
    let lands := fun (u : State) (n : Handle) => modCtx u c x fun k => { k with h := mset k.h h n }
    (hd.pending = true → shutPends s k.part c = false → ∀ u l, walk s k.part k.task hd.va.toNat = (u, .inl l) →
      exec (.translationWalkComplete c x h) s =
        .next (lands (tlbFill u c k.part l) (leafHandle (tlbFill u c k.part l) k.part l hd.va.toNat hd.bind.toNat hd.gen))) ∧
    (hd.pending = true → shutPends s k.part c = false → ∀ u code, walk s k.part k.task hd.va.toNat = (u, .inr code) →
      exec (.translationWalkComplete c x h) s = .next (lands u (handleFault code hd.va.toNat hd.bind.toNat hd.gen))) ∧
    (isRevoked hd = true → hd.sought = true → k.stall ≠ 0 → ∀ u l, translate s c k.part k.task hd.va.toNat = (u, .inl l) →
      (2 ^ 12 ≤ hd.bind.toNat → l.wel = true) →
      let new := handleOf l hd.va.toNat hd.bind.toNat hd.gen
      exec (.handleRetranslate c x h) s = .next (lands (leaveFrame u c x hd new) new)) ∧
    (isRevoked hd = true → hd.sought = true → k.stall ≠ 0 → ∀ u l, translate s c k.part k.task hd.va.toNat = (u, .inl l) →
      2 ^ 12 ≤ hd.bind.toNat → l.wel = false →
      let new := handleFault codePerm hd.va.toNat hd.bind.toNat hd.gen
      exec (.handleRetranslate c x h) s = .next (lands (leaveFrame u c x hd new) new)) ∧
    (isRevoked hd = true → hd.sought = true → k.stall ≠ 0 → ∀ u code, translate s c k.part k.task hd.va.toNat = (u, .inr code) →
      exec (.handleRetranslate c x h) s = .next (lands u (handleFault code hd.va.toNat hd.bind.toNat hd.gen)))

/-- R4, R13, R189, R190, R224, R227, R229, R365, R392: a store that is performed at its slice changes the bytes under its mask and
no other, whether it comes from the queue, a line cache, a cluster unit or, through the HDM decoder, the host; a replica
acknowledges; a host access to a domain's frame is refused and counted, a store dropped and a load answered with all ones. -/
def Obligations.MemoryEvents : Prop :=
  let byte := fun (s : State) (b : Nat) => (mget s.mem b 0).toNat
  let wrote := fun (s t : State) (pa n v mask : Nat) =>
    ∀ b, byte t b = if pa ≤ b ∧ b < pa + n ∧ bitOf mask (b - pa) = true then v / 256 ^ (b - pa) % 256 else byte s b
  (∀ (s : State) (id : Nat) (w : SliceStore), s.stores.find? (fun w => w.id = id) = some w → w.acks = [] →
    (∀ u ∈ s.stores.takeWhile (fun u => u.id ≠ id), u.pa / 128 ≠ w.pa / 128 ∧ (w.agent.inOrder = true → u.agent ≠ w.agent)) →
    ∃ t, exec (.sliceStorePerform id) s = .next t ∧ wrote s t w.pa w.n w.val w.mask ∧
      (w.bad = true → w.pa / 128 ∈ t.badLines) ∧
      t.stores = s.stores.filter fun u => u.id ≠ id) ∧
  (∀ (s : State) (id q : Nat) (w : SliceStore), s.stores.find? (fun w => w.id = id) = some w → w.acks.contains q = true →
    (∃ r ∈ w.acks, r ≠ q) → ∃ t, exec (.replicaInvalidateAck id q) s = .next t ∧
      t.replicas = s.replicas.filter (fun r => r ≠ (q, w.pa / 2 ^ 17)) ∧
      t.stores = s.stores.map (fun u => if u.pa / 2 ^ 17 = w.pa / 2 ^ 17 then { u with acks := u.acks.filter (· ≠ q) } else u) ∧
      t.mem = s.mem) ∧
  (∀ (s : State) (c l : Nat), ∃ t, exec (.lineCacheEvict c l) s = .next t ∧ (getCore t c).lines = mdel (getCore t c).lines l ∧
    (∀ v, mfind (getCore s c).lines l = some v → storeHeld s (.cache c) (l * 128) = false → cluFind s (clusterOf c) l = none →
      wrote s t (l * 128) 128 v.val.toNat v.dirty.toNat ∧ (v.poison = true → v.dirty ≠ 0 → l ∈ t.badLines)) ∧
    (mfind (getCore s c).lines l = none → t.mem = s.mem)) ∧
  (∀ (s : State) (q l : Nat) (e : CluLine), cluFind s q l = some e → storeHeld s .unit (l * 128) = false →
    ∃ t, exec (.cluAtomicWriteback q l) s = .next t ∧ wrote s t (l * 128) 128 e.val e.mask ∧ cluFind t q l = none) ∧
  (∀ (s : State) (pa : Nat) (bs : List Byte), pa < 2 ^ 37 → hostReaches s = true → pa % 128 + bs.length ≤ 128 → bs ≠ [] →
    let ha := s.control.hdmbase + pa
    (frameOwner s pa = 0 → storeHeld s .host pa = false → ∀ bad, ∃ t, exec (.hostStore ha bs bad) s = .next t ∧
      (bad = true → pa / 128 ∈ t.badLines) ∧
      ∀ b, byte t b = if pa ≤ b ∧ b < pa + bs.length then (nth bs (b - pa) 0).toNat else byte s b) ∧
    (frameOwner s pa ≠ 0 → ∀ bad, exec (.hostStore ha bs bad) s = .next (countRefused s (frameOwner s pa)))) ∧
  (∀ (s : State) (pa n : Nat), pa < 2 ^ 37 → hostReaches s = true → pa % 128 + n ≤ 128 → n ≠ 0 →
    let ha := s.control.hdmbase + pa
    (frameOwner s pa = 0 → ∃ t, exec (.hostLoad ha n) s = .next t ∧ t.mem = s.mem ∧ t.parts = s.parts ∧
      t.control = { s.control with hostRead := readNat s.mem pa n, hostBad := t.badLines.contains (pa / 128) }) ∧
    (frameOwner s pa ≠ 0 → ∃ t, exec (.hostLoad ha n) s = .next t ∧ t = { countRefused s (frameOwner s pa) with
      control := { s.control with hostRead := 2 ^ (8 * n) - 1, hostBad := false } }))

/-- R257, R258, R269, R273–R275: a held task takes the next slot of its ring once that is free, and its address goes to its
region's queue; one placed is offered for dispatch when its window has passed; a store held out at the window unit is accepted; a
commit writes every byte it keeps to memory, over what its core's line cache held of those lines, and no other, and answers, or
answers −2 and writes nothing where a kept position's parent is not kept; a window closes, and every handle bound to it is
empty. -/
def Obligations.PeepholeAndWindowEvents : Prop :=
  (∀ (s : State) (e : Nat) (p : Peep) (t : PeepTask), mfind s.peeps e = some p → p.pend = some t → t.slot = none →
    let at_ := p.ring + 64 * p.next
    let st := readNat s.mem (at_ + 8) 8 / 2 ^ 40 % 16
    let r := sliceRead s (forPart p.part) p.crt 48
    let u := sliceStore r.1 .unit 0 at_ 64 (r.2 + (peepArgs e t).1 * 2 ^ 384 + (peepArgs e t).2 * 2 ^ 448) (ones 64)
    let qn := (getRegion s (regionKey p.part p.region)).tq
    (st ≠ 0 ∧ st ≠ 4 → exec (.peepholeHeldPlace e) s = .next s) ∧
    (st = 0 ∨ st = 4 → (∃ r, mfind s.queues qn = some r ∧ r.items.length < r.cap) → ∀ q, mfind u.peeps e = some q →
      exec (.peepholeHeldPlace e) s = .next (peepOffer (queuePush { u with
        peeps := mset u.peeps e { q with
          next := (q.next + 1) % 2 ^ q.ringl, pend := q.pend.map fun t => { t with slot := some q.next } } } qn
        (q.ringVa + 64 * q.next)).1 e))) ∧
  (∀ (s : State) (e : Nat) (p : Peep) (t : PeepTask), e < 256 → mfind s.peeps e = some p → p.pend = some t →
    t.slot.isSome = true → t.offered = false → t.first + p.cwin * 64 ≤ timeNs s →
    let u := peepOffer s e
    exec (.coalesceWindowExpiry e) s = .next ((offeredNow s u).foldl dispatchRegion u) ∧
    mfind u.peeps e = some { p with pend := some { t with offered := true } } ∧ u = { s with peeps := u.peeps }) ∧
  (∀ (s : State) (c x i : Nat), (getCtx s c x).wreq = true →
    exec (.windowStoreAccept c x i) s = .next (modCtx s c x fun k => { k with wreq := false, wack := true })) ∧
  (∀ (s : State) (c x id w mask : Nat) (v : Work), (getCtx s c x).works.find? (fun v => v.id = id) = some v →
    v.kind = .unit (.wcommit w mask) → commitWaits s c x id w = false →
    let r := commitWindow s c (getCtx s c x).task w mask
    exec (.windowCommitPoint c x id) s = .next (modCtx r.1 c x fun k => { k with works := k.works.map fun u =>
      if u.id = id then { u with kind := .value (BitVec.ofNat 1024 (r.2 % 2 ^ 64).toNat) 0 } else u }) ∧
    ((∃ p, p < 64 ∧ bitOf mask p = true ∧ parentOf (getWindow s w) p < 64 ∧ bitOf mask (parentOf (getWindow s w) p) = false) →
      r = (s, -2)) ∧
    ((∀ p, p < 64 → bitOf mask p = true → parentOf (getWindow s w) p < 64 → bitOf mask (parentOf (getWindow s w) p) = true) →
      r.2 = countIf (bitOf mask) (upTo 64) ∧ (getWindow r.1 w).overlay = [] ∧ (getWindow r.1 w).parents = [] ∧
      (s.cluLines = [] →
        let win := getWindow s w
        let keep := (upTo 64).filter (bitOf mask)
        let chain := match deepest win keep with | some d => chainOf win d 64 | none => []
        let kept := fun (l i : Nat) => if l ∈ overlayLines win then commitByte win keep chain l i else none
        ∀ b, (mget r.1.mem b 0).toNat =
          match kept (b / 128) (b % 128) with
          | some v => v
          | none => if (upTo 128).any (fun i => (kept (b / 128) i).isSome) then backed s c b (mget s.mem b 0).toNat
            else (mget s.mem b 0).toNat))) ∧
  (∀ (s : State) (w : Nat), (getWindow s w).opened = true → (getWindow s w).closing = true →
    (∀ e ∈ s.ctxs, e.2.part = (getWindow s w).part → e.2.works = []) →
    (∀ c ∈ s.cores, ∀ sh, c.2.shadow = some sh → ∀ e ∈ sh.ctxs, e.2.part = (getWindow s w).part → e.2.works = []) →
    ∃ t, exec (.windowCloseComplete w) s = .next t ∧ getWindow t w = { count := (getWindow s w).count } ∧
      (∀ e ∈ t.ctxs, e.2.part = (getWindow s w).part → ∀ h ∈ e.2.h, boundTo w h.2 = false) ∧ t.mem = s.mem)

/-! ### Events of synchronisation and the engines -/

/-- R52, R172, R244, R245, R300, R304, R337, R382: a waiting context whose condition holds is ready again; a DLBAR's answer is
kept for its bundle; a queue or hatch serves the request that stands first. -/
def Obligations.WaitEvents : Prop :=
  ∀ (s : State) (c x : Nat), (getCtx s c x).gang = false → (getCtx s c x).status = .waiting →
    let k := getCtx s c x
    let wakes := modCtx s c x fun k => { k with status := .ready }
    let answers := fun (pl : Place) (r : Bool) => modCtx s c x fun k => { k with status := .ready, wait := some (.dlbarDone pl r) }
    let noHold := ∀ e n, Hold.tlwait e n ∉ k.hold
    (∀ n, k.wait = some (.mwaitb n) → openBatches (getCore s c) k x ≤ n → exec (.mwaitbSatisfied c x) s = .next wakes) ∧
    (∀ n, k.wait = some (.mwaitbId n) → batchDone (getCore s c) k x n = true → exec (.mwaitbSatisfied c x) s = .next wakes) ∧
    (∀ m, k.wait = some (.tagw m) → (getCore s c).tags &&& BitVec.ofNat 64 m = BitVec.ofNat 64 m →
      exec (.tagwSatisfied c x) s = .next wakes) ∧
    (∀ b phase r, k.wait = some (.barw b phase) → barrierOf s c k b = some r → r.phase ≠ phase →
      exec (.barwRelease c x) s = .next wakes) ∧
    (∀ e n, k.wait = some (.tlwait e n) → noHold → n ≤ (getEngine s (engineKey (islandOf c) k.part e)).counter →
      exec (.tlwaitComplete c x) s = .next wakes) ∧
    (∀ t, k.wait = some (.idle t) → t ≤ timeNs s → exec (.idleExpiry c x) s = .next wakes) ∧
    (∀ pl expect deadline, k.wait = some (.dlbar pl expect deadline) →
      (expect ≤ readNat s.mem pl.pa 8 → timeNs s ≤ deadline → exec (.dlbarReady c x) s = .next (answers pl true)) ∧
      (deadline < timeNs s → exec (.dlbarTimeout c x) s = .next (answers pl false))) ∧
    (∀ n q l, k.wait = some (.qpop n) → mfind s.queues n = some q → q.waiters = (c, x) :: l → q.items ≠ [] →
      exec (.qpopGrant n) s = .next wakes) ∧
    (∀ pl excl l, k.wait = some (.hacq pl excl) → s.hatchq.filter (fun r => r.1 = pl.pa) = (pl.pa, c, x, k.part) :: l →
      hatchHolds s pl.pa = [] → (readHatch s pl.pa).grants excl = true → exec (.hacqGrant pl.pa) s = .next wakes)

/-- R189, R218, R222, R245: a fence does its work and ends: the release and the acquire write every dirty byte of the line cache
back, so that where nothing holds a store back it stands in memory and no other byte has changed; the acquire leaves no line in
the cache; and a release some of whose writes are still on their way waits; a granted acquisition, and a timeline wait that has
passed, bring the line cache up to date and end. -/
def Obligations.HoldEvents : Prop :=
  ∀ (s : State) (c x : Nat),
    let k := getCtx s c x
    let ends := fun (u : State) (h : Hold) => modCtx u c x fun k => { k with hold := k.hold.erase h }
    (∀ kind sc l, k.hold = .fence kind sc :: l → k.works = [] →
      (kind = 1 → exec (.fenceComplete c x) s = .next (ends (acquireWork s c sc) (.fence kind sc))) ∧
      (kind ≠ 1 → (releaseWork s c x sc).2 = true → exec (.fenceComplete c x) s =
        .next (ends (if kind = 0 then (releaseWork s c x sc).1 else acquireWork (releaseWork s c x sc).1 c sc)
          (.fence kind sc))) ∧
      (kind ≠ 1 → (releaseWork s c x sc).2 = false → exec (.fenceComplete c x) s = .next (releaseWork s c x sc).1) ∧
      (sc ≠ .core → NothingOut s → WroteBack s (releaseWork s c x sc).1 [c] ∧ WroteBack s (acquireWork s c sc) [c] ∧
        (releaseWork s c x sc).2 = true) ∧
      (sc ≠ .core → ∀ l, l < 2 ^ 41 → mfind (getCore (acquireWork s c sc) c).lines l = none) ∧
      (sc ≠ .core → storesOut s c x = false → ∀ l ln, l < 2 ^ 41 →
        mfind (getCore (releaseWork s c x sc).1 c).lines l = some ln → ln.dirty = 0)) ∧
    (∀ e n l, k.hold = .tlwait e n :: l →
      exec (.tlwaitComplete c x) s = .next (ends (timelineAcquire s c x e n) (.tlwait e n))) ∧
    (∀ pl excl l, x < 8 → k.hold = .hatch pl excl :: l → hatchHolds s pl.pa = [(c * 8 + x, .hatch pl excl)] →
      (∀ r ∈ (ends (hacqFinish s c x pl) (.hatch pl excl)).hatchq, r.1 ≠ pl.pa) →
      exec (.hacqGrant pl.pa) s = .next (ends (hacqFinish s c x pl) (.hatch pl excl)))

/-- R232, R237–R239, R242, R244, R246, R249, R355: an engine starts the first operation of a context, an MVX once every MVU that has
rows of it has taken up its part, for which its partition has the turn there and pays, and completes it: the bytes of a CPY are
its source's elements, as they are, converted or in the planes of a transpose, those of an MVX the words of y for its rows, the
publish word follows, and nothing else is written; the counter shows its number, its status bits are gathered, it is gone from
the queue, and a CPY's tag is counted down and set at 0. One whose writes are held at a slice completes once they are performed.
The turns, and what they cost, are the model's choice (log entry 73). -/
def Obligations.EngineEvents : Prop :=
  ∀ (s : State) (q part e : Nat) (op : EngineOp) (l : List EngineOp),
    let key := engineKey q part e
    (getEngine s key).ops = op :: l →
    let starts := fun (u : State) => modEngine u key fun g => { g with ops := { op with started := true } :: l }
    (op.mvx = false ∨ op.started = true → exec (.engineOpStart q part e) s = .next (starts s)) ∧
    (∀ i, i < 32 → op.needs i = true →
      let left := mget (mvuTurns s i) (turnKey op.part i) 0
      let pays : State := { s with mvuCredit := mset (mvuTurns s i) (turnKey op.part i) (left - op.busyTime i) }
      let begun := { op with begun := op.begun + 2 ^ i }
      (left ≤ 0 → mvuBegin key s i = s) ∧
      (0 < left → mvuBegin key s i = modEngine pays key fun g => { g with ops := begun :: l }) ∧
      (0 < left → (∀ j, j < 32 → op.needs j = true → j = i) → exec (.engineOpStart q part e) s =
        .next (modEngine pays key fun g => { g with ops := { begun with started := true } :: l })) ∧
      ((∀ j, j < 32 → op.needs j = true → mget (mvuTurns s j) (turnKey op.part j) 0 ≤ 0) →
        exec (.engineOpStart q part e) s = .next s)) ∧
    (op.started = true → op.late = none → s.replicas = [] → s.stores = [] → ∀ w, engineWork s op = some w →
      ∃ t, exec (.engineOpComplete q part e) s = .next t ∧
        (∀ d, op.mvx = false → readCpy op.desc = some d →
          let dst := reachOf op d.dst 1
          EngineWrote s t dst (cpyPieces s d (reachOf op d.src 0) dst) op.n
            (d.pub.map fun p => handlePa (nth op.handles 2 {}) p.2)) ∧
        (∀ d f, op.mvx = true → readMvx op.desc (fun _ => (nth op.handles 1 {}).va.toNat) = some d → matFmt d.fmt = some f →
          let y := reachOf op d.y 1
          EngineWrote s t y (mvxPieces s d f { lvl := 3, core := op.core, org := handlePa (nth op.handles 3 {}) 0, nib := false }
            (reachOf op d.x 0) y) op.n (d.pub.map fun p => handlePa (nth op.handles 2 {}) p.2)) ∧
        (getEngine t key).counter = op.n ∧ (getEngine t key).status = (getEngine s key).status ||| w.status ∧
        (getEngine t key).ops = l ∧ (getEngine t key).accepted = (getEngine s key).accepted) ∧
    (∀ feet, op.started = true → op.late = some (none, none, feet) → engineOut s (.engine q part e) = false →
      exec (.engineOpComplete q part e) s = .next (modEngine s key fun g => { g with
        counter := op.n, ops := l, done := (g.done ++ [(op.n, feet)]).drop (g.done.length + 1 - 64) })) ∧
    (∀ t, (getCore s op.core).shadow = none →
      let n := mget (getCore s op.core).counts t 0 - 1
      (getCore (tagArrive s op t) op.core).counts = mset (getCore s op.core).counts t n ∧
      (getCore (tagArrive s op t) op.core).tags =
        if n = 0 then (getCore s op.core).tags ||| BitVec.twoPow 64 t else (getCore s op.core).tags)

/-! ### Events of energy and dispatch -/

/-- R29, R305–R310, R312, R316, R317, R320: at a steep boundary the limits and class costs written take effect, the allowance and
credit are those of R306 for the energy counted in the steep, peephole counts restart, and every island has its part of the
boundary, with its grant of what the allowance leaves after what overhead and idle islands have spent; a grant enters a balance
under the carry-over cap. A reduction that is due, or that every context has acknowledged, lowers the clock and marks the
contexts, those in shadow stores too, no cycle being lost; a droop begins an episode, unless one runs or the last droop persists
within 16 unstretched cycles, and its end ends it; an idle island is gated, its line caches written back, so that where nothing
holds a store back their dirty bytes stand in memory and no other byte has changed, and empty; one with new work is powered up with
its counters at 0. When a boundary may come, and what gating loses, are the model's choice (log entries 16, 47, 101). -/
def Obligations.EnergyEvents : Prop :=
  (∀ (s : State), nextBoundary s ≤ s.time ∨ (∀ c ∈ trailing s, nextBoundary s ≤ (getCore s c).tnext) →
    inLimits s (max s.time (nextBoundary s)) = true →
    let start := replaceLines { s with time := max s.time (nextBoundary s) }
    let running := (start.tasks.filter fun e => e.2.state = .running).map fun e => e.1
    let m := (upTo 10).foldl meterIsland (running.foldl meterTask start)
    let own := (Config.sensor m.free).toNat
    let used : Int := m.gov.energy + own + lpddrNj m.gov.moved
    let spent := m.gov.overhead + own + lpddrNj m.gov.lines +
      nsum (((upTo 10).filter fun i => islandActive m i = false).map fun i => islandSpent (getIsland m i))
    s.gov.energy ≤ m.gov.energy ∧ s.gov.moved ≤ m.gov.moved ∧ m.ctxs = s.ctxs ∧ m.cores = s.cores ∧ m.mem = s.mem ∧
    m.regions = s.regions ∧ m.time = max s.time (nextBoundary s) ∧
    ∃ u : State,
      let active := (upTo 10).filter (islandActive m)
      let gs := grants u active (u.gov.allowance - (spent + 3124) / 3125)
      let cause := u.gov.allowance < s.gov.allowance || (u.gov.therm % 2 ^ 16 ≠ 0 && u.gov.credit = 0)
      let tail := settle ((upTo 10).foldl (islandBoundary gs active cause) u) 64
      exec .steepBoundary s = .next (((tail.regions.filter fun e => e.2.dirty).map fun e => e.1).foldl writeRcb tail) ∧
      u.gov.energy = 0 ∧ u.gov.moved = 0 ∧ u.gov.overhead = 0 ∧ u.gov.lines = 0 ∧
      u.gov.boundaryNs = s.gov.boundaryNs + 50000 ∧ u.gov.steeps = s.gov.steeps + 1 ∧
      u.gov.pwrlim = s.gov.pwrlimNew ∧ u.gov.therm = s.gov.thermNew ∧
      (u.gov.allowance, u.gov.credit, u.gov.burst) =
        allowanceOf { s.gov with pwrlim := s.gov.pwrlimNew, therm := s.gov.thermNew } used ∧
      u = { m with
        free := m.free + 1
        gov := u.gov
        parts := s.parts.map (fun e => (e.1, { e.2 with costs := e.2.costsNew.getD e.2.costs, costsNew := none }))
        peeps := s.peeps.map (fun e => (e.1, { e.2 with steepn := 0 })) }) ∧
  (∀ (s : State) (i g : Nat),
    let isl := getIsland s i
    let gc := if g = 0 then isl.lastGrant else g
    let b := min (isl.balance + 3125 * g) (2 * 3125 * gc)
    getIsland (addGrant s i g) i = { isl with
      grant := g, lastGrant := gc, balance := b,
      capLow := if b < 0 ∧ b ≤ -(3125 * gc) then true else if 0 ≤ b then false else isl.capLow }) ∧
  (∀ (s : State) (i : Nat) (r : Reduction), (getIsland s i).reduce = some r →
    let u := if (s.ctxs.any fun e => e.1 / 32 = i && e.2.throt.getLsbD 0) = true then reachTime s (r.due * unitsPerNs) else s
    r.due ≤ timeNs u ∨ (s.ctxs.any fun e => e.1 / 32 = i && e.2.throt.getLsbD 0) = false →
    let low := fun (k : Ctx) => { k with throt := (k.throt ||| 2) &&& ~~~ (1 : BitVec 64) }
    let away := fun (sh : Shadow) => { sh with ctxs := sh.ctxs.map fun e => (e.1, low e.2) }
    ∃ t, exec (.clockReduction i) s = .next t ∧
      getIsland t i = { getIsland s i with clk := min (getIsland s i).clk r.fnew, reduce := none } ∧
      t.ctxs = s.ctxs.map (fun e => if e.1 / 32 = i then (e.1, low e.2) else e) ∧
      (∀ c, getCore t c = if c / 4 = i then { getCore (syncIsland u i) c with shadow := (getCore s c).shadow.map away }
        else getCore (syncIsland u i) c) ∧
      (∀ c, (getCore s c).cycle ≤ (getCore t c).cycle) ∧
      t = { s with islands := t.islands, ctxs := t.ctxs, cores := t.cores, time := u.time }) ∧
  (∀ (s : State) (i : Nat), (getIsland s i).episode = 0 → ((getIsland s i).persist = true → 16 ≤ (getIsland s i).gap) →
    let many := decide (8 < (getIsland s i).episodes + 1)
    let u := modIsland (syncIsland s i) i fun isl => { isl with
      episode := 64, gap := 0, persist := true, episodes := isl.episodes + 1
      droopCap := if many then 1 else isl.droopCap }
    exec (.droopDetect i) s = .next (if many then governorChoice u true i else u)) ∧
  (∀ (s : State) (i : Nat), (getIsland s i).episode ≠ 0 ∨ ((getIsland s i).persist = true ∧ (getIsland s i).gap < 16) →
    exec (.droopDetect i) s = .next s) ∧
  (∀ (s : State) (i : Nat), exec (.stretchEpisodeEnd i) s =
    .next (modIsland (syncIsland s i) i fun isl => { isl with episode := 0, persist := false })) ∧
  (∀ (s : State) (i : Nat), (getIsland s i).gated = false → islandActive s i = false → gateAfter s.gov ≤ (getIsland s i).idle →
    ∃ t, exec (.islandPowerGate i) s = .next t ∧
      getIsland t i = { getIsland s i with gated := true, lines := (getIsland t i).lines } ∧
      (NothingOut s → WroteBack s t (coresOf i)) ∧
      (∀ c ∈ coresOf i, (getCore t c).tlb = [] ∧ ∀ l, l < 2 ^ 41 → mfind (getCore t c).lines l = none) ∧ ∀ c, (getCore t c).scratch = (getCore s c).scratch) ∧
  (∀ (s : State) (i : Nat), (getIsland s i).gated = true → islandActive s i = true →
    ∃ u, exec (.islandUngate i) s = .next (dispatch u i) ∧
      getIsland u i = { getIsland s i with gated := false, idle := 0, slewAt := 0 } ∧
      (∀ c ∈ coresOf i, getCore u c = { getCore s c with
        cycle := 0, tnext := max (getCore s c).tnext s.time, tags := 0, counts := []
        array := { (getCore s c).array with planeEnd := 0 } })) ∧
  (∀ (s : State) (v : Nat), exec (.pwrlimWrite v) s = .next (if v / 2 ^ 18 % 4 = 3 then s else
    { s with gov := { s.gov with pwrlimNew := v / 2 ^ 18 % 4 * 2 ^ 18 + v % 2 ^ 16 } }))

/-- R285, R333, R377, R378: the oldest entry of a TASK queue makes a task, queued and counted in LIVE, at the tail of its
region's ready list, or is discarded where its address is misaligned, does not translate or is outside LPDDR-6, its region does
not exist, or no island is left to it; in a cancelled region the task retires at once, when its release is done. A sampler
core starts the job its queue holds first, after an acquire; after a fault that is reported it restarts: hatch holdings ended,
what is in hand done, the line cache written back, so that where nothing holds a store back its dirty bytes stand in memory and
no other byte has changed, and empty, the context gone and its job with it. A swap freezes every outgoing context that could run,
where it is to wait for its partition, or by a fault at its bundle, which wins; its exchange makes the incoming partition the
island's. -/
def Obligations.DispatchEvents : Prop :=
  (∀ (s : State) (n va : Nat) (q : Queue) (rest : List Nat) (p : Part), mfind s.queues n = some q → q.task = true →
    q.items = va :: rest → mfind s.parts q.part = some p → p.stopped = false → readyCount s q.part < 65536 →
    pushedFault s q.part va = none →
    let u := { s with queues := mset s.queues n { q with items := rest } }
    let drops := fun (w : State) =>
      discardEvent (match peepAt u q.part va with | some e => peepClear w e.1 | none => w) q.part n va
    (va % 64 ≠ 0 → exec (.taskQueuePop n) s = .next (drops u)) ∧
    (va % 64 = 0 → ∀ v f, walk u q.part (forPart q.part) va = (v, .inr f) → exec (.taskQueuePop n) s = .next (drops v)) ∧
    (va % 64 = 0 → ∀ v l, walk u q.part (forPart q.part) va = (v, .inl l) → 2 ^ 37 ≤ leafPa l va →
      exec (.taskQueuePop n) s = .next (drops v)) ∧
    (va % 64 = 0 → ∀ v l, walk u q.part (forPart q.part) va = (v, .inl l) → leafPa l va < 2 ^ 37 →
      let cr := elems 64 (sliceRead v (forPart q.part) (leafPa l va) 64).2 8
      let w := (sliceRead v (forPart q.part) (leafPa l va) 64).1
      let rk := regionKey q.part (wordAt cr 1 % 2 ^ 12)
      let t := newTask rk va (leafPa l va) cr
      let a := addTask w rk { t with peep := (peepAt u q.part va).map fun e => e.1, queue := n }
      (mfind w.regions rk = none → exec (.taskQueuePop n) s = .next (drops w)) ∧
      (∀ r, mfind w.regions rk = some r → taskIslands w t = 0 → exec (.taskQueuePop n) s = .next (drops w)) ∧
      (∀ r, mfind w.regions rk = some r → taskIslands w t ≠ 0 → r.cancel = false →
        exec (.taskQueuePop n) s = .next (dispatchRegion a.1 rk)) ∧
      (∀ r, mfind w.regions rk = some r → taskIslands w t ≠ 0 → r.cancel = true →
        let sent := releaseCores s (coresRan s t)
        exec (.taskQueuePop n) s =
          .next (if writesOut sent (coresRan s t) = true then sent else settle (retireTask a.1 a.2) 64)) ∧
      (∀ r, mfind w.regions rk = some r → mfind a.1.regions rk =
          some { r with live := r.live + 1, ready := r.ready ++ [w.seq + 1], dirty := true } ∧
        ∃ k, mfind a.1.tasks (w.seq + 1) = some k ∧ k.region = rk ∧ k.crVa = va ∧ k.crPa = leafPa l va ∧ k.state = .queued ∧ k.queue = n))) ∧
  (∀ (s : State) (n : Nat) (j : Job) (l : List Job) (p : Part), mget s.jobs n [] = j :: l → mfind s.ctxs ((40 + n) * 8) = none →
    (getCore s (40 + n)).fenced = false → mfind s.parts j.part = some p → p.stopped = false →
    let c := 40 + n
    let cr := match mfind s.tasks j.task with | some t => t.crPa | none => 0
    let k := { freshCtx s c 0 j.part j.region j.task cr 0 [j.logits, j.slot, j.param] 0 with cr := cr }
    let u := acquireWork (putCtx s c 0 k) c .dev
    (∀ v pc, readParam u c j = (v, .inl pc) → exec (.samplerJobStart n) s =
      .next (modCtx v c 0 fun k => { k with pc := BitVec.ofNat 57 (pc / 16 * 16) })) ∧
    (∀ v code, readParam u c j = (v, .inr code) → exec (.samplerJobStart n) s =
      .next (takeFault v c 0 { code := code, va := j.param % 2 ^ 57, obj := 255 }))) ∧
  (∀ (s : State) (n : Nat), (mfind s.ctxs ((40 + n) * 8)).isSome → (getCtx s (40 + n) 0).status = .frozen →
    (∀ it ∈ s.faults, it.core = some (40 + n) → ∃ pa id, it.stage = .reported pa id) →
    let c := 40 + n
    let u := endHoldings (modCtx s c 0 (emptyHandles fun _ => true)) (getCtx s c 0).task [c]
    let inHand := u.2 = false ∨ (getCtx u.1 c 0).works ≠ [] ∨ storesOut u.1 c 0 = true
    (inHand → exec (.samplerRestart n) s = .next u.1) ∧
    (¬ inHand → cacheOut (flushAll u.1 c) c 0 (2 ^ 48) = true → exec (.samplerRestart n) s = .next (flushAll u.1 c)) ∧
    (¬ inHand → cacheOut (flushAll u.1 c) c 0 (2 ^ 48) = false → ∃ t, exec (.samplerRestart n) s = .next t ∧
      mfind t.ctxs (c * 8) = none ∧ mget t.jobs n [] = (mget s.jobs n []).drop 1 ∧ (getCore t c).owner = none ∧
      (NothingOut u.1 → WroteBack u.1 t [c]) ∧
      ∀ l, l < 2 ^ 41 → mfind (getCore t c).lines l = none)) ∧
  (∀ (s : State) (i out part : Nat) (p q : Part), (getIsland s i).cur = some out → mfind s.parts part = some p →
    mfind s.parts out = some q → out ≠ part → bitOf p.islands i = true → p.slice ≠ 0 → q.slice ≠ 0 → mfind s.swaps i = none →
    (getIsland s i).gated = false → ∃ t, exec (.swapOrder i part) s = .next t ∧
      mfind t.swaps i = some { outgoing := out, incoming := part } ∧
      ∀ c ∈ coresOf i, ∀ x, x < 8 → (getCtx s c x).part = out → (getCtx s c x).status = .ready ∨ (getCtx s c x).status = .waiting →
        (∀ d ∈ coresOf i, (getCtx s d x).gang = (getCtx s c x).gang) →
        ((getCtx t c x).status = .swapped ∨ (getCtx t c x).status = .frozen) ∧ (getCtx t c x).wait = none ∧
        (getCtx t c x).flights = [] ∧ (getCore t c).owner ≠ some x ∧
        ((getCtx s c x).gang = false → (getCore s c).owner ≠ some x → (getCtx t c x).status = .swapped ∧
          (getCtx t c x).snap = (getCtx s c x).snap ++ (getCtx s c x).flights)) ∧
  (∀ (s : State) (i : Nat) (w : Swap), mfind s.swaps i = some w → (coresOf i).all (drained s) = true →
    ∃ u, exec (.swapExchange i) s = .next (dispatch u i) ∧ (getIsland u i).cur = some w.incoming ∧ mfind u.swaps i = none ∧
      ∀ c ∈ coresOf i, ∀ sh, (getCore u c).shadow = some sh → sh.part = w.outgoing)

/-! ### Isolation, recovery, bring-up and debug -/

/-- R184, R360–R362: a shutter that finds none in progress drops the partition's matching translations and code blocks and
revokes its matching handles, and a bundle that waits on a word behind one is presented anew; an agent that waits for nothing
acknowledges, a context frozen, halted or swapped out delaying nothing; after the last, the lines of the frames are written back
if asked, and, once they are performed, SHSEQ counts it. That all cores take their step of it at once, with the request, is the
model's choice (log entry 53). -/
def Obligations.ShutterEvents : Prop :=
  ∀ (s : State) (part : Nat) (p : Part), mfind s.parts part = some p →
    (p.shutter.isSome → s.control.mstate ≠ .failed →
      exec (.shutterGo part) s = .next (modPart s part fun p => { p with shlost := true })) ∧
    (p.shutter = none → s.control.mstate ≠ .failed → ∃ u r, exec (.shutterGo part) s = .next u ∧
      mfind u.parts part = some { p with shutter := some r, shlost := false } ∧
      r.lo = p.shva % 2 ^ 57 / 2 ^ 17 * 2 ^ 17 ∧ r.len = p.shlen * 2 ^ 17 ∧ r.all = bitOf p.shflags 1 ∧
      r.scrub = bitOf p.shflags 2 ∧ r.agents = shutAgents s part ∧ r.cores = shutCores s part ∧
      (∀ c ∈ shutCores s part,
        (∀ e ∈ (getCore u c).tlb, e.1 / 2 ^ 57 = part → r.hits e.2.va e.2.size = false) ∧
        (∀ b ∈ (getCore u c).blocks, b.part = part → ∀ m ∈ b.maps, r.hits m.1 m.2 = false)) ∧
      (∀ c x h, (getCtx s c x).part = part → (readH (getCtx s c x) h).valid = true → r.hitsHandle (readH (getCtx s c x) h) = true →
        readH (getCtx u c x) h = { readH (getCtx s c x) h with
          valid := false, revoked := true, sought := false, gen := (readH (getCtx s c x) h).gen + 1 }) ∧
      (∀ c x, (getCtx s c x).part = part → (getCtx s c x).gang = false → waitsThrough r (getCtx s c x) = true →
        (getCtx u c x).status = .ready ∧ (getCtx u c x).wait = none) ∧
      u.mem = s.mem) ∧
    (∀ r, p.shutter = some r →
      (∀ a ∈ r.agents, shutReady s part r a = true → exec (.shutterAck part a) s =
        .next (modPart s part fun p => { p with shutter := some { r with agents := r.agents.filter (· ≠ a) } })) ∧
      (∀ c, c < 48 → (∀ x, (getCtx s c x).part = part → (getCtx s c x).status = .frozen ∨ (getCtx s c x).status = .halted ∨
        (getCtx s c x).status = .swapped) → shutReady s part r c = true) ∧
      (r.agents = [] →
        let u := if r.scrub then
            r.cores.foldl (fun s c => r.frames.foldl (fun s f => flushRange s c f.1 f.2) s) s
          else s
        let out := r.scrub = true ∧ scrubOut u r = true
        let v := modPart u part fun p => { p with shutter := none, shseq := p.shseq + 1 }
        (out → exec (.shutterComplete part) s = .next u) ∧
        (¬ out → v.control.fcmd ≠ some (0x109, part) → exec (.shutterComplete part) s = .next v) ∧
        (¬ out → v.control.fcmd = some (0x109, part) → exec (.shutterComplete part) s =
          .next { v with control := { v.control with fcmd := none } })))

/-- R363, R371, R374, R400, R411: firmware takes the first fault not yet placed: DEBUG halts its context for the debugger, or where
its resumption has been asked for already it goes on; a walk that met an empty kettle resumes, a frame being there or given; with fault service on, a page or permission fault goes to the driver, whose
answer resumes the context or passes the fault on; then the fault domain, or the partition stops. -/
def Obligations.FaultService : Prop :=
  (∀ (s : State) (it : FaultItem) (l : List FaultItem) (c : Nat), s.faults = it :: l → it.core = some c → c < 40 →
    (getCtx s c it.ctx).part = it.part → (getCtx s c it.ctx).status = .frozen → (getCtx s c it.ctx).gang = false →
    let x := it.ctx
    let asked := (getCore s c).probe.resumes.contains x
    let resumed := fun (u : State) => { modCtx u c x fun k => { k with status := runStatus u c it.part } with faults := u.faults.drop 1 }
    let pageOrPerm := it.code = codePageFault ∨ it.code = codePerm
    let toDriver := enabled s 2 = true ∧ ∃ p, mfind s.parts it.part = some p ∧ p.fsvc = true
    (it.stage = .fresh → it.code = codeDebug → asked = false → exec .firmwareFaultService s =
      .next { modCtx s c x fun k => { k with status := .halted } with faults := l }) ∧
    (it.stage = .fresh → it.code = codeDebug → asked = true → exec .firmwareFaultService s =
      .next (resumed (modCore s c fun core =>
        { core with probe := { core.probe with resumes := core.probe.resumes.filter (· ≠ x) } }))) ∧
    (it.stage = .fresh → it.code ≠ codeDebug → ∀ d, it.kettle = some d → exec .firmwareFaultService s =
      .next (resumed (if mget s.kettles d [] = [] then refillKettle s d else s))) ∧
    (it.stage = .fresh → pageOrPerm → it.kettle = none → toDriver → ∃ u seq, postEvent s 1 it.part [] it.record = (u, seq) ∧
      exec .firmwareFaultService s = .next { u with faults := setAt u.faults 0 { it with stage := .driver seq } }) ∧
    (it.stage = .answered true → exec .firmwareFaultService s = .next (resumed s)) ∧
    (it.stage = .answered false ∨ (it.stage = .fresh ∧ it.code ≠ codeDebug ∧ it.kettle = none ∧ (pageOrPerm → ¬ toDriver)) →
      ∀ t, mfind s.tasks (getCtx s c x).task = some t →
      (t.domain = false → (getRegion s (regionKey it.part it.region)).faultcr ≠ 0 →
        exec .firmwareFaultService s = .next { s with faults := { it with stage := .domain } :: l }) ∧
      (t.domain = true ∨ (getRegion s (regionKey it.part it.region)).faultcr = 0 → (mfind s.parts it.part).isSome →
        ∃ u, exec .firmwareFaultService s = .next u ∧ (getCtx u c x).status = .stopped ∧
          ∃ p, mfind u.parts it.part = some p ∧ p.stopped = true))) ∧
  (∀ (s : State) (v i : Nat) (it : FaultItem), firstFault s (fun it => it.stage = .driver (v % 2 ^ 32)) = some (it, i) →
    exec (.fsrespWrite v) s = .next { s with faults := setAt s.faults i { it with stage := .answered (bitOf v 32) } }) ∧
  (∀ (s : State) (v : Nat), (∀ it ∈ s.faults, it.stage ≠ .driver (v % 2 ^ 32)) → exec (.fsrespWrite v) s = .next s)

/-- R285, R372–R374: A reportable fault is written into the next slot of its ring: the record, FULL with the disposition KILL, an
address for NPC that the spec leaves to firmware, and s1 to s6; it is counted, and a task is pushed onto the TASK queue of the
fault domain's region, and made when its entry is popped, with the report's address and the fault's code as its last arguments;
while the slot's FULL is set or the queue is full the fault waits, and the next that can be written is; where the domain cannot
be used its partition stops. Which address firmware pushes, and where it keeps the record, are the model's choice (log entry
45). A
disposition is acted on once the fault-domain task has retired: RESUME, SKIP, REDIRECT where the context can be a continuation,
and KILL; a cancelled region kills. The report's FULL is cleared. A REDIRECT that must wait holds back no other report. -/
def Obligations.FaultReportsAndDispositions : Prop :=
  (∀ (s : State) (it : FaultItem) (i : Nat) (l : List (FaultItem × Nat)), reportables s = (it, i) :: l →
    (∀ t, reportRing s it = (t, none) → exec .faultReportWrite s =
      .next (stopPartition (dropFault (stopFrozen t it) i) it.part it.code)) ∧
    (∀ t ws va rpa ringl rk, reportRing s it = (t, some (ws, va, rpa, ringl, rk)) →
      let n := match mfind t.parts it.part with | some p => mget p.rings va 0 | none => 0
      let pa := rpa + 128 * (n % 2 ^ ringl)
      let v := (unitWords t 0 (pa + 0x40) 1).1
      let full := bitOf (wordAt (unitWords t 0 (pa + 0x40) 1).2 0) 63
      let tq := (getRegion v rk).tq
      let room := ∃ q, mfind v.queues tq = some q ∧ q.items.length < q.cap
      (full = true ∨ ¬ room → exec .faultReportWrite s = .next ((l.findSome? fun e => reportOne s e.1 e.2).getD s)) ∧
      (full = false → ∀ q, mfind v.queues tq = some q → q.items.length < q.cap →
        ∃ w at_ own npc, exec .faultReportWrite s = .next w ∧ npc % 16 = 0 ∧
          (storeHeld v .control pa = false → ∀ b, (mget w.mem b 0).toNat = if pa ≤ b ∧ b < pa + 128 then
              elem 8 (ofElems 64 ((it.record ++ List.replicate 8 0).take 8 ++ [2 ^ 63 + 3, npc] ++
                (it.args ++ List.replicate 6 0).take 6)) (b - pa)
            else (mget v.mem b 0).toNat) ∧
          mfind w.queues tq = some { q with items := q.items ++ [at_] } ∧
          own = setAt (setAt ws 6 (va + 128 * (n % 2 ^ ringl))) 7 (it.code % 256 + n % 2 ^ ringl * 256) ∧
          w.faults[i]? = some { it with stage := .pushed pa at_ own } ∧
          ∀ p, mfind t.parts it.part = some p → ∃ q, mfind w.parts it.part = some q ∧ mget q.rings va 0 = n + 1))) ∧
  (∀ (s : State) (n va i pa : Nat) (q : Queue) (rest cr : List Nat) (p : Part) (it : FaultItem), mfind s.queues n = some q →
    q.task = true → q.items = va :: rest → mfind s.parts q.part = some p → p.stopped = false → readyCount s q.part < 65536 →
    pushedFault s q.part va = some (it, i, pa, cr) →
    let rk := regionKey q.part (wordAt cr 1 % 2 ^ 12)
    let id := s.seq + 1
    let t := fun (tag : Nat) => { newTask rk va tag cr with own := some cr, domain := true, queue := n }
    ∃ tag own u r, mfind u.tasks id = some { t tag with own := some own } ∧ (∀ j, j ≠ 1 → wordAt own j = wordAt cr j) ∧ mfind u.queues n = some { q with items := rest } ∧ u.seq = id ∧
      u.faults = setAt s.faults i { it with stage := .reported pa id } ∧
      (∀ r0, mfind s.regions rk = some r0 → r = { r0 with live := r0.live + 1, ready := r0.ready ++ [id], dirty := true } ∧
        mfind u.regions rk = some r) ∧
      (∀ r0, mfind s.regions rk = some r0 → taskIslands s (t tag) ≠ 0 →
        exec (.taskQueuePop n) s = .next (if r0.cancel then settle (retireTask u id) 64 else dispatchRegion u rk)) ∧
      (mfind s.regions rk = none ∨ taskIslands s (t tag) = 0 → exec (.taskQueuePop n) s =
        .next (discardEvent { s with
          queues := u.queues, faults := u.faults, seq := id } q.part n va))) ∧
  (∀ (s t : State) (it : FaultItem) (i pa id : Nat) (ws : List Nat) (l : List (FaultItem × Nat)),
    answeredReports s = (it, i) :: l → it.stage = .reported pa id → unitWords s 0 (pa + 0x40) 8 = (t, ws) →
    let done := fun (u : State) => storeAt (dropFault u i) .control 0 (pa + 0x40) 8 (wordAt ws 0 % 2 ^ 63) (ones 8)
    let cancelled := (getRegion t (regionKey it.part it.region)).cancel
    (it.loose = true → exec .faultDisposition s = .next (done t)) ∧
    (∀ c, it.core = some c → c < 40 → (getCtx t c it.ctx).part = it.part → (getCtx t c it.ctx).status = .frozen →
      (cancelled = false → wordAt ws 0 % 8 = 0 → exec .faultDisposition s = .next (done (resumeCtx t c it.ctx))) ∧
      (cancelled = false → wordAt ws 0 % 8 = 1 → exec .faultDisposition s = .next (done (skipBundle t c it.ctx))) ∧
      (cancelled = false → wordAt ws 0 % 8 = 2 → redirectable t c it.ctx = true → exec .faultDisposition s =
        .next (done (redirectCtx t c it.ctx (wordAt ws 1) ((ws.drop 2).take 6)))) ∧
      (cancelled = false → wordAt ws 0 % 8 = 2 → redirectable t c it.ctx = false → exec .faultDisposition s =
        .next ((l.findSome? fun e => dispose s e.1 e.2).getD
          (closeWaiting s (((answeredReports s).map fun e => e.1).filter (asksRedirect s))))) ∧
      (cancelled = true ∨ 3 ≤ wordAt ws 0 % 8 → exec .faultDisposition s =
        .next (done (killTask t (getCtx t c it.ctx).task)))))

/-- R383, R385, R386, R409, R411, R412: A halt is asked for where the partition consents, and not otherwise; it lands, if it still
consents, at a boundary where no level is active or an iteration of level 0 has ended, or after 2^20 cycles at any boundary;
RESUME makes a halted context ready, and is kept for one that firmware is about to halt; TRPOP removes the oldest record. The test of a failing resource counts a transient or a lasting error
for its partition; a lasting error of an LPDDR-6 row retires its frame, of a register file fences its core and fails the
entry; an error that was not corrected leaves its line poisoned; an error of the host link is told to the host, and another is
detected where it struck. What the numbers of the test and of the error name is the model's choice (log entry 30). -/
def Obligations.DebuggerAndErrorEvents : Prop :=
  (∀ (s : State) (c x : Nat), c < 40 → x < 8 → (getCtx s c x).gang = false → s.control.mstate ≠ .failed →
    let k := getCtx s c x
    let asked := (getCore s c).probe.halts.any fun h => h.1 = x ∧ h.2.1 = k.part
    let live := k.status = .ready ∨ k.status = .waiting
    (k.status ≠ .free → k.status ≠ .ending → consents s k.part 1 = true → asked = false → exec (.haltRequest c (2 ^ x)) s =
      .next (modCore s c fun core => { core with probe := { core.probe with halts := core.probe.halts ++ [(x, k.part, core.cycle)] } })) ∧
    (consents s k.part 1 = false → exec (.haltRequest c (2 ^ x)) s = .next s) ∧
    (asked = true → consents s k.part 1 = true → live → k.loops = [] ∨ k.iterEnd = true →
      exec (.haltLand c x) s = .next (landHalt s c x 0xFF)) ∧
    (consents s k.part 1 = false → exec (.haltLand c x) s = .next s ∧ exec (.haltTimeout c x) s = .next s) ∧
    (asked = true → live → ∀ n, haltAsked s c x = some n → n + 2 ^ 20 ≤ (getCore s c).cycle →
      exec (.haltTimeout c x) s = .next (landHalt s c x 0xFE)) ∧
    (∀ obj, (getCtx (landHalt s c x obj) c x).status = .frozen ∧ haltAsked (landHalt s c x obj) c x = none ∧
      ∃ it, (landHalt s c x obj).faults = s.faults ++ [it] ∧ it.code = codeDebug ∧ wordAt it.record 4 = obj % 2 ^ 16) ∧
    (k.status = .halted → exec (.resumeRequest c (2 ^ (8 + x))) s =
      .next (modCtx s c x fun k => { k with status := runStatus s c k.part })) ∧
    (k.status = .frozen → (∃ it ∈ s.faults, it.stage = .fresh ∧ it.code = codeDebug ∧ it.core = some c ∧ it.ctx = x ∧ it.part = k.part) →
      exec (.resumeRequest c (2 ^ (8 + x))) s = .next (modCore s c fun core =>
        { core with probe := { core.probe with resumes := (core.probe.resumes ++ [x]).eraseDups } })) ∧
    (exec (.trpopWrite c) s = .next (modCore s c fun core =>
      { core with probe := { core.probe with fifo := core.probe.fifo.drop 1 } }))) ∧
  (∀ (s : State) (id left log : Nat) (p : Part), mfind s.parts (bitsOf id 9 3) = some p →
    let part := bitsOf id 9 3
    let core := bitsOf id 3 6
    let u := if id % 4 = 2 then s else leavePoison s core left
    let lasting := modPart u part fun p => { p with lasting := p.lasting + 1 }
    let fenced := modCore lasting core fun k => { k with fenced := true }
    (left % 8 = 0 → leavePoison s core left = s) ∧
    (left % 8 = 1 → left / 8 ∈ (leavePoison s core left).badLines) ∧
    (exec (.errorRowTestDone id left true) s = .next (modPart (if id % 4 = 2 then modCore s core fun k =>
        { k with failed := k.failed.filter fun e => !(entryOf left).contains e } else u) part fun p =>
      { p with transient := p.transient + 1 })) ∧
    (id % 4 = 1 → exec (.errorRowTestDone id left false) s = .next (postEvent { lasting with
      retiredFrames := (lasting.retiredFrames ++ [id / 2 ^ 12]).eraseDups } 5 part [id / 2 ^ 12] []).1) ∧
    (id % 4 = 2 → exec (.errorRowTestDone id left false) s =
      .next (modCore fenced core fun k => { k with failed := (k.failed ++ entryOf left).eraseDups })) ∧
    (id % 4 = 0 ∨ id % 4 = 3 → exec (.errorRowTestDone id left false) s = .next (if bitOf id 2 then fenced else lasting)) ∧
    (log < 2 ^ 64 → exec (.linkError log) s = .next (postEvent s 4 0 [log] []).1)) ∧
  (∀ (s : State) (c n : Nat), c < 64 → n < 2 ^ 58 →
    let error := fun (kind : Nat) => exec (.linkError (kind * 2 ^ 64 + n * 2 ^ 6 + c)) s
    (error 1 = .next (modCore s c fun k => { k with failed := (k.failed ++ entryOf n).eraseDups })) ∧
    (error 2 = .next (modCore s c fun k => { k with residue := true })) ∧
    (error 3 = .next (leavePoison s c n)) ∧
    (error 4 = .next (modCore s c fun k => { k with
      lines := k.lines.map fun e => if e.1 = n then (e.1, { e.2 with poison := true }) else e })) ∧
    (error 5 = .next (modCore s c fun k => { k with badRows := (k.badRows ++ [n]).eraseDups })) ∧
    (error 6 = .next (deviceFatal s)) ∧
    (∀ id, n = 4 * id + 1 → error 7 = .next { s with
      stores := s.stores.map fun w => if w.id = id then { w with bad := true } else w }))

/-- R360, R391, R393, R394, R396, R401, R409, R412, R413: A module reset leaves everything as reset leaves it, but for host memory
and the model's own fields (log entries 1 to 3); outside D3cold the link trains, the self-test that follows leads to FWWAIT or
fails, GO starts the check, the check passes or fails, and START makes the module READY. What a write to BAR0 does, by its offset;
an unaligned write, and outside the global block any write in FAILED, is ignored. What a read returns of MSTATE, FCMDRES, a
stream's registers and a debug block; any read but an aligned one of 8 bytes returns 0, and so does one of a trace record of a
partition that does not consent. That one offset past BAR0 sets the HDM decoder's base is the model's choice (log entry 91). -/
def Obligations.BringUpAndRegisters : Prop :=
  (∀ (s : State) (wide : Bool) (fail : Nat),
    let put := fun (f : Control → Control) => ({ s with control := f s.control } : State)
    let st := s.control.mstate
    (exec .moduleReset s = .next { State.reset with
      agenda := s.agenda, focus := s.focus, latch := s.latch, free := s.free, seq := s.seq, mem := hostCells s.mem }) ∧
    (s.control.power = .d3cold → ∀ ok, exec (.linkTrain ok wide) s = .next s) ∧
    (s.control.power ≠ .d3cold → exec (.linkTrain false wide) s = .next (put fun k => { k with mstate := .failed, fail := 1 })) ∧
    (s.control.power ≠ .d3cold → st = .reset →
      exec (.linkTrain true wide) s = .next (put fun k => { k with wid := if wide then 2 else 1 })) ∧
    (st = .reset → s.control.wid ≠ 0 → exec (.fwCheckDone 0) s = .next (put fun k => { k with mstate := .fwwait })) ∧
    (st = .fwwait → exec .fwctlGo s = .next (put fun k => { k with mstate := .fwcheck })) ∧
    (st ≠ .fwwait → exec .fwctlGo s = .next s) ∧
    (st = .fwcheck → exec (.fwCheckDone 0) s = .next (put fun k => { k with mstate := .negotiate })) ∧
    (st = .fwcheck → fail = 2 ∨ fail = 3 → exec (.fwCheckDone fail) s = .next (put fun k => { k with mstate := .failed, fail := fail })) ∧
    (st = .reset → s.control.wid ≠ 0 → exec (.fwCheckDone 4) s =
      .next (put fun k => { k with mstate := .failed, fail := 4 })) ∧
    (st = .negotiate → exec .fwctlStart s = .next (put fun k => { k with mstate := .ready })) ∧
    (st ≠ .negotiate → exec .fwctlStart s = .next s)) ∧
  (∀ (s : State) (off v : Nat), v < 2 ^ 64 →
    let put := fun (f : Control → Control) => ({ s with control := f s.control } : State)
    let dbg := fun (c : Nat) (f : Debug → Debug) => modCore s c fun k => { k with probe := f k.probe }
    (off % 8 ≠ 0 → exec (.registerWrite off v) s = .next s) ∧
    (0x1000 ≤ off → s.control.mstate = .failed → exec (.registerWrite off v) s = .next s) ∧
    (s.control.mstate ≠ .failed → exec (.registerWrite 0x2000000 v) s = .next (put fun k => { k with hdmbase := v })) ∧
    (s.control.mstate = .negotiate → exec (.registerWrite 0x20 v) s =
      .next (put fun k => { k with enable := Nat.land v Config.features.toNat })) ∧
    (s.control.mstate ≠ .negotiate → exec (.registerWrite 0x20 v) s = .next s ∧ exec (.registerWrite 0x48 v) s = .next s) ∧
    (s.control.mstate = .fwwait → v % 4 = 1 → exec (.registerWrite 0x40 v) s = .next (put fun k => { k with mstate := .fwcheck })) ∧
    (s.control.fcmd = none → s.control.mstate = .ready → s.control.power = .d0 → 1 ≤ v % 256 → v % 256 ≤ 11 →
      exec (.registerWrite 0x80 v) s = .next (put fun k => { k with fcmd := some (v % 256, v / 256 % 8) })) ∧
    (s.control.fcmd.isSome ∨ s.control.power ≠ .d0 → exec (.registerWrite 0x80 v) s = .next s) ∧
    (exec (.registerWrite 0x88 v) s = .next (put fun k => { k with fcmdarg := v })) ∧
    (s.control.mstate ≠ .failed → ∀ part p, part < 8 → mfind s.parts part = some p →
      (∀ n, n < 64 →
        exec (.registerWrite (0x100000 + 0x10000 * part + 64 * n + 8) v) s = exec (.csctlWrite part n v) s ∧
        exec (.registerWrite (0x100000 + 0x10000 * part + 64 * n + 0x18) v) s = exec (.cstailWrite part n v) s ∧
        ((getStream s part n).en = true → exec (.registerWrite (0x100000 + 0x10000 * part + 64 * n) v) s =
          .next (modStream s part n id)) ∧
        ((getStream s part n).en = false → exec (.registerWrite (0x100000 + 0x10000 * part + 64 * n) v) s =
          .next (modStream s part n fun t => { t with base := v % 2 ^ 57 / 4096 * 4096 }))) ∧
      exec (.registerWrite (0x100000 + 0x10000 * part + 0x1000) v) s = .next (modPart s part fun p => { p with shva := v % 2 ^ 57 }) ∧
      (v % 2 = 0 → exec (.registerWrite (0x100000 + 0x10000 * part + 0x1008) v) s =
        .next (modPart s part fun p => { p with shlen := v / 2 ^ 32, shflags := v % 8 / 2 * 2 })) ∧
      (v % 2 = 1 → p.shutter = none → exec (.registerWrite (0x100000 + 0x10000 * part + 0x1008) v) s = exec (.shutterGo part)
        (modPart s part fun p => { p with shlen := v / 2 ^ 32, shflags := v % 8 / 2 * 2 }))) ∧
    (s.control.mstate ≠ .failed → enabled s 4 = true → ∀ c, c < 40 →
      exec (.registerWrite (0x1000000 + 0x20000 * c + 8) v) s = .next (dbg c fun d => { d with brken := BitVec.ofNat 64 v }) ∧
      exec (.registerWrite (0x1000000 + 0x20000 * c + 0x10) v) s = .next (dbg c fun d => { d with trgstart := BitVec.ofNat 64 v }) ∧
      exec (.registerWrite (0x1000000 + 0x20000 * c + 0x18) v) s = .next (dbg c fun d => { d with trgstop := BitVec.ofNat 64 v }) ∧
      exec (.registerWrite (0x1000000 + 0x20000 * c + 0x30) v) s = exec (.trpopWrite c) s)) ∧
  (∀ (s : State) (off n : Nat),
    let k := s.control
    (off % 8 ≠ 0 ∨ n ≠ 8 → registerRead s off n = 0) ∧
    (0x1000 ≤ off → k.mstate = .failed → registerRead s off n = 0) ∧
    (∀ code st, (st, code) ∈ [(MState.reset, 0), (.fwwait, 1), (.fwcheck, 2), (.negotiate, 3), (.ready, 4), (.failed, 5)] →
      k.mstate = st → k.fail < 2 ^ 8 → k.wid < 4 → registerRead s 0 8 = k.wid * 2 ^ 16 + k.fail * 2 ^ 8 + code) ∧
    (k.fcmdres < 2 ^ 32 → registerRead s 0x90 8 = (if k.fcmd.isSome then 2 ^ 63 else 0) + k.fcmdres) ∧
    (k.mstate ≠ .failed → ∀ part p m, part < 8 → m < 64 → mfind s.parts part = some p → let t := getStream s part m
      registerRead s (0x100000 + 0x10000 * part + 64 * m + 0x10) 8 = t.head ∧
      registerRead s (0x100000 + 0x10000 * part + 64 * m + 0x20) 8 = csstat t ∧
      registerRead s (0x100000 + 0x10000 * part + 64 * m + 0x28) 8 = t.errva) ∧
    (k.mstate ≠ .failed → ∀ c, c < 40 →
      let read := fun (o : Nat) => registerRead s (0x1000000 + 0x20000 * c + o) 8
      let fifo := (getCore s c).probe.fifo
      (enabled s 4 = false → ∀ o, o < 0x20000 → read o = 0) ∧
      (enabled s 4 = true → ∀ r l, fifo = r :: l →
        (Trace.open s r = true → [read 0x40, read 0x48, read 0x50, read 0x58] = [r.w0, r.w1, r.w2, r.w3]) ∧
        (Trace.open s r = false → [read 0x40, read 0x48, read 0x50, read 0x58] = [0, 0, 0, 0]))))

/-- R400, R413: EVTAIL frees room in the ring; an event goes to the ring while it has room, with its sequence number, and is
held while it has none; D3hot stops every partition, writes dirty lines back, and, once no store is on its way, drops the
contexts, the debug FIFOs and the counters and keeps memory, the carves, the queues and the slots; D3cold keeps nothing of the
module. That EVHEAD and EVTAIL count freely is the model's choice (log entry 43), and so is what D3hot does with state that R413
does not name (log entry 62). -/
def Obligations.EventRingAndPowerStates : Prop :=
  ∀ (s : State),
    (∀ v, s.control.evheld = [] → exec (.evtailWrite v) s = .next { s with control := { s.control with evtail := v } }) ∧
    (∀ v e, s.control.evheld = [e] → let u : State := { s with control := { s.control with evtail := v, evheld := [] } }
      0 < eventRoom u.control → exec (.evtailWrite v) s = .next (writeEvent u e)) ∧
    (∀ kind part words record, s.control.evheld = [] →
      let w := [kind % 256 + part % 8 * 2 ^ 8 + s.control.evseq % 2 ^ 32 * 2 ^ 32] ++ (words ++ List.replicate 7 0).take 7 ++
        (hostRecord s part record ++ List.replicate 8 0).take 8
      let counted : Control := { s.control with evseq := (s.control.evseq + 1) % 2 ^ 32 }
      (0 < eventRoom s.control → (postEvent s kind part words record).1 = writeEvent { s with control := counted } w) ∧
      (eventRoom s.control = 0 → (postEvent s kind part words record).1 = { s with control := { counted with evheld := [w] } })) ∧
    (let halted := (s.parts.filter fun e => ¬ e.2.stopped).foldl (fun s e => haltPartition s e.1) s
      let u := (upTo 10).foldl cluFlush (halted.cores.foldl (fun s e => flushAll s e.1) halted)
      s.control.power = .d0 → s.control.mstate = .ready →
      (u.stores ≠ [] → exec .d3hotEntry s = .next u) ∧
      (u.stores = [] → ∃ t, exec .d3hotEntry s = .next t ∧ t.ctxs = [] ∧ (∀ c, (getCore t c).probe = {}) ∧
      t.control.power = .d3hot ∧ (∀ p q, mfind t.parts p = some q → q.stopped = true) ∧
      (∀ c, (getCore t c).scratch = (getCore u c).scratch) ∧ t.mem = u.mem ∧ t.chip = s.chip ∧ t.cluster = s.cluster ∧ t.slots = s.slots ∧
      ∀ n, (mfind t.queues n).map (fun q => q.items) = (mfind s.queues n).map (fun q => q.items))) ∧
    (s.control.power = .d3hot → exec .d3hotExit s = .next { s with
      cores := s.cores.map (fun e => (e.1, { e.2 with cycle := 0 }))
      islands := s.islands.map (fun e => (e.1, { e.2 with slewAt := 0, gated := false, idle := 0, active := 0, lam := 0 }))
      control := { s.control with power := .d0 } }) ∧
    (∃ t, exec .d3cold s = .next t ∧ t.control.power = .d3cold ∧ t.mem = hostCells s.mem ∧ t.parts = [] ∧ t.ctxs = [] ∧ t.cores = [])

/-! ### Firmware commands -/

/-- R396, R397, R413: In D0 PCREATE makes the partition that its block describes under the lowest number not in use, and gives it the islands
that run none; it answers −2 for a malformed block or one out of rule, −3 for a domain without CONF, −1 where what is asked for
is taken, or where its table's frame cannot be its domain's (log entry 90). PDESTROY frees all of a stopped partition; PSTOP and PRESUME stop and resume it; each answers −4 in the wrong
state. -/
def Obligations.PartitionCommands : Prop :=
  ∀ (s : State) (part : Nat),
    let cmd := s.control.fcmd
    s.control.power = .d0 →
    (cmd = some (1, part) →
      (∀ t, argBlock s = (t, none) → exec (.pcreate part) s = .next (fcmdEnd t (-2))) ∧
      (∀ t ws, argBlock s = (t, some ws) →
        (partBad ws = true → exec (.pcreate part) s = .next (fcmdEnd t (-2))) ∧
        (partBad ws = false → (partOf ws).dom ≠ 0 → enabled t 3 = false → exec (.pcreate part) s = .next (fcmdEnd t (-3))) ∧
        (partBad ws = false → (partOf ws).dom = 0 ∨ enabled t 3 = true →
          (partTaken t (partOf ws) = true → exec (.pcreate part) s = .next (fcmdEnd t (-1))) ∧
          (partTaken t (partOf ws) = false → freeKey t.parts 8 = none → exec (.pcreate part) s = .next (fcmdEnd t (-1))) ∧
          (partTaken t (partOf ws) = false → rootFrame t (partOf ws) = none → exec (.pcreate part) s = .next (fcmdEnd t (-1))) ∧
          (partTaken t (partOf ws) = false → ∀ n v, freeKey t.parts 8 = some n → rootFrame t (partOf ws) = some v →
            ∃ u, exec (.pcreate part) s = .next (fcmdEnd u n) ∧ (∀ m, m < n → (mfind t.parts m).isSome) ∧
              mfind u.parts n = some (partOf ws) ∧ u.mem = v.mem ∧ u.owners = v.owners ∧
              ((partOf ws).dom ≠ 0 → mget u.owners ((partOf ws).ptroot / 2 ^ 17) 0 = (partOf ws).dom) ∧ (∀ m, m ≠ n → mfind u.parts m = mfind v.parts m) ∧
              ∀ i, i < 10 → (getIsland u i).cur =
                if bitOf (partOf ws).islands i ∧ (getIsland v i).cur = none then some n else (getIsland v i).cur)))) ∧
    (∀ p, mfind s.parts part = some p →
      (cmd = some (2, part) → p.stopped = false → exec (.pdestroy part) s = .next (fcmdEnd s (-4))) ∧
      (cmd = some (2, part) → p.stopped = true → ∃ u, exec (.pdestroy part) s = .next (fcmdEnd u 0) ∧
        mfind u.parts part = none ∧
        (p.dom = 0 → (∀ e ∈ s.swaps, e.2.incoming ≠ part) → u.parts = mdel s.parts part) ∧ (∀ e ∈ u.regions, e.1 / 4096 ≠ part) ∧ (∀ e ∈ u.tasks, e.2.region / 4096 ≠ part) ∧
        (∀ e ∈ u.queues, e.2.part ≠ part) ∧ (∀ e ∈ u.peeps, e.2.part ≠ part) ∧ (∀ e ∈ u.streams, e.1 / 64 ≠ part) ∧
        (∀ e ∈ u.slots, e.2.owned = true → e.2.part ≠ part) ∧
        (∀ e ∈ u.islands, mfind e.2.reserved part = none) ∧ (∀ r ∈ u.hatchq, r.2.2.2 ≠ part) ∧
        (∀ e ∈ u.swaps, e.2.outgoing ≠ part ∧ e.2.incoming ≠ part) ∧ ∀ f ∈ u.faults, f.part ≠ part) ∧
      (cmd = some (3, part) → p.stopped = true → exec (.pstop part) s = .next (fcmdEnd s (-4))) ∧
      (cmd = some (3, part) → p.stopped = false → ∃ u, exec (.pstop part) s = .next (fcmdEnd u 0) ∧
        mfind u.parts part = some { p with stopped := true } ∧ u.mem = s.mem ∧
        ∀ e ∈ s.ctxs, e.2.part = part → mfind s.ctxs e.1 = some e.2 →
          (getCtx u (e.1 / 8) (e.1 % 8)).status ≠ .ready ∧ (getCtx u (e.1 / 8) (e.1 % 8)).status ≠ .waiting) ∧
      (cmd = some (4, part) → p.stopped = false → exec (.presume part) s = .next (fcmdEnd s (-4))) ∧
      (cmd = some (4, part) → p.stopped = true → ∃ u, exec (.presume part) s =
          .next (fcmdEnd (((upTo 10).filter fun i => (getIsland u i).cur = some part).foldl dispatch u) 0) ∧
        mfind u.parts part = some { p with stopped := false } ∧
        ∀ c x, x < 8 → (mfind s.ctxs (c * 8 + x)).isSome → (getCtx s c x).part = part → (getCtx s c x).status = .stopped →
          getCtx u c x = { getCtx s c x with status := runStatus u c part }))

/-- R301, R312, R318, R371, R396, R399, R413: In D0 the class costs come with the next steep boundary; a ramp table is an island's at once; a
queue is made empty, with 16·2^n entries where no carve, no other queue and no overlay pool lies, and destroyed only empty; fault service is turned on and off; the statistics
overwrite the block. -/
def Obligations.ServiceCommands : Prop :=
  ∀ (s t : State) (part : Nat) (p : Part) (ws : List Nat), mfind s.parts part = some p → mfind t.parts part = some p →
    argBlock s = (t, some ws) → s.control.power = .d0 →
    let cmd := s.control.fcmd
    let w := wordAt ws 0
    let n := w % 64
    let costs := (upTo 8).map fun i => bitsOf (wordAt ws (i / 4)) (16 * (i % 4)) 16
    let ramp := elems 8 (wordAt ws 1) 8
    let a := s.control.fcmdarg
    let stat := fun (i : Nat) => wordAt (statWords s part p) i
    (cmd = some (5, part) → (∀ e ∈ costs, 1 ≤ e ∧ e ≤ 384) →
      exec (.setcost part) s = .next (fcmdEnd (modPart t part fun p => { p with costsNew := some costs }) 0)) ∧
    (cmd = some (5, part) → (∃ e ∈ costs, e = 0 ∨ 384 < e) → exec (.setcost part) s = .next (fcmdEnd t (-2))) ∧
    (cmd = some (6, part) → w ≤ 9 → (∀ e ∈ ramp, 1 ≤ e ∧ e ≤ 4) → nonDecreasing ramp = true →
      exec (.setramp part) s = .next (fcmdEnd (modIsland t w fun isl => { isl with ramp := ramp }) 0)) ∧
    (cmd = some (6, part) → 9 < w ∨ (∃ e ∈ ramp, e = 0 ∨ 4 < e) ∨ nonDecreasing ramp = false →
      exec (.setramp part) s = .next (fcmdEnd t (-2))) ∧
    (cmd = some (7, part) → w < 2 ^ 19 → bitsOf w 15 4 ≤ 12 → 2 ≤ bitsOf w 7 2 → mfind t.queues n = none →
      queuePlace t (8 * (16 * 2 ^ bitsOf w 15 4)) = none → exec (.qcreate part) s = .next (fcmdEnd t (-1))) ∧
    (∀ size a, queuePlace t size = some a → a + size ≤ chipEnd t ∧
      (∀ e ∈ t.queues, carvesMeet (a, size) (e.2.place, 8 * e.2.cap) = false) ∧
      ∀ e ∈ t.parts, carvesMeet (a, size) (chipCarve e.2) = false) ∧
    (cmd = some (7, part) → w < 2 ^ 19 → bitsOf w 15 4 ≤ 12 → 2 ≤ bitsOf w 7 2 → mfind t.queues n = none →
      ∀ a, queuePlace t (8 * (16 * 2 ^ bitsOf w 15 4)) = some a →
      exec (.qcreate part) s = .next (fcmdEnd { t with queues := mset t.queues n {
        part := part, task := bitOf w 6, scope := scopeOf (bitsOf w 7 2), home := bitsOf w 9 6, cap := 16 * 2 ^ bitsOf w 15 4
        place := a, items := [], waiters := [] } } 0)) ∧
    (cmd = some (7, part) → w < 2 ^ 19 → bitsOf w 15 4 ≤ 12 → 2 ≤ bitsOf w 7 2 → (mfind t.queues n).isSome →
      exec (.qcreate part) s = .next (fcmdEnd t (-1))) ∧
    (cmd = some (8, part) → w < 64 → ∀ q, mfind t.queues n = some q → q.part = part →
      (q.items = [] → exec (.qdestroy part) s = .next (fcmdEnd { t with queues := mdel t.queues n } 0)) ∧
      (q.items ≠ [] → exec (.qdestroy part) s = .next (fcmdEnd t (-1)))) ∧
    (cmd = some (10, part) → enabled t 2 = false → exec (.fsvc part) s = .next (fcmdEnd t (-3))) ∧
    (cmd = some (10, part) → enabled t 2 = true → w ≤ 1 →
      exec (.fsvc part) s = .next (fcmdEnd (modPart t part fun p => { p with fsvc := decide (w = 1) }) 0)) ∧
    (cmd = some (11, part) → exec (.pstats part) s =
      .next (fcmdEnd (storeLines s .control 0 a (ofElems 64 (statWords s part p)) 256 3) 0)) ∧
    stat 1 = p.refused ∧ stat 2 = p.transient ∧ stat 3 = p.lasting ∧ stat 4 = p.faults ∧ (p.stopped = true → stat 5 = 1) ∧
    (∀ i, i < 10 → stat (6 + i) = if bitOf p.islands i then narrow 64 (getIsland s i).balance else 0) ∧
    ∀ i, 16 ≤ i → stat i = 0

/-- R357, R358, R398, R413: In D0 PMAP writes the pages of its block and answers how many, taking no frame of another domain; where a valid
leaf was cleared or replaced it answers once a shutter over the range is complete. -/
def Obligations.MappingCommand : Prop :=
  (∀ (s : State) (part : Nat), s.control.fcmd = some (9, part) → s.control.power = .d0 →
    (mfind s.parts part = none → exec (.pmap part) s = .next (fcmdEnd s (-4))) ∧
    (∀ p t ws, mfind s.parts part = some p → p.shutter = none → argBlock s = (t, some ws) →
      (pmapBad ws = true → exec (.pmap part) s = .next (fcmdEnd t (-2))) ∧
      (pmapBad ws = false → mget t.kettles p.dom [] ≠ [] → ∀ u st,
        (mapPages t p ws 0 false (wordAt ws 2 % 2 ^ 32) = (u, false, st) → exec (.pmap part) s = .next (fcmdEnd u st)) ∧
        (mapPages t p ws 0 false (wordAt ws 2 % 2 ^ 32) = (u, true, st) → ∃ v, exec (.pmap part) s = .next v ∧
          v.control.fcmd = some (0x109, part) ∧ v.control.fcmdres = narrow 32 st ∧
          ((mfind u.parts part).isSome → ∃ q r, mfind v.parts part = some q ∧ q.shutter = some r ∧ r.scrub = true ∧ r.all = false ∧
            r.lo = wordAt ws 0 ∧ r.len = wordAt ws 2 % 2 ^ 32 * 2 ^ 17))))) ∧
  (∀ (s : State) (p : Part) (ws : List Nat) (i n : Nat) (cut : Bool),
    let clear := bitOf (wordAt ws 2) 32
    let ft := bitOf (wordAt ws 3) 3
    let va := wordAt ws 0 + 2 ^ 17 * i
    let f := wordAt ws 1 / 2 ^ 17 + i
    let owner := mget s.owners f 0
    let writes := fun (u : State) (leaf : Nat) => ∀ v at_, entryFor u p.dom va p.ptroot [47, 37, 27] = (v, some at_) →
      mapPages s p ws i cut (n + 1) = mapPages (storeAt (sliceRead v 0 at_ 8).1 .control 0 at_ 8 leaf (ones 8)) p ws (i + 1)
        (cut || bitOf (sliceRead v 0 at_ 8).2 0) n
    (mapPages s p ws i cut 0 = (s, cut, (i : Int))) ∧
    (clear = true → writes s 0) ∧
    (clear = false → ft = true → writes s (8 + p.dom * 2 ^ 8)) ∧
    (clear = false → ft = false → s.retiredFrames.contains f = true → mapPages s p ws i cut (n + 1) = (s, cut, -1)) ∧
    (clear = false → ft = false → s.retiredFrames.contains f = false → owner = p.dom →
      writes s (wordAt ws 3 - wordAt ws 3 % 2 + 1 + p.dom * 2 ^ 8 + f * 2 ^ 17)) ∧
    (clear = false → ft = false → s.retiredFrames.contains f = false → owner = 0 → p.dom ≠ 0 →
      writes { zeroFrame s f with owners := mput s.owners f p.dom 0 }
        (wordAt ws 3 - wordAt ws 3 % 2 + 1 + p.dom * 2 ^ 8 + f * 2 ^ 17)) ∧
    (clear = false → ft = false → owner ≠ p.dom → owner ≠ 0 ∨ p.dom = 0 → mapPages s p ws i cut (n + 1) = (s, cut, -1)))

/-! ### Command streams -/

/-- R401–R403, R405: CSCTL changes EN always, and SIZE and RESET, with whatever else is written, only where EN was 0; CSTAIL is taken modulo the ring's size in
words; a block within reach of the executing packet is fetched whole, and stands in the place of an earlier copy that held no
more. A packet of an operation the table does not give, of a
wrong length, or with bits the table leaves unassigned halts its stream where it stands, and the host is told; one that is
passed moves the stream on by its words. -/
def Obligations.StreamsAndPackets : Prop :=
  (∀ (s : State) (part n v : Nat),
    let t := getStream s part n
    let put := fun (t : Stream) => ({ s with streams := mset s.streams (part * 64 + n) t } : State)
    let z := if 12 ≤ v % 32 ∧ v % 32 ≤ 24 then v % 32 else 12
    let en := bitOf v 8
    s.control.mstate ≠ .failed →
    (t.en = true → exec (.csctlWrite part n v) s = .next (put { t with en := en }) ∧
      exec (.csctlReset part n v) s = .next (put { t with en := en })) ∧
    (t.en = false → bitOf v 9 = false → exec (.csctlWrite part n v) s =
      .next (put { t with size := z, head := t.head % 2 ^ z, tail := t.tail % 2 ^ z, en := en })) ∧
    (t.en = false → let cleared : Stream := { t with
        size := z, head := 0, tail := 0, en := en, halt := false, fetched := [], buffers := [], loops := [], skip := 0, wait := none
        created := false, reloaded := false, pushing := false }
      exec (.csctlReset part n v) s = .next (put cleared) ∧
      (bitOf v 9 = true → exec (.csctlWrite part n v) s = .next (put cleared))) ∧
    (exec (.cstailWrite part n v) s = .next (put { t with tail := v % 2 ^ t.size / 8 * 8 })) ∧
    (t.en = true → t.halt = false → t.begun = false → t.buffers = [] → t.vaAt 0 t.head % 64 = 0 → v * 64 < 256 →
      v * 64 < t.roomAt 0 →
      let va := t.vaAt 0 (t.head + v * 64)
      ∀ u pa, streamPa s part va 1 = (u, some pa) →
        let w := unitWords u (forPart part) (pa / 64 * 64) 8
        let block : Fetched := {
          level := 0, va := va / 64 * 64, words := w.2.take ((va % 64 + (t.roomAt 0 - v * 64)) / 8) }
        let same := fun (f : Fetched) => f.level = 0 ∧ f.va = block.va
        ((∀ f ∈ t.fetched, ¬ same f) →
          exec (.csBlockFetch part n 0 v) s = .next (modStream w.1 part n fun t => { t with fetched := t.fetched ++ [block] })) ∧
        ((∀ f ∈ t.fetched, same f → f.words.length ≤ block.words.length) → ∃ x, exec (.csBlockFetch part n 0 v) s = .next x ∧
          (getStream x part n).fetched.filter (fun f => decide (same f)) = [block])) ∧
    (256 ≤ v * 64 - t.vaAt 0 t.head % 64 → exec (.csBlockFetch part n 0 v) s = .next s)) ∧
  ((∀ (s t : State) (part n e : Nat) (ws : List Nat), nextPacket s part n = (t, some (.inl ws)) → pktBad ws = some e →
    exec (.csNop part n) s = .next (haltStream t part n e 0 0) ∧ exec (.write64 part n) s = .next (haltStream t part n e 0 0) ∧
    exec (.ibuf part n) s = .next (haltStream t part n e 0 0)) ∧
  (∀ (s t : State) (part n va : Nat), nextPacket s part n = (t, some (.inr va)) →
    exec (.csNop part n) s = .next (haltStream t part n 5 0 va)) ∧
  (∀ (ws : List Nat), let h := wordAt ws 0
    let op := pktOp h
    let whole := ws.length = pktNw h + 1
    (10 ≤ op → pktBad ws = some 1) ∧
    (op = 0 → pktBad ws = none) ∧
    (1 ≤ op → op ≤ 9 → pktWords op ≠ some (pktNw h) → pktBad ws = some 2) ∧
    (1 ≤ op → op ≤ 9 → op ≠ 6 → pktWords op = some (pktNw h) → whole →
      pktFields h ≠ Nat.land (pktFields h) (pktMask op) → pktBad ws = some 8) ∧
    (op = 3 → pktNw h = 2 → whole → pktFields h = 0 → pktArg h = 0 →
      pktBad ws = if wordAt ws 1 % 8 = 0 then none else some 8)) ∧
  (∀ (s : State) (part n err reason va : Nat), let t := getStream s part n
    let u := haltStream s part n err reason va
    (getStream u part n).halt = true ∧ (getStream u part n).err = err ∧ (getStream u part n).reason = reason ∧
    (getStream u part n).head = t.head ∧ (getStream u part n).off = t.posAt t.level ∧ (getStream u part n).lvl = t.level ∧
    (getStream u part n).errva = (if err = 5 then va else t.errva) ∧ u.control.evseq = (s.control.evseq + 1) % 2 ^ 32) ∧
  (∀ (s : State) (part n words : Nat), let t := getStream s part n
    t.buffers = [] → t.loops = [] → let u := passPacket s part n words
    (getStream u part n).head = (t.head + 8 * words) % 2 ^ t.size ∧ (getStream u part n).tail = t.tail ∧
    u = { s with streams := u.streams }))

/-- R403–R405, R412: what each packet in rule does: NOP nothing; WRITE32, WRITE64 and SIGNAL store with write permission, and
SIGNAL raises its vector once its store is performed; CONS sets the consent; WAITMEM waits for its compare, to TIMEOUT; PRED skips packets where it is
false; IB opens a level, to two; LOOPP runs its body; FFENCE drops what was fetched. That a LOOPP of a count of 0 halts with
BADLOOP is the model's choice (log entry 58). -/
def Obligations.PacketResults : Prop :=
  ∀ (s t : State) (part n : Nat) (ws : List Nat), nextPacket s part n = (t, some (.inl ws)) → pktBad ws = none →
    let h := wordAt ws 0
    let f := pktFields h
    let va := wordAt ws 1 % 2 ^ 57
    let plain := fun (pa : Nat) => isMmio pa = false ∧ isNowhere pa = false
    let stores := fun (i : Instr) (bytes v words : Nat) => ∀ u,
      (streamPa t part va 2 = (u, none) → exec i s = .next (haltStream u part n 5 0 va)) ∧
      (∀ pa, streamPa t part va 2 = (u, some pa) → plain pa → exec i s =
        .next (passPacket (storeAt u .host (forPart part) pa bytes (v % 2 ^ (8 * bytes)) (ones bytes)) part n words))
    let raises := fun (u : State) =>
      if bitOf f 6 then ({ u with control := { u.control with msix := u.control.msix ++ [f % 64] } } : State) else u
    let compares := fun (i : Instr) (yes no : State → State) => ∀ u,
      (compareWord t part ws = (u, none) → exec i s = .next (haltStream u part n 5 0 va)) ∧
      (∀ w, compareWord t part ws = (u, some w) → exec i s =
        .next (if compareHolds f w (wordAt ws 2) (wordAt ws 3) then yes u else no u))
    let passes := fun (words : Nat) (u : State) => passPacket u part n words
    let waits := (getStream s part n).wait
    (pktOp h = 0 → exec (.csNop part n) s = .next (passes (pktNw h + 1) t)) ∧
    (pktOp h = 2 → f = 0 → stores (.write32 part n) 4 (pktArg h) 2) ∧
    (pktOp h = 2 → f = 1 → exec (.write32Consent part n) s =
      .next (passes 2 (modPart t part fun p => { p with consent := pktArg h % 4 }))) ∧
    (pktOp h = 3 → stores (.write64 part n) 8 (wordAt ws 2) 3) ∧
    (pktOp h = 9 → wordAt ws 1 ≠ 0 → (getStream t part n).created = false → ∀ u,
      (streamPa t part va 2 = (u, none) → exec (.signal part n) s = .next (haltStream u part n 5 0 va)) ∧
      (∀ pa, streamPa t part va 2 = (u, some pa) → plain pa →
        let v := storeAt u .host (forPart part) pa 8 (wordAt ws 2 % 2 ^ 64) (ones 8)
        exec (.signal part n) s = .next (if hostStoresOut v = true then modStream v part n fun k => { k with created := true }
          else passes 3 (raises v)))) ∧
    (pktOp h = 9 → wordAt ws 1 = 0 ∨ (getStream t part n).created = true → exec (.signal part n) s =
      .next (passes 3 (raises t))) ∧
    (pktOp h = 4 → waits = none → compares (.waitmem part n) (passes 4) fun u => modStream u part n fun k =>
      { k with wait := some (if pktArg h = 0 then 0 else timeNs u + pktArg h * 1000) }) ∧
    (pktOp h = 4 → waits ≠ none → ∀ u w, compareWord t part ws = (u, some w) → exec (.waitmemSatisfied part n) s =
      .next (if compareHolds f w (wordAt ws 2) (wordAt ws 3) then passes 4 u else s)) ∧
    (∀ d, waits = some d → d ≠ 0 → d ≤ timeNs s → exec (.waitmemTimeout part n) s = .next (haltStream s part n 6 0 0)) ∧
    (pktOp h = 5 → compares (.pred part n) (passes 4) fun u =>
      passes 4 (modStream u part n fun k => { k with skip := bitsOf f 8 8 })) ∧
    (pktOp h = 6 → (getStream t part n).level < 2 → exec (.ibuf part n) s =
      .next (modStream t part n fun k => { k with buffers := k.buffers ++ [⟨va, wordAt ws 2, 0⟩] })) ∧
    (pktOp h = 6 → 2 ≤ (getStream t part n).level → exec (.ibuf part n) s = .next (haltStream t part n 3 0 0)) ∧
    (pktOp h = 7 → f % 256 = 0 → exec (.loopp part n) s = .next (haltStream t part n 4 0 0)) ∧
    (pktOp h = 7 → f % 256 ≠ 0 → (getStream t part n).level = 0 →
      let start := (getStream t part n).head + 8
      ∀ u, (loopBody t part n 0 start (f % 256) start = (u, none) → exec (.loopp part n) s = .next s) ∧
        (∀ e a, loopBody t part n 0 start (f % 256) start = (u, some (.inr (e, a))) → exec (.loopp part n) s =
          .next (haltStream u part n e 0 a)) ∧
        (∀ words, loopBody t part n 0 start (f % 256) start = (u, some (.inl words)) → ∃ v, exec (.loopp part n) s = .next v ∧
          (getStream v part n).loops = (getStream u part n).loops ++ [{
            level := 0, start := start % (getStream u part n).bytes, len := 8 * words.length, left := bitsOf f 8 4 + 1
            words := words }])) ∧
    (pktOp h = 8 → exec (.ffence part n) s = .next (passes 1 (modStream t part n fun k => { k with fetched := [] })))

/-- R280–R282, R285, R290, R297, R299, R343, R403: LAUNCH creates a region from its RCB, or halts with the reason it is refused
for; pushes a CR where the queue has room, and waits where it has none; sets CANCEL once the releases of the tasks that retire
are done; destroys a region with nothing live; and RELOAD first drops the
partition's code blocks. -/
def Obligations.LaunchResults : Prop :=
  (∀ (s t : State) (part n : Nat) (ws : List Nat), nextPacket s part n = (t, some (.inl ws)) → pktBad ws = none →
    pktOp (wordAt ws 0) = 1 →
    let f := pktFields (wordAt ws 0)
    let idx := f % 2 ^ 12
    let rk := part * 4096 + idx
    let act := bitsOf f 12 2
    let u := reloadFirst t part n ws
    let cr := wordAt ws 2 % 2 ^ 57
    let pushes := fun (i : Instr) (u : State) => ∀ q, mfind u.queues (getRegion u rk).tq = some q →
      (q.items.length < q.cap → exec i s = .next (passPacket (queuePush u (getRegion u rk).tq cr).1 part n 3)) ∧
      (q.cap ≤ q.items.length → exec i s = .next (modStream u part n fun k => { k with pushing := true }))
    (bitOf f 14 = false → u = t) ∧
    (bitOf f 14 = true → (getStream t part n).reloaded = false → exec (.launchReload part n) s = .next u ∧
      (getStream u part n).reloaded = true ∧ (∀ c, ∀ b ∈ (getCore u c).blocks, b.part ≠ part)) ∧
    (act = 0 → (getStream u part n).created = false → ∀ v pa b, readRcb u part (wordAt ws 1 % 2 ^ 57) = (v, some (pa, b)) →
      (refusal v part idx b ≠ 0 → exec (.launchCreate part n) s = .next (haltStream v part n 7 (refusal v part idx b) 0)) ∧
      (refusal v part idx b = 0 → wordAt ws 2 = 0 → exec (.launchCreate part n) s = .next (passPacket
        (modStream (createRegion v part idx pa b) part n fun k => { k with created := true }) part n 3)) ∧
      (refusal v part idx b = 0 → wordAt ws 2 ≠ 0 → pushes (.launchCreate part n)
        (modStream (createRegion v part idx pa b) part n fun k => { k with created := true }))) ∧
    (act = 0 → (getStream u part n).created = true → wordAt ws 2 ≠ 0 → pushes (.launchCreate part n) u) ∧
    (act = 0 → (getStream u part n).created = false → ∀ v, readRcb u part (wordAt ws 1 % 2 ^ 57) = (v, none) →
      exec (.launchCreate part n) s = .next (haltStream v part n 7 10 0)) ∧
    (act = 1 → mfind u.regions rk = none → exec (.launchPush part n) s = .next (haltStream u part n 7 12 0)) ∧
    (act = 1 → (mfind u.regions rk).isSome → pushes (.launchPush part n) u) ∧
    (act = 2 → (mfind u.regions rk).isSome → ∀ v,
      (releaseReady u part idx = (v, true) → exec (.launchCancel part n) s = .next v) ∧
      (releaseReady u part idx = (v, false) →
        exec (.launchCancel part n) s = .next (passPacket (cancelRegion v part idx) part n 3) ∧
        (getRegion (cancelRegion v part idx) rk).cancel = true)) ∧
    (act = 2 → mfind u.regions rk = none → exec (.launchCancel part n) s = .next (haltStream u part n 7 12 0)) ∧
    (act = 3 → ∀ r, mfind u.regions rk = some r →
      let children := u.regions.any fun e => e.1 / 4096 = part && e.2.parent = idx
      (r.live = 0 → children = false → exec (.launchDestroy part n) s = .next (passPacket (destroyRegion u part idx) part n 3) ∧
        mfind (destroyRegion u part idx).regions rk = none) ∧
      (r.live ≠ 0 ∨ children = true → exec (.launchDestroy part n) s = .next (haltStream u part n 7 11 0)))) ∧
  (∀ (s : State) (part idx rcb b : Nat), ∃ r, mfind (createRegion s part idx rcb b).regions (part * 4096 + idx) = some r ∧
    r.rcb = rcb ∧ r.live = 0 ∧ r.cancel = false ∧ r.ready = [] ∧ r.exh = 0 ∧ r.joules = 0 ∧ r.eprio = r.prio ∧
    r.budrem = 3125 * (r.budget : Int) ∧
    ∀ k ∈ barrierKeys (part * 4096 + idx) r, mfind (createRegion s part idx rcb b).barriers k =
      some { region := part * 4096 + idx, phase := 0, arrivals := 0 })

/-! ### The machine as a whole -/

/-- R35, R36: where the environment lets the core in focus issue and its context holds issue, and the bundle that stands in its
instruction store is one word beside the latch's header, a step runs the instruction that the word decodes to. -/
def Obligations.StepRunsDecodedInstruction : Prop :=
  ∀ (s : State) (x : Nat) (l : List Instr) (b : Block) (w : BitVec 32) (i : Instr), s.agenda = .bundleIssue s.focus :: l →
    (getCore s s.focus).owner = some x → (getCtx s s.focus x).gang = false →
    let k := getCtx s s.focus x
    let first : BitVec 32 := s.latch.hdr.getD 0
    blockAt s s.focus k.part k.pc.toNat = some b → (∀ h, s.latch.hdr = some h → h.toNat / 2 ^ 28 = 14) →
    bundleWords b k.pc.toNat = setAt [first, 0, 0, 0] (s.latch.slot % 4) w → w ≠ 0 → decodeSlot w = .ok i →
    step s = exec i { s with agenda := l }

/-- R31, R39, R46: decoding the word of an instruction gives the instruction back, with every operand at every value. -/
def Obligations.DecodeEncode : Prop :=
  ∀ (i : Instr) (w : BitVec 32), i.wellFormed = true → encode i = some w → decodeSlot w = .ok i

/-- R39, R46: words of the encoding tables' own examples decode to their instructions; class F, a header and a word with a
reserved bit decode to none. -/
def Obligations.DecodeWords : Prop :=
  decodeSlot 0x0F140000 = .ok (.yield 15) ∧ decodeSlot 0x1F6840C4 = .ok (.cmplt 15 0 4 3 4) ∧
  decodeSlot 0x2F2C2515 = .ok (.fclt 15 0 2 20 21) ∧ decodeSlot 0x3F005150 = .ok (.addi 15 0 5 5 16) ∧
  decodeSlot 0x4F03A061 = .ok (.vadd 15 0 7 8 3 1) ∧ decodeSlot 0x5F3A13E0 = .ok (.vmov 15 0 4 4 31) ∧
  decodeSlot 0x6F2A1049 = .ok (.vcmpr 15 0 4 4 2 9) ∧ decodeSlot 0x7F279CA6 = .ok (.vrng 15 0 7 7 5 6) ∧
  decodeSlot 0x8F00028B = .ok (.mma 15 0 10 11) ∧ decodeSlot 0x9F11C000 = .ok (.mcfg 15 14) ∧
  decodeSlot 0xAF104214 = .ok (.ldgW 15 0 4 2 5 0) ∧ decodeSlot 0xBF2C3509 = .ok (.hbind 15 3 20 9) ∧
  decodeSlot 0xCC08049E = .ok (.lstr 12 0 0 9 15) ∧ decodeSlot 0xDF0C0505 = .ok (.trace 15 20 5) ∧
  decodeSlot 0xE001A800 = .error .header ∧ decodeSlot 0xF0000000 = .error .classF ∧
  decodeSlot 0x00000001 = .error (.reservedBits 0 0) ∧ decodeSlot 0x0F240000 = .error (.reservedOpcode 0 9)

/-- R32, R45, R57, R58, R62: a bundle that breaks a rule raises its decode fault and does nothing; one that waits for a register
stalls, with its program counter and every memory as they were; one whose guard is false does nothing but go by. -/
def Obligations.BundlesThatDoNothing : Prop :=
  ∀ (s : State) (x : Nat) (i : Instr) (cls : Nat) (f : Op), Ready s x → classOf i = some cls → slotInfo i = some f →
    let p := onePlaced s.latch cls f
    let fault := decodeFault (isSampler s.focus) (issuer s x).pc.toNat (oneCell s.latch cls f)
    let live := isLive s s.focus x s.focus p
    let waits := waiting s s.focus x s.focus [p]
    (∀ t, fault = some t → exec i s = .next (takeFault s s.focus x t)) ∧
    (fault = none → Quiet s → waits ≠ [] → (issuer s x).stall + 1 < 2 ^ 20 → ∃ t, exec i s = .next t ∧ Stalled s x t ∧
      t.mem = s.mem ∧ t.chip = s.chip ∧ t.cluster = s.cluster ∧ ∀ c, (getCore t c).scratch = (getCore s c).scratch ∧
        (getCore t c).lane = (getCore s c).lane ∧ (getCore t c).lines = (getCore s c).lines ∧
        (getCore t c).tiles = (getCore s c).tiles) ∧
    (fault = none → Quiet s → waits = [] → live = false → Did s x i {})

/-- R72, R180, R185, R188, R195, R369, R370: a slot that may not do what it asks takes its fault in place of its effect, with
its slot and bundle in the record: a global access by the first check that fails, a scratchpad store outside its carve, a
SPAWN of an occupied context. -/
def Obligations.FaultsAtIssue : Prop :=
  (∀ (s : State) (x : Nat) (i : Instr) (p : Placed) (t : Trap), Issues s x i → placedAt s i = some p →
    p.info.run (portOf s s.focus x s.focus p) s = .trap t → t.deferred = false → exec i s =
      .next (takeFault s s.focus x { t with mask := 2 ^ (s.latch.slot % 4), pc := (issuer s x).pc.toNat })) ∧
  (∀ (s : State) (x : Nat) (g : BitVec 4) (d a b : BitVec 6) (h : BitVec 4) (m : BitVec 2) (c : BitVec 3) (t : Trap),
    let takes := fun (i : Instr) (t : Trap) => exec i s =
      .next (takeFault s s.focus x { t with mask := 2 ^ (s.latch.slot % 4), pc := (issuer s x).pc.toNat })
    (∀ e ∈ loadTable, Issues s x (e.1 g 0 d h a m) → checkGlobal s (issuer s x) h.toNat
      (globalOff (latchExt s) (issuer s x) a e.2.bytes) e.2.bytes true false {} = .fault t → takes (e.1 g 0 d h a m) t) ∧
    (∀ e ∈ storeTable, Issues s x (e.1 g d h a m) → checkGlobal s (issuer s x) h.toNat
      (globalOff (latchExt s) (issuer s x) a e.2.1) e.2.1 false true {} = .fault t → takes (e.1 g d h a m) t) ∧
    (∀ e ∈ spadStoreTable, Issues s x (e.1 g d h a m) →
      let at_ := spadAddr (latchExt s) (issuer s x) h a e.2.1
      guardMeets s s.focus at_ e.2.1 true = false → inCarve s (issuer s x) 0 at_ e.2.1 = false →
        takes (e.1 g d h a m) { code := codeCarve, va := at_ % 2 ^ 57, obj := 0 }) ∧
    (Issues s x (.spawn g a b c) → occupied s s.focus c.toNat = true →
      takes (.spawn g a b c) { code := codeSpawnBusy, obj := c.toNat })) ∧
  (∀ (s : State) (k : Ctx) (h z : Nat) (off : Int) (r w : Bool),
    let hd := readH k h
    let obj := h + hd.gen.toNat * 256
    let va := narrow 57 ((hd.va.toNat + off) / (z : Int) * z)
    let pg := 2 ^ pageBits hd.size.toNat
    let o := ((hd.va.toNat % pg : Nat) + off) / (z : Int) * z
    (hd.valid = false → hd.pending = false → hd.revoked = false → hd.fault = 0 →
      checkGlobal s k h off z r w {} = .fault { code := codePerm, obj := obj }) ∧
    (hd.pending = false → hd.fault ≠ 0 → checkGlobal s k h off z r w {} = .fault { code := hd.fault, va := va, obj := obj }) ∧
    (hd.valid = true → hd.pending = false → hd.fault = 0 → hd.bind.toNat < 2 ^ 12 →
      (o < 0 ∨ pg < o + z → checkGlobal s k h off z r w {} = .fault { code := codeHandleBound, va := va, obj := obj }) ∧
      (0 ≤ o → o + z ≤ pg → (r = true ∧ hd.perm.getLsbD 0 = false) ∨ (w = true ∧ hd.perm.getLsbD 1 = false) →
        checkGlobal s k h off z r w {} = .fault { code := codePerm, va := va, obj := obj }) ∧
      (0 ≤ o → o + z ≤ pg → (r = true → hd.perm.getLsbD 0 = true) → (w = true → hd.perm.getLsbD 1 = true) →
        ∃ pl, checkGlobal s k h off z r w {} = .ok pl ∧ pl.pa = hd.base.toNat + o.toNat ∧ pl.va = va ∧ pl.bind = 0)))

/-- R28, R305, R306, R393, R394, R401: what the spec gives for reset: MSTATE and the limits at 0, no thermal credit, every stream
of 2^12 bytes and disabled; and, as a module reset leaves none, no partition, region or context. Every memory is in canonical
form. -/
def Obligations.ResetState : Prop :=
  SoundMemory State.reset ∧ State.reset.parts = [] ∧ State.reset.regions = [] ∧ State.reset.ctxs = [] ∧
  State.reset.gov.pwrlim = 0 ∧ State.reset.gov.therm = 0 ∧ State.reset.gov.credit = 0 ∧
  State.reset.control.mstate = .reset ∧ State.reset.control.fail = 0 ∧ State.reset.control.wid = 0 ∧
  (∀ p n, (getStream State.reset p n).size = 12 ∧ (getStream State.reset p n).en = false ∧ (getStream State.reset p n).halt = false) ∧
  ∀ c x, (getCtx State.reset c x).status = .free

/-- R4, R179: every step leaves every memory in canonical form. -/
def Obligations.SoundMemoryKept : Prop :=
  ∀ (s t : State), SoundMemory s → step s = .next t → SoundMemory t
end

