-- ==== Sys2Proof/Laws/Map.lean ====
section
/-! SUPPORT. Laws of sparse maps and of memories in canonical form: a read after a write, what a write leaves alone, and that
every memory operation keeps the form. -/

namespace Sys2Proof.Machine

section
variable {β : Type}

theorem mget_mset (m : Map β) (a b : Nat) (v d : β) : mget (mset m a v) b d = if a = b then v else mget m b d := by
  induction m with
  | nil => simp [mset, mget]
  | cons e t ih =>
    obtain ⟨k, w⟩ := e
    simp only [mset]
    split
    · simp [mget]
    · split
      · subst_vars; simp only [mget]; split <;> simp_all
      · simp only [mget, ih]
        split
        · split <;> simp_all
        · rfl

@[simp] theorem mget_mset_same (m : Map β) (a : Nat) (v d : β) : mget (mset m a v) a d = v := by simp [mget_mset]

theorem mget_mset_other (m : Map β) {a b : Nat} (v d : β) (h : a ≠ b) : mget (mset m a v) b d = mget m b d := by
  simp [mget_mset, h]

theorem mget_mdel (m : Map β) (a b : Nat) (d : β) : mget (mdel m a) b d = if a = b then d else mget m b d := by
  induction m with
  | nil => simp [mdel, mget]
  | cons e t ih =>
    obtain ⟨k, w⟩ := e
    simp only [mdel]
    split
    · subst_vars; rw [ih]; simp only [mget]; split <;> simp_all
    · simp only [mget, ih]; split
      · split <;> simp_all
      · rfl

theorem mfind_mset (m : Map β) (a b : Nat) (v : β) : mfind (mset m a v) b = if a = b then some v else mfind m b := by
  induction m with
  | nil => simp [mset, mfind]
  | cons e t ih =>
    obtain ⟨k, w⟩ := e
    simp only [mset]
    split
    · simp [mfind]
    · split
      · subst_vars; simp only [mfind]; split <;> simp_all
      · simp only [mfind, ih]
        split
        · split <;> simp_all
        · rfl

theorem mget_mput [DecidableEq β] (m : Map β) (a b : Nat) (v d : β) :
    mget (mput m a v d) b d = if a = b then v else mget m b d := by
  unfold mput
  split
  · subst_vars; exact mget_mdel ..
  · exact mget_mset ..

theorem mget_of_mfind {m : Map β} {a : Nat} {v : β} (d : β) (h : mfind m a = some v) : mget m a d = v := by
  induction m with
  | nil => simp [mfind] at h
  | cons e t ih => obtain ⟨k, w⟩ := e; simp only [mfind, mget] at *; split at h <;> simp_all

theorem mget_map (m : Map β) (f : Nat → β → β) (a : Nat) (d : β) (h : f a d = d) :
    mget (m.map fun e => (e.1, f e.1 e.2)) a d = f a (mget m a d) := by
  induction m with
  | nil => simp [mget, h]
  | cons e t ih => obtain ⟨k, w⟩ := e; simp only [List.map, mget]; split <;> simp_all

/-! ### Canonical form -/

theorem mrising_mono {m : Map β} {a b : Nat} (h : mrising m b = true) (hab : a ≤ b) : mrising m a = true := by
  cases m with
  | nil => rfl
  | cons e t => obtain ⟨k, w⟩ := e; simp only [mrising, Bool.and_eq_true, decide_eq_true_eq] at *; exact ⟨Nat.le_trans hab h.1, h.2⟩

theorem mrising_mset (m : Map β) (k lo : Nat) (v : β) (h : mrising m lo = true) (hk : lo ≤ k) : mrising (mset m k v) lo = true := by
  induction m generalizing lo with
  | nil => simp [mset, mrising, hk]
  | cons e t ih =>
    obtain ⟨a, b⟩ := e
    simp only [mrising, Bool.and_eq_true, decide_eq_true_eq] at h
    simp only [mset]
    split
    · simp only [mrising, Bool.and_eq_true, decide_eq_true_eq]; exact ⟨hk, by omega, h.2⟩
    · split
      · subst_vars; simp only [mrising, Bool.and_eq_true, decide_eq_true_eq]; exact ⟨hk, h.2⟩
      · simp only [mrising, Bool.and_eq_true, decide_eq_true_eq]; exact ⟨h.1, ih (a + 1) h.2 (by omega)⟩

theorem mrising_mdel (m : Map β) (k lo : Nat) (h : mrising m lo = true) : mrising (mdel m k) lo = true := by
  induction m generalizing lo with
  | nil => rfl
  | cons e t ih =>
    obtain ⟨a, b⟩ := e
    simp only [mrising, Bool.and_eq_true, decide_eq_true_eq] at h
    simp only [mdel]
    split
    · exact mrising_mono (ih _ h.2) (by omega)
    · simp only [mrising, Bool.and_eq_true, decide_eq_true_eq]; exact ⟨h.1, ih _ h.2⟩

theorem all_mset {p : Nat × β → Bool} (m : Map β) (k : Nat) (v : β) (h : m.all p = true) (hv : p (k, v) = true) :
    (mset m k v).all p = true := by
  induction m with
  | nil => simp [mset, hv]
  | cons e t ih =>
    obtain ⟨a, b⟩ := e
    simp only [List.all_cons, Bool.and_eq_true] at h
    simp only [mset]
    split
    · simp [hv, h]
    · split
      · subst_vars; simp [hv, h.2]
      · simp [ih h.2, h.1]

theorem all_mdel {p : Nat × β → Bool} (m : Map β) (k : Nat) (h : m.all p = true) : (mdel m k).all p = true := by
  induction m with
  | nil => rfl
  | cons e t ih =>
    obtain ⟨a, b⟩ := e
    simp only [List.all_cons, Bool.and_eq_true] at h
    simp only [mdel]
    split
    · exact ih h.2
    · simp [ih h.2, h.1]

theorem mrising_filter (m : Map β) (p : Nat × β → Bool) (lo : Nat) (h : mrising m lo = true) : mrising (m.filter p) lo = true := by
  induction m generalizing lo with
  | nil => rfl
  | cons e t ih =>
    obtain ⟨a, b⟩ := e
    simp only [mrising, Bool.and_eq_true, decide_eq_true_eq] at h
    simp only [List.filter]
    split
    · simp only [mrising, Bool.and_eq_true, decide_eq_true_eq]; exact ⟨h.1, ih _ h.2⟩
    · exact mrising_mono (ih _ h.2) (by omega)

/-- A write keeps the canonical form. -/
theorem mwf_mput [DecidableEq β] (m : Map β) (k : Nat) (v d : β) (h : mwf m d = true) : mwf (mput m k v d) d = true := by
  simp only [mwf, Bool.and_eq_true] at *
  unfold mput
  split
  · exact ⟨mrising_mdel m k 0 h.1, all_mdel m k h.2⟩
  · next hv => exact ⟨mrising_mset m k 0 v h.1 (Nat.zero_le _), all_mset m k v h.2 (by simpa using hv)⟩

theorem mwf_filter [DecidableEq β] (m : Map β) (p : Nat × β → Bool) (d : β) (h : mwf m d = true) : mwf (m.filter p) d = true := by
  simp only [mwf, Bool.and_eq_true] at *
  refine ⟨mrising_filter m p 0 h.1, ?_⟩
  simp only [List.all_eq_true, List.mem_filter] at *
  exact fun e he => h.2 e he.1

end

/-! ### Memories -/

theorem wf_nil : Memory.wf [] = true := rfl

theorem wf_writeByte (m : Map Byte) (a : Nat) (b : Byte) (h : Memory.wf m = true) : Memory.wf (writeByte m a b) = true :=
  mwf_mput m a b 0 h

theorem wf_writeNat (m : Map Byte) (a n v : Nat) (h : Memory.wf m = true) : Memory.wf (writeNat m a n v) = true := by
  induction n generalizing m a v with
  | zero => exact h
  | succ n ih => exact ih _ _ _ (wf_writeByte m a _ h)

theorem wf_writeMasked (m : Map Byte) (a n v mask : Nat) (h : Memory.wf m = true) :
    Memory.wf (writeMasked m a n v mask) = true := by
  induction n generalizing m a v mask with
  | zero => exact h
  | succ n ih =>
    refine ih _ _ _ _ ?_
    split
    · exact wf_writeByte m a _ h
    · exact h

theorem wf_filter (m : Map Byte) (p : Nat × Byte → Bool) (h : Memory.wf m = true) : Memory.wf (m.filter p) = true :=
  mwf_filter m p 0 h

/-- Reading a byte after writing one. -/
theorem mget_writeByte (m : Map Byte) (a b : Nat) (v : Byte) : mget (writeByte m a v) b 0 = if a = b then v else mget m b 0 :=
  mget_mput m a b v 0

/-- A masked write changes only the bytes whose mask bit is set. -/
theorem mget_writeMasked (m : Map Byte) (a n v mask b : Nat) :
    mget (writeMasked m a n v mask) b 0 =
      if a ≤ b ∧ b < a + n ∧ bitOf mask (b - a) = true then BitVec.ofNat 8 (v / 256 ^ (b - a)) else mget m b 0 := by
  induction n generalizing m a v mask with
  | zero => simp only [writeMasked]; rw [if_neg (by omega)]
  | succ n ih =>
    simp only [writeMasked, ih]
    by_cases hb : b = a
    · subst hb
      rw [if_neg (by omega)]
      simp only [Nat.sub_self, bitOf, Nat.pow_zero, Nat.div_one, Nat.le_refl, true_and]
      by_cases hm : mask % 2 = 1
      · rw [if_pos hm, mget_writeByte, if_pos rfl, if_pos ⟨by omega, by simpa using hm⟩]
      · rw [if_neg hm, if_neg (by simp [hm])]
    · have hx : mget (if mask % 2 = 1 then writeByte m a (BitVec.ofNat 8 v) else m) b 0 = mget m b 0 := by
        split
        · rw [mget_writeByte, if_neg (fun h => hb h.symm)]
        · rfl
      rw [hx]
      by_cases hr : a ≤ b ∧ b < a + (n + 1)
      · have e1 : b - a = (b - (a + 1)) + 1 := by omega
        have e2 : bitOf (mask / 2) (b - (a + 1)) = bitOf mask (b - a) := by
          rw [e1]; simp only [bitOf, Nat.div_div_eq_div_mul, Nat.pow_succ, Nat.mul_comm]
        have e3 : v / 256 / 256 ^ (b - (a + 1)) = v / 256 ^ (b - a) := by
          rw [e1, Nat.div_div_eq_div_mul, Nat.pow_succ, Nat.mul_comm]
        rw [e2, e3]
        by_cases hm : bitOf mask (b - a) = true
        · rw [if_pos ⟨by omega, by omega, hm⟩, if_pos ⟨by omega, by omega, hm⟩]
        · rw [if_neg (fun h => hm h.2.2), if_neg (fun h => hm h.2.2)]
      · rw [if_neg (fun h => hr ⟨by omega, by omega⟩), if_neg (fun h => hr ⟨h.1, h.2.1⟩)]

/-- A write changes only its bytes. -/
theorem mget_writeNat (m : Map Byte) (a n v b : Nat) :
    mget (writeNat m a n v) b 0 = if a ≤ b ∧ b < a + n then BitVec.ofNat 8 (v / 256 ^ (b - a)) else mget m b 0 := by
  induction n generalizing m a v with
  | zero => simp only [writeNat]; rw [if_neg (by omega)]
  | succ n ih =>
    simp only [writeNat, ih]
    by_cases hb : b = a
    · subst hb; rw [if_neg (by omega), mget_writeByte, if_pos rfl, if_pos (by omega)]; simp
    · have hab : ¬ a = b := fun h => hb h.symm
      rw [mget_writeByte, if_neg hab]
      by_cases hr : a ≤ b ∧ b < a + (n + 1)
      · have e1 : b - a = (b - (a + 1)) + 1 := by omega
        rw [if_pos (by omega), if_pos (by omega), e1, Nat.div_div_eq_div_mul, Nat.pow_succ, Nat.mul_comm (256 ^ _) 256]
      · rw [if_neg (by omega), if_neg hr]

/-- Bytes outside a write read as before. -/
theorem readNat_writeNat_other (m : Map Byte) (a n v b k : Nat) (h : b + k ≤ a ∨ a + n ≤ b) :
    readNat (writeNat m a n v) b k = readNat m b k := by
  induction k generalizing b with
  | zero => rfl
  | succ k ih =>
    simp only [readNat, ih (b + 1) (by omega)]
    rw [mget_writeNat, if_neg (by omega)]

/-- A read of a write gives the bytes written. -/
theorem readNat_writeNat_same (m : Map Byte) (a n v : Nat) : readNat (writeNat m a n v) a n = v % 256 ^ n := by
  have key : ∀ k, k ≤ n → readNat (writeNat m a n v) (a + (n - k)) k = v / 256 ^ (n - k) % 256 ^ k := by
    intro k
    induction k with
    | zero => intro _; simp [readNat, Nat.mod_one]
    | succ k ih =>
      intro hk
      have e : a + (n - (k + 1)) + 1 = a + (n - k) := by omega
      simp only [readNat, e, ih (by omega)]
      rw [mget_writeNat, if_pos (by omega)]
      have e2 : a + (n - (k + 1)) - a = n - (k + 1) := by omega
      have e3 : n - k = (n - (k + 1)) + 1 := by omega
      rw [e2, e3, BitVec.toNat_ofNat, Nat.pow_succ 256 (n - (k + 1)), ← Nat.div_div_eq_div_mul]
      generalize v / 256 ^ (n - (k + 1)) = w
      have : 2 ^ 8 = 256 := rfl
      rw [this, Nat.pow_succ, Nat.mul_comm (256 ^ k) 256, Nat.mod_mul]
  simpa using key n (Nat.le_refl n)

end Sys2Proof.Machine
end

