-- ==== Sys2Proof/Laws/State.lean ====
section
/-! SUPPORT. What each update of the state leaves: one lemma for each field and update, and the parts read back. -/

namespace Sys2Proof.Machine

/-! ### modCore -/

@[simp] theorem modCore_time (s : State) (c : Nat) (f : Core → Core) : (modCore s c f).time = s.time := rfl
@[simp] theorem modCore_agenda (s : State) (c : Nat) (f : Core → Core) : (modCore s c f).agenda = s.agenda := rfl
@[simp] theorem modCore_focus (s : State) (c : Nat) (f : Core → Core) : (modCore s c f).focus = s.focus := rfl
@[simp] theorem modCore_latch (s : State) (c : Nat) (f : Core → Core) : (modCore s c f).latch = s.latch := rfl
@[simp] theorem modCore_free (s : State) (c : Nat) (f : Core → Core) : (modCore s c f).free = s.free := rfl
@[simp] theorem modCore_seq (s : State) (c : Nat) (f : Core → Core) : (modCore s c f).seq = s.seq := rfl
@[simp] theorem modCore_ctxs (s : State) (c : Nat) (f : Core → Core) : (modCore s c f).ctxs = s.ctxs := rfl
@[simp] theorem modCore_mem (s : State) (c : Nat) (f : Core → Core) : (modCore s c f).mem = s.mem := rfl
@[simp] theorem modCore_chip (s : State) (c : Nat) (f : Core → Core) : (modCore s c f).chip = s.chip := rfl
@[simp] theorem modCore_cluster (s : State) (c : Nat) (f : Core → Core) : (modCore s c f).cluster = s.cluster := rfl
@[simp] theorem modCore_badLines (s : State) (c : Nat) (f : Core → Core) : (modCore s c f).badLines = s.badLines := rfl
@[simp] theorem modCore_badChip (s : State) (c : Nat) (f : Core → Core) : (modCore s c f).badChip = s.badChip := rfl
@[simp] theorem modCore_badCluster (s : State) (c : Nat) (f : Core → Core) : (modCore s c f).badCluster = s.badCluster := rfl
@[simp] theorem modCore_slices (s : State) (c : Nat) (f : Core → Core) : (modCore s c f).slices = s.slices := rfl
@[simp] theorem modCore_stores (s : State) (c : Nat) (f : Core → Core) : (modCore s c f).stores = s.stores := rfl
@[simp] theorem modCore_cluLines (s : State) (c : Nat) (f : Core → Core) : (modCore s c f).cluLines = s.cluLines := rfl
@[simp] theorem modCore_replicas (s : State) (c : Nat) (f : Core → Core) : (modCore s c f).replicas = s.replicas := rfl
@[simp] theorem modCore_owners (s : State) (c : Nat) (f : Core → Core) : (modCore s c f).owners = s.owners := rfl
@[simp] theorem modCore_kettles (s : State) (c : Nat) (f : Core → Core) : (modCore s c f).kettles = s.kettles := rfl
@[simp] theorem modCore_retiredFrames (s : State) (c : Nat) (f : Core → Core) : (modCore s c f).retiredFrames = s.retiredFrames := rfl
@[simp] theorem modCore_mmio (s : State) (c : Nat) (f : Core → Core) : (modCore s c f).mmio = s.mmio := rfl
@[simp] theorem modCore_hatchq (s : State) (c : Nat) (f : Core → Core) : (modCore s c f).hatchq = s.hatchq := rfl
@[simp] theorem modCore_peeps (s : State) (c : Nat) (f : Core → Core) : (modCore s c f).peeps = s.peeps := rfl
@[simp] theorem modCore_windows (s : State) (c : Nat) (f : Core → Core) : (modCore s c f).windows = s.windows := rfl
@[simp] theorem modCore_engines (s : State) (c : Nat) (f : Core → Core) : (modCore s c f).engines = s.engines := rfl
@[simp] theorem modCore_mvuCredit (s : State) (c : Nat) (f : Core → Core) : (modCore s c f).mvuCredit = s.mvuCredit := rfl
@[simp] theorem modCore_queues (s : State) (c : Nat) (f : Core → Core) : (modCore s c f).queues = s.queues := rfl
@[simp] theorem modCore_barriers (s : State) (c : Nat) (f : Core → Core) : (modCore s c f).barriers = s.barriers := rfl
@[simp] theorem modCore_slots (s : State) (c : Nat) (f : Core → Core) : (modCore s c f).slots = s.slots := rfl
@[simp] theorem modCore_jobs (s : State) (c : Nat) (f : Core → Core) : (modCore s c f).jobs = s.jobs := rfl
@[simp] theorem modCore_regions (s : State) (c : Nat) (f : Core → Core) : (modCore s c f).regions = s.regions := rfl
@[simp] theorem modCore_tasks (s : State) (c : Nat) (f : Core → Core) : (modCore s c f).tasks = s.tasks := rfl
@[simp] theorem modCore_islands (s : State) (c : Nat) (f : Core → Core) : (modCore s c f).islands = s.islands := rfl
@[simp] theorem modCore_gov (s : State) (c : Nat) (f : Core → Core) : (modCore s c f).gov = s.gov := rfl
@[simp] theorem modCore_control (s : State) (c : Nat) (f : Core → Core) : (modCore s c f).control = s.control := rfl
@[simp] theorem modCore_parts (s : State) (c : Nat) (f : Core → Core) : (modCore s c f).parts = s.parts := rfl
@[simp] theorem modCore_streams (s : State) (c : Nat) (f : Core → Core) : (modCore s c f).streams = s.streams := rfl
@[simp] theorem modCore_faults (s : State) (c : Nat) (f : Core → Core) : (modCore s c f).faults = s.faults := rfl
@[simp] theorem modCore_swaps (s : State) (c : Nat) (f : Core → Core) : (modCore s c f).swaps = s.swaps := rfl

/-! ### putCtx -/

@[simp] theorem putCtx_time (s : State) (c x : Nat) (k : Ctx) : (putCtx s c x k).time = s.time := rfl
@[simp] theorem putCtx_agenda (s : State) (c x : Nat) (k : Ctx) : (putCtx s c x k).agenda = s.agenda := rfl
@[simp] theorem putCtx_focus (s : State) (c x : Nat) (k : Ctx) : (putCtx s c x k).focus = s.focus := rfl
@[simp] theorem putCtx_latch (s : State) (c x : Nat) (k : Ctx) : (putCtx s c x k).latch = s.latch := rfl
@[simp] theorem putCtx_free (s : State) (c x : Nat) (k : Ctx) : (putCtx s c x k).free = s.free := rfl
@[simp] theorem putCtx_seq (s : State) (c x : Nat) (k : Ctx) : (putCtx s c x k).seq = s.seq := rfl
@[simp] theorem putCtx_cores (s : State) (c x : Nat) (k : Ctx) : (putCtx s c x k).cores = s.cores := rfl
@[simp] theorem putCtx_mem (s : State) (c x : Nat) (k : Ctx) : (putCtx s c x k).mem = s.mem := rfl
@[simp] theorem putCtx_chip (s : State) (c x : Nat) (k : Ctx) : (putCtx s c x k).chip = s.chip := rfl
@[simp] theorem putCtx_cluster (s : State) (c x : Nat) (k : Ctx) : (putCtx s c x k).cluster = s.cluster := rfl
@[simp] theorem putCtx_badLines (s : State) (c x : Nat) (k : Ctx) : (putCtx s c x k).badLines = s.badLines := rfl
@[simp] theorem putCtx_badChip (s : State) (c x : Nat) (k : Ctx) : (putCtx s c x k).badChip = s.badChip := rfl
@[simp] theorem putCtx_badCluster (s : State) (c x : Nat) (k : Ctx) : (putCtx s c x k).badCluster = s.badCluster := rfl
@[simp] theorem putCtx_slices (s : State) (c x : Nat) (k : Ctx) : (putCtx s c x k).slices = s.slices := rfl
@[simp] theorem putCtx_stores (s : State) (c x : Nat) (k : Ctx) : (putCtx s c x k).stores = s.stores := rfl
@[simp] theorem putCtx_cluLines (s : State) (c x : Nat) (k : Ctx) : (putCtx s c x k).cluLines = s.cluLines := rfl
@[simp] theorem putCtx_replicas (s : State) (c x : Nat) (k : Ctx) : (putCtx s c x k).replicas = s.replicas := rfl
@[simp] theorem putCtx_owners (s : State) (c x : Nat) (k : Ctx) : (putCtx s c x k).owners = s.owners := rfl
@[simp] theorem putCtx_kettles (s : State) (c x : Nat) (k : Ctx) : (putCtx s c x k).kettles = s.kettles := rfl
@[simp] theorem putCtx_retiredFrames (s : State) (c x : Nat) (k : Ctx) : (putCtx s c x k).retiredFrames = s.retiredFrames := rfl
@[simp] theorem putCtx_mmio (s : State) (c x : Nat) (k : Ctx) : (putCtx s c x k).mmio = s.mmio := rfl
@[simp] theorem putCtx_hatchq (s : State) (c x : Nat) (k : Ctx) : (putCtx s c x k).hatchq = s.hatchq := rfl
@[simp] theorem putCtx_peeps (s : State) (c x : Nat) (k : Ctx) : (putCtx s c x k).peeps = s.peeps := rfl
@[simp] theorem putCtx_windows (s : State) (c x : Nat) (k : Ctx) : (putCtx s c x k).windows = s.windows := rfl
@[simp] theorem putCtx_engines (s : State) (c x : Nat) (k : Ctx) : (putCtx s c x k).engines = s.engines := rfl
@[simp] theorem putCtx_mvuCredit (s : State) (c x : Nat) (k : Ctx) : (putCtx s c x k).mvuCredit = s.mvuCredit := rfl
@[simp] theorem putCtx_queues (s : State) (c x : Nat) (k : Ctx) : (putCtx s c x k).queues = s.queues := rfl
@[simp] theorem putCtx_barriers (s : State) (c x : Nat) (k : Ctx) : (putCtx s c x k).barriers = s.barriers := rfl
@[simp] theorem putCtx_slots (s : State) (c x : Nat) (k : Ctx) : (putCtx s c x k).slots = s.slots := rfl
@[simp] theorem putCtx_jobs (s : State) (c x : Nat) (k : Ctx) : (putCtx s c x k).jobs = s.jobs := rfl
@[simp] theorem putCtx_regions (s : State) (c x : Nat) (k : Ctx) : (putCtx s c x k).regions = s.regions := rfl
@[simp] theorem putCtx_tasks (s : State) (c x : Nat) (k : Ctx) : (putCtx s c x k).tasks = s.tasks := rfl
@[simp] theorem putCtx_islands (s : State) (c x : Nat) (k : Ctx) : (putCtx s c x k).islands = s.islands := rfl
@[simp] theorem putCtx_gov (s : State) (c x : Nat) (k : Ctx) : (putCtx s c x k).gov = s.gov := rfl
@[simp] theorem putCtx_control (s : State) (c x : Nat) (k : Ctx) : (putCtx s c x k).control = s.control := rfl
@[simp] theorem putCtx_parts (s : State) (c x : Nat) (k : Ctx) : (putCtx s c x k).parts = s.parts := rfl
@[simp] theorem putCtx_streams (s : State) (c x : Nat) (k : Ctx) : (putCtx s c x k).streams = s.streams := rfl
@[simp] theorem putCtx_faults (s : State) (c x : Nat) (k : Ctx) : (putCtx s c x k).faults = s.faults := rfl
@[simp] theorem putCtx_swaps (s : State) (c x : Nat) (k : Ctx) : (putCtx s c x k).swaps = s.swaps := rfl

/-! ### modCtx -/

@[simp] theorem modCtx_time (s : State) (c x : Nat) (f : Ctx → Ctx) : (modCtx s c x f).time = s.time := rfl
@[simp] theorem modCtx_agenda (s : State) (c x : Nat) (f : Ctx → Ctx) : (modCtx s c x f).agenda = s.agenda := rfl
@[simp] theorem modCtx_focus (s : State) (c x : Nat) (f : Ctx → Ctx) : (modCtx s c x f).focus = s.focus := rfl
@[simp] theorem modCtx_latch (s : State) (c x : Nat) (f : Ctx → Ctx) : (modCtx s c x f).latch = s.latch := rfl
@[simp] theorem modCtx_free (s : State) (c x : Nat) (f : Ctx → Ctx) : (modCtx s c x f).free = s.free := rfl
@[simp] theorem modCtx_seq (s : State) (c x : Nat) (f : Ctx → Ctx) : (modCtx s c x f).seq = s.seq := rfl
@[simp] theorem modCtx_cores (s : State) (c x : Nat) (f : Ctx → Ctx) : (modCtx s c x f).cores = s.cores := rfl
@[simp] theorem modCtx_mem (s : State) (c x : Nat) (f : Ctx → Ctx) : (modCtx s c x f).mem = s.mem := rfl
@[simp] theorem modCtx_chip (s : State) (c x : Nat) (f : Ctx → Ctx) : (modCtx s c x f).chip = s.chip := rfl
@[simp] theorem modCtx_cluster (s : State) (c x : Nat) (f : Ctx → Ctx) : (modCtx s c x f).cluster = s.cluster := rfl
@[simp] theorem modCtx_badLines (s : State) (c x : Nat) (f : Ctx → Ctx) : (modCtx s c x f).badLines = s.badLines := rfl
@[simp] theorem modCtx_badChip (s : State) (c x : Nat) (f : Ctx → Ctx) : (modCtx s c x f).badChip = s.badChip := rfl
@[simp] theorem modCtx_badCluster (s : State) (c x : Nat) (f : Ctx → Ctx) : (modCtx s c x f).badCluster = s.badCluster := rfl
@[simp] theorem modCtx_slices (s : State) (c x : Nat) (f : Ctx → Ctx) : (modCtx s c x f).slices = s.slices := rfl
@[simp] theorem modCtx_stores (s : State) (c x : Nat) (f : Ctx → Ctx) : (modCtx s c x f).stores = s.stores := rfl
@[simp] theorem modCtx_cluLines (s : State) (c x : Nat) (f : Ctx → Ctx) : (modCtx s c x f).cluLines = s.cluLines := rfl
@[simp] theorem modCtx_replicas (s : State) (c x : Nat) (f : Ctx → Ctx) : (modCtx s c x f).replicas = s.replicas := rfl
@[simp] theorem modCtx_owners (s : State) (c x : Nat) (f : Ctx → Ctx) : (modCtx s c x f).owners = s.owners := rfl
@[simp] theorem modCtx_kettles (s : State) (c x : Nat) (f : Ctx → Ctx) : (modCtx s c x f).kettles = s.kettles := rfl
@[simp] theorem modCtx_retiredFrames (s : State) (c x : Nat) (f : Ctx → Ctx) : (modCtx s c x f).retiredFrames = s.retiredFrames := rfl
@[simp] theorem modCtx_mmio (s : State) (c x : Nat) (f : Ctx → Ctx) : (modCtx s c x f).mmio = s.mmio := rfl
@[simp] theorem modCtx_hatchq (s : State) (c x : Nat) (f : Ctx → Ctx) : (modCtx s c x f).hatchq = s.hatchq := rfl
@[simp] theorem modCtx_peeps (s : State) (c x : Nat) (f : Ctx → Ctx) : (modCtx s c x f).peeps = s.peeps := rfl
@[simp] theorem modCtx_windows (s : State) (c x : Nat) (f : Ctx → Ctx) : (modCtx s c x f).windows = s.windows := rfl
@[simp] theorem modCtx_engines (s : State) (c x : Nat) (f : Ctx → Ctx) : (modCtx s c x f).engines = s.engines := rfl
@[simp] theorem modCtx_mvuCredit (s : State) (c x : Nat) (f : Ctx → Ctx) : (modCtx s c x f).mvuCredit = s.mvuCredit := rfl
@[simp] theorem modCtx_queues (s : State) (c x : Nat) (f : Ctx → Ctx) : (modCtx s c x f).queues = s.queues := rfl
@[simp] theorem modCtx_barriers (s : State) (c x : Nat) (f : Ctx → Ctx) : (modCtx s c x f).barriers = s.barriers := rfl
@[simp] theorem modCtx_slots (s : State) (c x : Nat) (f : Ctx → Ctx) : (modCtx s c x f).slots = s.slots := rfl
@[simp] theorem modCtx_jobs (s : State) (c x : Nat) (f : Ctx → Ctx) : (modCtx s c x f).jobs = s.jobs := rfl
@[simp] theorem modCtx_regions (s : State) (c x : Nat) (f : Ctx → Ctx) : (modCtx s c x f).regions = s.regions := rfl
@[simp] theorem modCtx_tasks (s : State) (c x : Nat) (f : Ctx → Ctx) : (modCtx s c x f).tasks = s.tasks := rfl
@[simp] theorem modCtx_islands (s : State) (c x : Nat) (f : Ctx → Ctx) : (modCtx s c x f).islands = s.islands := rfl
@[simp] theorem modCtx_gov (s : State) (c x : Nat) (f : Ctx → Ctx) : (modCtx s c x f).gov = s.gov := rfl
@[simp] theorem modCtx_control (s : State) (c x : Nat) (f : Ctx → Ctx) : (modCtx s c x f).control = s.control := rfl
@[simp] theorem modCtx_parts (s : State) (c x : Nat) (f : Ctx → Ctx) : (modCtx s c x f).parts = s.parts := rfl
@[simp] theorem modCtx_streams (s : State) (c x : Nat) (f : Ctx → Ctx) : (modCtx s c x f).streams = s.streams := rfl
@[simp] theorem modCtx_faults (s : State) (c x : Nat) (f : Ctx → Ctx) : (modCtx s c x f).faults = s.faults := rfl
@[simp] theorem modCtx_swaps (s : State) (c x : Nat) (f : Ctx → Ctx) : (modCtx s c x f).swaps = s.swaps := rfl

/-! ### dropCtx -/

@[simp] theorem dropCtx_time (s : State) (c x : Nat) : (dropCtx s c x).time = s.time := rfl
@[simp] theorem dropCtx_agenda (s : State) (c x : Nat) : (dropCtx s c x).agenda = s.agenda := rfl
@[simp] theorem dropCtx_focus (s : State) (c x : Nat) : (dropCtx s c x).focus = s.focus := rfl
@[simp] theorem dropCtx_latch (s : State) (c x : Nat) : (dropCtx s c x).latch = s.latch := rfl
@[simp] theorem dropCtx_free (s : State) (c x : Nat) : (dropCtx s c x).free = s.free := rfl
@[simp] theorem dropCtx_seq (s : State) (c x : Nat) : (dropCtx s c x).seq = s.seq := rfl
@[simp] theorem dropCtx_cores (s : State) (c x : Nat) : (dropCtx s c x).cores = s.cores := rfl
@[simp] theorem dropCtx_mem (s : State) (c x : Nat) : (dropCtx s c x).mem = s.mem := rfl
@[simp] theorem dropCtx_chip (s : State) (c x : Nat) : (dropCtx s c x).chip = s.chip := rfl
@[simp] theorem dropCtx_cluster (s : State) (c x : Nat) : (dropCtx s c x).cluster = s.cluster := rfl
@[simp] theorem dropCtx_badLines (s : State) (c x : Nat) : (dropCtx s c x).badLines = s.badLines := rfl
@[simp] theorem dropCtx_badChip (s : State) (c x : Nat) : (dropCtx s c x).badChip = s.badChip := rfl
@[simp] theorem dropCtx_badCluster (s : State) (c x : Nat) : (dropCtx s c x).badCluster = s.badCluster := rfl
@[simp] theorem dropCtx_slices (s : State) (c x : Nat) : (dropCtx s c x).slices = s.slices := rfl
@[simp] theorem dropCtx_stores (s : State) (c x : Nat) : (dropCtx s c x).stores = s.stores := rfl
@[simp] theorem dropCtx_cluLines (s : State) (c x : Nat) : (dropCtx s c x).cluLines = s.cluLines := rfl
@[simp] theorem dropCtx_replicas (s : State) (c x : Nat) : (dropCtx s c x).replicas = s.replicas := rfl
@[simp] theorem dropCtx_owners (s : State) (c x : Nat) : (dropCtx s c x).owners = s.owners := rfl
@[simp] theorem dropCtx_kettles (s : State) (c x : Nat) : (dropCtx s c x).kettles = s.kettles := rfl
@[simp] theorem dropCtx_retiredFrames (s : State) (c x : Nat) : (dropCtx s c x).retiredFrames = s.retiredFrames := rfl
@[simp] theorem dropCtx_mmio (s : State) (c x : Nat) : (dropCtx s c x).mmio = s.mmio := rfl
@[simp] theorem dropCtx_hatchq (s : State) (c x : Nat) : (dropCtx s c x).hatchq = s.hatchq := rfl
@[simp] theorem dropCtx_peeps (s : State) (c x : Nat) : (dropCtx s c x).peeps = s.peeps := rfl
@[simp] theorem dropCtx_windows (s : State) (c x : Nat) : (dropCtx s c x).windows = s.windows := rfl
@[simp] theorem dropCtx_engines (s : State) (c x : Nat) : (dropCtx s c x).engines = s.engines := rfl
@[simp] theorem dropCtx_mvuCredit (s : State) (c x : Nat) : (dropCtx s c x).mvuCredit = s.mvuCredit := rfl
@[simp] theorem dropCtx_queues (s : State) (c x : Nat) : (dropCtx s c x).queues = s.queues := rfl
@[simp] theorem dropCtx_barriers (s : State) (c x : Nat) : (dropCtx s c x).barriers = s.barriers := rfl
@[simp] theorem dropCtx_slots (s : State) (c x : Nat) : (dropCtx s c x).slots = s.slots := rfl
@[simp] theorem dropCtx_jobs (s : State) (c x : Nat) : (dropCtx s c x).jobs = s.jobs := rfl
@[simp] theorem dropCtx_regions (s : State) (c x : Nat) : (dropCtx s c x).regions = s.regions := rfl
@[simp] theorem dropCtx_tasks (s : State) (c x : Nat) : (dropCtx s c x).tasks = s.tasks := rfl
@[simp] theorem dropCtx_islands (s : State) (c x : Nat) : (dropCtx s c x).islands = s.islands := rfl
@[simp] theorem dropCtx_gov (s : State) (c x : Nat) : (dropCtx s c x).gov = s.gov := rfl
@[simp] theorem dropCtx_control (s : State) (c x : Nat) : (dropCtx s c x).control = s.control := rfl
@[simp] theorem dropCtx_parts (s : State) (c x : Nat) : (dropCtx s c x).parts = s.parts := rfl
@[simp] theorem dropCtx_streams (s : State) (c x : Nat) : (dropCtx s c x).streams = s.streams := rfl
@[simp] theorem dropCtx_faults (s : State) (c x : Nat) : (dropCtx s c x).faults = s.faults := rfl
@[simp] theorem dropCtx_swaps (s : State) (c x : Nat) : (dropCtx s c x).swaps = s.swaps := rfl

/-! ### modIsland -/

@[simp] theorem modIsland_time (s : State) (i : Nat) (f : Island → Island) : (modIsland s i f).time = s.time := rfl
@[simp] theorem modIsland_agenda (s : State) (i : Nat) (f : Island → Island) : (modIsland s i f).agenda = s.agenda := rfl
@[simp] theorem modIsland_focus (s : State) (i : Nat) (f : Island → Island) : (modIsland s i f).focus = s.focus := rfl
@[simp] theorem modIsland_latch (s : State) (i : Nat) (f : Island → Island) : (modIsland s i f).latch = s.latch := rfl
@[simp] theorem modIsland_free (s : State) (i : Nat) (f : Island → Island) : (modIsland s i f).free = s.free := rfl
@[simp] theorem modIsland_seq (s : State) (i : Nat) (f : Island → Island) : (modIsland s i f).seq = s.seq := rfl
@[simp] theorem modIsland_cores (s : State) (i : Nat) (f : Island → Island) : (modIsland s i f).cores = s.cores := rfl
@[simp] theorem modIsland_ctxs (s : State) (i : Nat) (f : Island → Island) : (modIsland s i f).ctxs = s.ctxs := rfl
@[simp] theorem modIsland_mem (s : State) (i : Nat) (f : Island → Island) : (modIsland s i f).mem = s.mem := rfl
@[simp] theorem modIsland_chip (s : State) (i : Nat) (f : Island → Island) : (modIsland s i f).chip = s.chip := rfl
@[simp] theorem modIsland_cluster (s : State) (i : Nat) (f : Island → Island) : (modIsland s i f).cluster = s.cluster := rfl
@[simp] theorem modIsland_badLines (s : State) (i : Nat) (f : Island → Island) : (modIsland s i f).badLines = s.badLines := rfl
@[simp] theorem modIsland_badChip (s : State) (i : Nat) (f : Island → Island) : (modIsland s i f).badChip = s.badChip := rfl
@[simp] theorem modIsland_badCluster (s : State) (i : Nat) (f : Island → Island) : (modIsland s i f).badCluster = s.badCluster := rfl
@[simp] theorem modIsland_slices (s : State) (i : Nat) (f : Island → Island) : (modIsland s i f).slices = s.slices := rfl
@[simp] theorem modIsland_stores (s : State) (i : Nat) (f : Island → Island) : (modIsland s i f).stores = s.stores := rfl
@[simp] theorem modIsland_cluLines (s : State) (i : Nat) (f : Island → Island) : (modIsland s i f).cluLines = s.cluLines := rfl
@[simp] theorem modIsland_replicas (s : State) (i : Nat) (f : Island → Island) : (modIsland s i f).replicas = s.replicas := rfl
@[simp] theorem modIsland_owners (s : State) (i : Nat) (f : Island → Island) : (modIsland s i f).owners = s.owners := rfl
@[simp] theorem modIsland_kettles (s : State) (i : Nat) (f : Island → Island) : (modIsland s i f).kettles = s.kettles := rfl
@[simp] theorem modIsland_retiredFrames (s : State) (i : Nat) (f : Island → Island) : (modIsland s i f).retiredFrames = s.retiredFrames := rfl
@[simp] theorem modIsland_mmio (s : State) (i : Nat) (f : Island → Island) : (modIsland s i f).mmio = s.mmio := rfl
@[simp] theorem modIsland_hatchq (s : State) (i : Nat) (f : Island → Island) : (modIsland s i f).hatchq = s.hatchq := rfl
@[simp] theorem modIsland_peeps (s : State) (i : Nat) (f : Island → Island) : (modIsland s i f).peeps = s.peeps := rfl
@[simp] theorem modIsland_windows (s : State) (i : Nat) (f : Island → Island) : (modIsland s i f).windows = s.windows := rfl
@[simp] theorem modIsland_engines (s : State) (i : Nat) (f : Island → Island) : (modIsland s i f).engines = s.engines := rfl
@[simp] theorem modIsland_mvuCredit (s : State) (i : Nat) (f : Island → Island) : (modIsland s i f).mvuCredit = s.mvuCredit := rfl
@[simp] theorem modIsland_queues (s : State) (i : Nat) (f : Island → Island) : (modIsland s i f).queues = s.queues := rfl
@[simp] theorem modIsland_barriers (s : State) (i : Nat) (f : Island → Island) : (modIsland s i f).barriers = s.barriers := rfl
@[simp] theorem modIsland_slots (s : State) (i : Nat) (f : Island → Island) : (modIsland s i f).slots = s.slots := rfl
@[simp] theorem modIsland_jobs (s : State) (i : Nat) (f : Island → Island) : (modIsland s i f).jobs = s.jobs := rfl
@[simp] theorem modIsland_regions (s : State) (i : Nat) (f : Island → Island) : (modIsland s i f).regions = s.regions := rfl
@[simp] theorem modIsland_tasks (s : State) (i : Nat) (f : Island → Island) : (modIsland s i f).tasks = s.tasks := rfl
@[simp] theorem modIsland_gov (s : State) (i : Nat) (f : Island → Island) : (modIsland s i f).gov = s.gov := rfl
@[simp] theorem modIsland_control (s : State) (i : Nat) (f : Island → Island) : (modIsland s i f).control = s.control := rfl
@[simp] theorem modIsland_parts (s : State) (i : Nat) (f : Island → Island) : (modIsland s i f).parts = s.parts := rfl
@[simp] theorem modIsland_streams (s : State) (i : Nat) (f : Island → Island) : (modIsland s i f).streams = s.streams := rfl
@[simp] theorem modIsland_faults (s : State) (i : Nat) (f : Island → Island) : (modIsland s i f).faults = s.faults := rfl
@[simp] theorem modIsland_swaps (s : State) (i : Nat) (f : Island → Island) : (modIsland s i f).swaps = s.swaps := rfl

/-! ### bumpFree -/

@[simp] theorem bumpFree_time (s : State) : (bumpFree s).time = s.time := rfl
@[simp] theorem bumpFree_agenda (s : State) : (bumpFree s).agenda = s.agenda := rfl
@[simp] theorem bumpFree_focus (s : State) : (bumpFree s).focus = s.focus := rfl
@[simp] theorem bumpFree_latch (s : State) : (bumpFree s).latch = s.latch := rfl
@[simp] theorem bumpFree_seq (s : State) : (bumpFree s).seq = s.seq := rfl
@[simp] theorem bumpFree_cores (s : State) : (bumpFree s).cores = s.cores := rfl
@[simp] theorem bumpFree_ctxs (s : State) : (bumpFree s).ctxs = s.ctxs := rfl
@[simp] theorem bumpFree_mem (s : State) : (bumpFree s).mem = s.mem := rfl
@[simp] theorem bumpFree_chip (s : State) : (bumpFree s).chip = s.chip := rfl
@[simp] theorem bumpFree_cluster (s : State) : (bumpFree s).cluster = s.cluster := rfl
@[simp] theorem bumpFree_badLines (s : State) : (bumpFree s).badLines = s.badLines := rfl
@[simp] theorem bumpFree_badChip (s : State) : (bumpFree s).badChip = s.badChip := rfl
@[simp] theorem bumpFree_badCluster (s : State) : (bumpFree s).badCluster = s.badCluster := rfl
@[simp] theorem bumpFree_slices (s : State) : (bumpFree s).slices = s.slices := rfl
@[simp] theorem bumpFree_stores (s : State) : (bumpFree s).stores = s.stores := rfl
@[simp] theorem bumpFree_cluLines (s : State) : (bumpFree s).cluLines = s.cluLines := rfl
@[simp] theorem bumpFree_replicas (s : State) : (bumpFree s).replicas = s.replicas := rfl
@[simp] theorem bumpFree_owners (s : State) : (bumpFree s).owners = s.owners := rfl
@[simp] theorem bumpFree_kettles (s : State) : (bumpFree s).kettles = s.kettles := rfl
@[simp] theorem bumpFree_retiredFrames (s : State) : (bumpFree s).retiredFrames = s.retiredFrames := rfl
@[simp] theorem bumpFree_mmio (s : State) : (bumpFree s).mmio = s.mmio := rfl
@[simp] theorem bumpFree_hatchq (s : State) : (bumpFree s).hatchq = s.hatchq := rfl
@[simp] theorem bumpFree_peeps (s : State) : (bumpFree s).peeps = s.peeps := rfl
@[simp] theorem bumpFree_windows (s : State) : (bumpFree s).windows = s.windows := rfl
@[simp] theorem bumpFree_engines (s : State) : (bumpFree s).engines = s.engines := rfl
@[simp] theorem bumpFree_mvuCredit (s : State) : (bumpFree s).mvuCredit = s.mvuCredit := rfl
@[simp] theorem bumpFree_queues (s : State) : (bumpFree s).queues = s.queues := rfl
@[simp] theorem bumpFree_barriers (s : State) : (bumpFree s).barriers = s.barriers := rfl
@[simp] theorem bumpFree_slots (s : State) : (bumpFree s).slots = s.slots := rfl
@[simp] theorem bumpFree_jobs (s : State) : (bumpFree s).jobs = s.jobs := rfl
@[simp] theorem bumpFree_regions (s : State) : (bumpFree s).regions = s.regions := rfl
@[simp] theorem bumpFree_tasks (s : State) : (bumpFree s).tasks = s.tasks := rfl
@[simp] theorem bumpFree_islands (s : State) : (bumpFree s).islands = s.islands := rfl
@[simp] theorem bumpFree_gov (s : State) : (bumpFree s).gov = s.gov := rfl
@[simp] theorem bumpFree_control (s : State) : (bumpFree s).control = s.control := rfl
@[simp] theorem bumpFree_parts (s : State) : (bumpFree s).parts = s.parts := rfl
@[simp] theorem bumpFree_streams (s : State) : (bumpFree s).streams = s.streams := rfl
@[simp] theorem bumpFree_faults (s : State) : (bumpFree s).faults = s.faults := rfl
@[simp] theorem bumpFree_swaps (s : State) : (bumpFree s).swaps = s.swaps := rfl

/-! ### Parts read back -/

theorem getCore_modCore (s : State) (c d : Nat) (f : Core → Core) :
    getCore (modCore s c f) d = if c = d then f (getCore s c) else getCore s d := mget_mset ..
@[simp] theorem getCore_modCore_same (s : State) (c : Nat) (f : Core → Core) : getCore (modCore s c f) c = f (getCore s c) := by
  simp [getCore_modCore]
theorem getCore_modCore_other (s : State) {c d : Nat} (f : Core → Core) (h : d ≠ c) :
    getCore (modCore s c f) d = getCore s d := by simp [getCore_modCore, Ne.symm h]
@[simp] theorem getCore_putCtx (s : State) (c x d : Nat) (k : Ctx) : getCore (putCtx s c x k) d = getCore s d := rfl
@[simp] theorem getCore_modCtx (s : State) (c x d : Nat) (f : Ctx → Ctx) : getCore (modCtx s c x f) d = getCore s d := rfl
@[simp] theorem getCore_modIsland (s : State) (i d : Nat) (f : Island → Island) : getCore (modIsland s i f) d = getCore s d := rfl
@[simp] theorem getCore_bumpFree (s : State) (d : Nat) : getCore (bumpFree s) d = getCore s d := rfl

theorem getCtx_putCtx (s : State) (c x d y : Nat) (k : Ctx) :
    getCtx (putCtx s c x k) d y = if c * 8 + x = d * 8 + y then k else getCtx s d y := mget_mset ..
theorem getCtx_modCtx (s : State) (c x d y : Nat) (f : Ctx → Ctx) :
    getCtx (modCtx s c x f) d y = if c * 8 + x = d * 8 + y then f (getCtx s c x) else getCtx s d y := mget_mset ..
@[simp] theorem getCtx_putCtx_same (s : State) (c x : Nat) (k : Ctx) : getCtx (putCtx s c x k) c x = k := by
  simp [getCtx_putCtx]
@[simp] theorem getCtx_modCtx_same (s : State) (c x : Nat) (f : Ctx → Ctx) : getCtx (modCtx s c x f) c x = f (getCtx s c x) := by
  simp [getCtx_modCtx]
theorem getCtx_modCtx_core (s : State) {c x d y : Nat} (f : Ctx → Ctx) (h : d ≠ c) (hx : x < 8) (hy : y < 8) :
    getCtx (modCtx s c x f) d y = getCtx s d y := by
  rw [getCtx_modCtx, if_neg (by omega)]
theorem getCtx_modCtx_ctx (s : State) {c x y : Nat} (f : Ctx → Ctx) (h : y ≠ x) :
    getCtx (modCtx s c x f) c y = getCtx s c y := by
  rw [getCtx_modCtx, if_neg (by omega)]
@[simp] theorem getCtx_modCore (s : State) (c d y : Nat) (f : Core → Core) : getCtx (modCore s c f) d y = getCtx s d y := rfl
@[simp] theorem getCtx_modIsland (s : State) (i d y : Nat) (f : Island → Island) : getCtx (modIsland s i f) d y = getCtx s d y := rfl
@[simp] theorem getCtx_bumpFree (s : State) (d y : Nat) : getCtx (bumpFree s) d y = getCtx s d y := rfl

theorem getIsland_modIsland (s : State) (i j : Nat) (f : Island → Island) :
    getIsland (modIsland s i f) j = if i = j then f (getIsland s i) else getIsland s j := mget_mset ..
@[simp] theorem getIsland_modIsland_same (s : State) (i : Nat) (f : Island → Island) :
    getIsland (modIsland s i f) i = f (getIsland s i) := by simp [getIsland_modIsland]
@[simp] theorem getIsland_modCore (s : State) (c j : Nat) (f : Core → Core) : getIsland (modCore s c f) j = getIsland s j := rfl
@[simp] theorem getIsland_modCtx (s : State) (c x j : Nat) (f : Ctx → Ctx) : getIsland (modCtx s c x f) j = getIsland s j := rfl
@[simp] theorem getIsland_putCtx (s : State) (c x j : Nat) (k : Ctx) : getIsland (putCtx s c x k) j = getIsland s j := rfl

/-! ### Updates that do nothing where their part is absent -/

/-- What a region, task or partition update can do: nothing, or that map with one entry replaced. -/
theorem modRegion_cases (s : State) (k : Nat) (f : Region → Region) :
    modRegion s k f = s ∨ ∃ r, mfind s.regions k = some r ∧ modRegion s k f = { s with regions := mset s.regions k (f r) } := by
  unfold modRegion; split
  · exact .inr ⟨_, ‹_›, rfl⟩
  · exact .inl rfl
theorem modTask_cases (s : State) (k : Nat) (f : Task → Task) :
    modTask s k f = s ∨ ∃ r, mfind s.tasks k = some r ∧ modTask s k f = { s with tasks := mset s.tasks k (f r) } := by
  unfold modTask; split
  · exact .inr ⟨_, ‹_›, rfl⟩
  · exact .inl rfl
theorem modPart_cases (s : State) (k : Nat) (f : Part → Part) :
    modPart s k f = s ∨ ∃ r, mfind s.parts k = some r ∧ modPart s k f = { s with parts := mset s.parts k (f r) } := by
  unfold modPart; split
  · exact .inr ⟨_, ‹_›, rfl⟩
  · exact .inl rfl

/-! ### Registers -/

@[simp] theorem readS_zero (k : Ctx) : readS k 0 = 0 := rfl
theorem readS_writeS (k : Ctx) (n m : Nat) (v : Word) :
    readS (writeS k n v) m = if n = m ∧ n ≠ 0 then v else readS k m := by
  unfold readS writeS
  by_cases hn : n = 0
  · subst hn; simp
  · by_cases hm : m = 0
    · subst hm; simp [hn]
    · simp [hn, hm, mget_mput]
theorem writeS_zero (k : Ctx) (v : Word) : writeS k 0 v = k := rfl

end Sys2Proof.Machine
end

