-- ==== Sys2Proof/Laws/Cycle.lean ====
section
/-! SUPPORT. What a cycle of a core does: the ticks of its contexts, and that a quiet cycle changes nothing but what cycles. -/

namespace Sys2Proof.Machine

/-! ### A context's cycle -/

/-- A context without what a cycle can change: registers, flags, handles, and what is in flight or in hand. -/
def strip (k : Ctx) : Ctx :=
  { k with s := [], p := 0, q := [], v := [], k := [], h := [], cwq := [], fflags := 0, flights := [], hflights := [], works := [] }

theorem strip_landFlight (k : Ctx) (f : Flight) : strip (landFlight k f) = strip k := by
  unfold landFlight orFlags landReg
  split <;> first | rfl | (unfold writeS; split <;> rfl)

theorem strip_tickFlights (k : Ctx) : strip (tickFlights k) = strip k := by
  have h : ∀ (l : List Flight) (k : Ctx), strip (l.foldl landFlight k) = strip k := by
    intro l
    induction l with
    | nil => intro _; rfl
    | cons f t ih => intro k; rw [List.foldl_cons, ih, strip_landFlight]
  unfold tickFlights
  rw [h]; rfl

theorem strip_tickHandles (k : Ctx) : strip (tickHandles k) = strip k := by
  have h : ∀ (l : List HandleFlight) (k : Ctx),
      strip (l.foldl (fun k f => writeH k f.h { f.handle with gen := (readH k f.h).gen + 1 }) k) = strip k := by
    intro l
    induction l with
    | nil => intro _; rfl
    | cons f t ih => intro k; rw [List.foldl_cons, ih]; rfl
  unfold tickHandles
  rw [h]; rfl

theorem strip_landReg (k : Ctx) (r : Reg) (m v : VWord) : strip (landReg k r m v) = strip k := by
  unfold landReg; split <;> first | rfl | (unfold writeS; split <;> rfl)

theorem strip_tickWorks (k : Ctx) : strip (tickWorks k) = strip k := by
  unfold tickWorks
  generalize k.works = l
  induction l generalizing k with
  | nil => rfl
  | cons w t ih =>
    rw [List.foldl_cons, ih]
    unfold tickWork
    split
    · split
      · rw [strip_landReg]; rfl
      · rfl
    · rfl

/-- What a cycle cannot change in a context. -/
theorem strip_ticked (k : Ctx) : strip (ticked k) = strip k := by
  unfold ticked; rw [strip_tickWorks, strip_tickHandles, strip_tickFlights]

@[simp] theorem ticked_part (k : Ctx) : (ticked k).part = k.part := by have h := congrArg Ctx.part (strip_ticked k); exact h
@[simp] theorem ticked_mopen (k : Ctx) : (ticked k).mopen = k.mopen := by have h := congrArg Ctx.mopen (strip_ticked k); exact h
@[simp] theorem ticked_mq (k : Ctx) : (ticked k).mq = k.mq := by have h := congrArg Ctx.mq (strip_ticked k); exact h
@[simp] theorem ticked_giving (k : Ctx) : (ticked k).giving = k.giving := by have h := congrArg Ctx.giving (strip_ticked k); exact h
@[simp] theorem ticked_pc (k : Ctx) : (ticked k).pc = k.pc := by have h := congrArg Ctx.pc (strip_ticked k); exact h
@[simp] theorem ticked_loops (k : Ctx) : (ticked k).loops = k.loops := by have h := congrArg Ctx.loops (strip_ticked k); exact h
@[simp] theorem ticked_status (k : Ctx) : (ticked k).status = k.status := by have h := congrArg Ctx.status (strip_ticked k); exact h
@[simp] theorem ticked_branch (k : Ctx) : (ticked k).branch = k.branch := by have h := congrArg Ctx.branch (strip_ticked k); exact h
@[simp] theorem ticked_hold (k : Ctx) : (ticked k).hold = k.hold := by have h := congrArg Ctx.hold (strip_ticked k); exact h
@[simp] theorem ticked_task (k : Ctx) : (ticked k).task = k.task := by have h := congrArg Ctx.task (strip_ticked k); exact h
@[simp] theorem ticked_region (k : Ctx) : (ticked k).region = k.region := by have h := congrArg Ctx.region (strip_ticked k); exact h
@[simp] theorem ticked_mfmt (k : Ctx) : (ticked k).mfmt = k.mfmt := by have h := congrArg Ctx.mfmt (strip_ticked k); exact h
@[simp] theorem ticked_edge (k : Ctx) : (ticked k).edge = k.edge := by have h := congrArg Ctx.edge (strip_ticked k); exact h
@[simp] theorem ticked_gang (k : Ctx) : (ticked k).gang = k.gang := by have h := congrArg Ctx.gang (strip_ticked k); exact h
@[simp] theorem ticked_batch (k : Ctx) : (ticked k).batch = k.batch := by have h := congrArg Ctx.batch (strip_ticked k); exact h
@[simp] theorem ticked_drain (k : Ctx) : (ticked k).drain = k.drain := by have h := congrArg Ctx.drain (strip_ticked k); exact h
@[simp] theorem ticked_trap (k : Ctx) : (ticked k).trap = k.trap := by have h := congrArg Ctx.trap (strip_ticked k); exact h
@[simp] theorem ticked_throt (k : Ctx) : (ticked k).throt = k.throt := by have h := congrArg Ctx.throt (strip_ticked k); exact h
@[simp] theorem ticked_curw (k : Ctx) : (ticked k).curw = k.curw := by have h := congrArg Ctx.curw (strip_ticked k); exact h
@[simp] theorem ticked_curp (k : Ctx) : (ticked k).curp = k.curp := by have h := congrArg Ctx.curp (strip_ticked k); exact h
@[simp] theorem ticked_deferred (k : Ctx) : (ticked k).deferred = k.deferred := by have h := congrArg Ctx.deferred (strip_ticked k); exact h
@[simp] theorem ticked_snap (k : Ctx) : (ticked k).snap = k.snap := by have h := congrArg Ctx.snap (strip_ticked k); exact h
@[simp] theorem ticked_wait (k : Ctx) : (ticked k).wait = k.wait := by have h := congrArg Ctx.wait (strip_ticked k); exact h
@[simp] theorem ticked_stall (k : Ctx) : (ticked k).stall = k.stall := by have h := congrArg Ctx.stall (strip_ticked k); exact h
@[simp] theorem ticked_due (k : Ctx) : (ticked k).due = k.due := by have h := congrArg Ctx.due (strip_ticked k); exact h
@[simp] theorem ticked_cont (k : Ctx) : (ticked k).cont = k.cont := by have h := congrArg Ctx.cont (strip_ticked k); exact h
@[simp] theorem ticked_cr (k : Ctx) : (ticked k).cr = k.cr := by have h := congrArg Ctx.cr (strip_ticked k); exact h
@[simp] theorem ticked_spawned (k : Ctx) : (ticked k).spawned = k.spawned := by have h := congrArg Ctx.spawned (strip_ticked k); exact h
@[simp] theorem ticked_iterEnd (k : Ctx) : (ticked k).iterEnd = k.iterEnd := by have h := congrArg Ctx.iterEnd (strip_ticked k); exact h
@[simp] theorem ticked_latch (k : Ctx) : (ticked k).latch = k.latch := by have h := congrArg Ctx.latch (strip_ticked k); exact h
@[simp] theorem ticked_wack (k : Ctx) : (ticked k).wack = k.wack := by have h := congrArg Ctx.wack (strip_ticked k); exact h
@[simp] theorem ticked_wreq (k : Ctx) : (ticked k).wreq = k.wreq := by have h := congrArg Ctx.wreq (strip_ticked k); exact h

theorem ticked_empty : ticked {} = {} := rfl

/-- Work with no fixed time stays in hand. -/
theorem tickWorks_still (k : Ctx) (h : timedWork k = false) : tickWorks k = k := by
  unfold tickWorks
  have h' : ∀ w ∈ k.works, ∀ v n, w.kind ≠ .timed v n := by
    intro w hw v n he
    simp only [timedWork, List.any_eq_false] at h
    exact h w hw (by rw [he])
  generalize k.works = l at h'
  induction l with
  | nil => rfl
  | cons w t ih =>
    rw [List.foldl_cons]
    have hk : tickWork k w = k := by
      unfold tickWork
      split
      · rename_i v n he; exact absurd he (h' w (by simp) v n)
      · rfl
    rw [hk]; exact ih (fun w hw => h' w (by simp [hw]))

/-- A context with nothing in flight and no work of a fixed time is as it was. -/
theorem ticked_still (k : Ctx) (hf : k.flights = []) (hh : k.hflights = []) (hw : timedWork k = false) : ticked k = k := by
  unfold ticked tickFlights
  rw [hf]
  show tickWorks (tickHandles { k with flights := [] }) = k
  unfold tickHandles
  rw [hh]
  have hk : ({ k with flights := [], hflights := [] } : Ctx) = k := by cases k; simp_all
  show tickWorks ({ k with flights := [], hflights := [] } : Ctx) = k
  rw [hk]; exact tickWorks_still k hw

/-! ### A core's cycle -/

theorem getCtx_tickCtxs (s : State) (c d y : Nat) (hy : y < 8) :
    getCtx (tickCtxs s c) d y = if d = c then ticked (getCtx s d y) else getCtx s d y := by
  have h := mget_map s.ctxs (fun n k => if n / 8 = c then ticked k else k) (d * 8 + y) {}
    (by split <;> first | exact ticked_empty | rfl)
  have e : (d * 8 + y) / 8 = d := by omega
  rw [e] at h
  unfold getCtx tickCtxs
  simp only
  rw [← h]
  congr 1
  apply List.map_congr_left
  intro e _
  split <;> rfl

theorem foldl_id {α β : Type} (l : List α) (f : β → α → β) (b : β) (h : ∀ a ∈ l, f b a = b) : l.foldl f b = b := by
  induction l with
  | nil => rfl
  | cons a t ih => rw [List.foldl_cons, h a (by simp)]; exact ih (fun a ha => h a (by simp [ha]))

theorem closeChains_still {s : State} {c : Nat} (h : ∀ ch ∈ (getCore s c).chains, chainClosed s c ch = false) :
    closeChains s c = s := by
  unfold closeChains
  rw [List.filter_eq_nil_iff.mpr (fun ch hc => by simp [h ch hc])]
  rfl

theorem giveBanks_still {s : State} {c : Nat} (h : ∀ y, y < 8 → (getCtx s c y).giving = []) : giveBanks s c = s := by
  unfold giveBanks
  apply foldl_id
  intro y hy
  have : y < 8 := by simpa [upTo] using hy
  simp [h y this]

/-- Whether a chain is closed depends only on the queue and open chain of its context, and on the running entry. -/
theorem chainClosed_congr {s t : State} {c : Nat} {ch : Chain}
    (hk : (getCtx t c (ch.ctx % 8)).status = (getCtx s c (ch.ctx % 8)).status ∧
      (getCtx t c (ch.ctx % 8)).part = (getCtx s c (ch.ctx % 8)).part ∧
      (getCtx t c (ch.ctx % 8)).mopen = (getCtx s c (ch.ctx % 8)).mopen ∧
      (getCtx t c (ch.ctx % 8)).mq = (getCtx s c (ch.ctx % 8)).mq)
    (ha : (getCore t c).array.cur = (getCore s c).array.cur) : chainClosed t c ch = chainClosed s c ch := by
  simp only [chainClosed, hk.1, hk.2.1, hk.2.2.1, hk.2.2.2, ha]

theorem captureTick_eq (k : Core) : captureTick k = { k with probe := (captureTick k).probe } := by
  unfold captureTick; simp only; split <;> rfl

theorem arrayTick_eq (k : Core) : arrayTick k = { k with
    array := (arrayTick k).array, guard := (arrayTick k).guard, writes := (arrayTick k).writes, vbusy := (arrayTick k).vbusy } :=
  rfl

/-- Islands that have only counted a cycle. -/
def IslandsCycled (s t : State) : Prop := ∀ j, getIsland t j = { getIsland s j with
  gap := (getIsland t j).gap, episode := (getIsland t j).episode, stretched := (getIsland t j).stretched
  filler := (getIsland t j).filler }

theorem islandsCycled_refl (s : State) : IslandsCycled s s := fun _ => rfl

theorem islandsCycled_mod {s t : State} (i : Nat) {f : Island → Island} (h : IslandsCycled s t)
    (hf : ∀ l, f l = { l with gap := (f l).gap, episode := (f l).episode, stretched := (f l).stretched, filler := (f l).filler }) :
    IslandsCycled s (modIsland t i f) := by
  intro j
  rw [getIsland_modIsland]
  split
  · subst_vars; rw [hf, h]
  · exact h j

theorem stretchTick_eq (l : Island) : stretchTick l = { l with
    gap := (stretchTick l).gap, episode := (stretchTick l).episode, stretched := (stretchTick l).stretched
    filler := (stretchTick l).filler } := by
  unfold stretchTick; split <;> rfl

/-- What a quiet cycle of a core changes. -/
structure Cycled (s t : State) (c : Nat) : Prop where
  rest : t = { s with time := max s.time (getCore s c).tnext, cores := t.cores, ctxs := t.ctxs, islands := t.islands }
  cores : ∀ d, d ≠ c → getCore t d = getCore s d
  core : CoreCycled (getCore s c) (getCore t c) (cycleLen s c) (getCore s c).held
  ctxs : ∀ d y, y < 8 → getCtx t d y = if d = c then ticked (getCtx s d y) else getCtx s d y
  islands : IslandsCycled s t

/-- A cycle in which no chain closes and no bank returns. -/
theorem passCycle_quiet {s : State} {c : Nat} (hc : ∀ ch ∈ (getCore s c).chains, chainClosed s c ch = false)
    (hg : ∀ y, y < 8 → (getCtx s c y).giving = []) : Cycled s (passCycle s c) c := by
  have h0 : ∀ (s0 : State) (n : Nat), (∀ ch ∈ (getCore s0 c).chains, chainClosed s0 c ch = false) →
      (∀ y, y < 8 → (getCtx s0 c y).giving = []) →
      giveBanks (closeChains (modCore (tickCtxs { s0 with time := n } c) c arrayTick) c) c =
        modCore (tickCtxs { s0 with time := n } c) c arrayTick := by
    intro s0 n hc hg
    have hctx : ∀ y, y < 8 → getCtx (modCore (tickCtxs { s0 with time := n } c) c arrayTick) c y = ticked (getCtx s0 c y) := by
      intro y hy; rw [getCtx_modCore, getCtx_tickCtxs _ _ _ _ hy, if_pos rfl]; rfl
    rw [closeChains_still, giveBanks_still]
    · intro y hy; rw [hctx y hy]; simp [hg y hy]
    · intro ch hch
      have hch' : ch ∈ (getCore s0 c).chains := by rw [getCore_modCore_same] at hch; exact hch
      rw [← hc ch hch']
      apply chainClosed_congr
      · rw [hctx _ (Nat.mod_lt _ (by decide))]; simp
      · rw [getCore_modCore_same]; rfl
  unfold passCycle
  simp only
  rw [h0 s _ hc hg]
  generalize hB : (modCore (modCore (tickCtxs { s with time := max s.time (getCore s c).tnext } c) c arrayTick) c fun k =>
    { captureTick k with
      cycle := (getCore s c).cycle + 1
      tnext := (getCore s c).tnext + cycleLen s c
      owned := (getCore s c).owned + 1 }) = B
  have hbase : Cycled s B c := by
    subst hB
    refine ⟨rfl, ?_, ?_, ?_, fun _ => rfl⟩
    · intro d hd
      rw [getCore_modCore_other _ _ hd, getCore_modCore_other _ _ hd]; rfl
    · unfold CoreCycled
      rw [getCore_modCore_same, getCore_modCore_same]
      show _ = _
      rw [captureTick_eq]
      rfl
    · intro d y hy
      rw [getCtx_modCore, getCtx_modCore, getCtx_tickCtxs _ _ _ _ hy]; rfl
  have hisl : ∀ (t : State) (i : Nat) (f : Island → Island), Cycled s t c →
      (∀ l, f l = { l with gap := (f l).gap, episode := (f l).episode, stretched := (f l).stretched, filler := (f l).filler }) →
      Cycled s (modIsland t i f) c := by
    intro t i f h hf
    refine ⟨?_, h.cores, h.core, h.ctxs, islandsCycled_mod i h.islands hf⟩
    conv => lhs; rw [h.rest]
    rfl
  split
  · exact hbase
  · have h1 : Cycled s (if countsIsland s c = true then modIsland B (islandOf c) stretchTick else B) c := by
      split
      · exact hisl _ _ _ hbase stretchTick_eq
      · exact hbase
    split
    · exact hisl _ _ _ h1 (fun _ => rfl)
    · exact h1

end Sys2Proof.Machine
end

