-- ==== Sys2Proof/Laws/Issue.lean ====
section
/-! SUPPORT. What the issue of a slot instruction comes to: its bundle decodes to it alone, and an effect that nothing holds
back is committed. -/

namespace Sys2Proof.Machine

/-- A slot instruction is one cycle of the core in focus, alone in its bundle. -/
theorem exec_slot {i : Instr} {cls : Nat} {f : Op} (hc : classOf i = some cls) (hf : slotInfo i = some f) (s : State) :
    exec i s = .next (issueOne cls f s) := by
  cases i <;> cases hc <;> cases hf <;> rfl

theorem placedOf_oneCell (l : Latch) (cls : Nat) (f : Op) : placedOf (oneCell l cls f) = [onePlaced l cls f] := by
  obtain ⟨slot, hdr⟩ := l
  have h4 : slot % 4 < 4 := Nat.mod_lt _ (by decide)
  unfold oneCell onePlaced
  generalize slot % 4 = n at *
  match n, h4 with
  | 0, _ => cases hdr <;> rfl
  | 1, _ => cases hdr <;> rfl
  | 2, _ => cases hdr <;> rfl
  | 3, _ => cases hdr <;> rfl

theorem decodeBundle_oneCell {b : Bool} {pc : Nat} {l : Latch} {cls : Nat} {f : Op}
    (h : decodeFault b pc (oneCell l cls f) = none) : decodeBundle b pc (oneCell l cls f) = .slots [onePlaced l cls f] := by
  unfold decodeBundle; rw [h, placedOf_oneCell]

theorem gangCores_alone {s : State} {c x : Nat} (h : (getCtx s c x).gang = false) : gangCores s c x = [c] := by
  simp [gangCores, h]

theorem leadCore_alone {s : State} {c x : Nat} (ho : (getCore s c).owner = some x) (h : (getCtx s c x).gang = false) :
    leadCore s c = c := by simp [leadCore, ho, h]

theorem lastOfLevel_none {k : Ctx} (h : k.loops.all (fun m => m.last ≠ k.pc.toNat) = true) : lastOfLevel k = none := by
  unfold lastOfLevel
  rw [List.find?_eq_none.mpr]; · rfl
  intro e he
  have := List.mem_zipIdx' he
  simp only [List.all_eq_true, decide_eq_true_eq] at h
  have hm : e.1 ∈ k.loops := by rw [this.2]; exact List.getElem_mem _
  simp [h e.1 hm]

theorem portOf_portAt (s : State) (x : Nat) (cls : Nat) (f : Op) :
    portOf s s.focus x s.focus (onePlaced s.latch cls f) = portAt s x (f (latchExt s)) := by
  have h : ∀ p : Placed, guardCtx s s.focus x s.focus p = getCtx s s.focus x := by
    intro p; unfold guardCtx; split <;> rfl
  simp only [portOf, portAt, h]
  rfl

/-- The plan of a ready bundle of one slot that answers with an effect. -/
theorem planBundle_go {s : State} {x : Nat} {p : Placed} {e : Effect} (hr : Ready s x) (hl : isLive s s.focus x s.focus p = true)
    (hw : waiting s s.focus x s.focus [p] = []) (he : entryBad s s.focus x s.focus [p] = false) (hg : guardFull s s.focus [(p, .go e)] = false) (hrun : p.info.run (portOf s s.focus x s.focus p) s = .go e) :
    planBundle s s.focus x [s.focus] [p] = .go [(s.focus, [(p, e)])] := by
  have hlat : fillLatch s s.focus x = s := by simp [fillLatch, hr.drain]
  have hlive : liveSlots s s.focus x s.focus [p] = [p] := by simp [liveSlots, hl]
  have hnest : nestFault (getCtx s s.focus x) [(p, e)] = none := by simp [nestFault, lastOfLevel_none hr.level]
  have hbad : drainBad s s.focus x = false := by simp [drainBad, hr.drain]
  have hd : drainWaits s s.focus x = false := by simp [drainWaits, hr.drain]
  have ha : allAnswers s s.focus x [s.focus] [p] = [(s.focus, [(p, .go e)])] := by
    have he' : slotBad s s.focus x s.focus p = false := by simpa [entryBad] using he
    simp [allAnswers, answers, hl, he', hrun, SlotRes.turned]
  have hh := hr.hold
  simp [planBundle, hh, hd, hw, firstRank, touchedFault, hr.deferred, hbad, hlat, ha, hg, SlotRes.stalls, waitOf, slotTrap,
    effectsOf, hnest]

/-- What an effect tells the other slots of its bundle changes nothing that it does itself. -/
theorem issued_alone (s : State) (x : Nat) (p : Placed) (e : Effect) (b : Bool) (n : Nat) :
    issued s x p { e with turn := b, guards := n } = issued s x p e := by
  have hc : conflictOf [(p, { e with turn := b, guards := n })] = conflictOf [(p, e)] := rfl
  have hj : jumpOf [(p, { e with turn := b, guards := n })] = jumpOf [(p, e)] := rfl
  have hk : skipOf [(p, { e with turn := b, guards := n })] = skipOf [(p, e)] := rfl
  have hy : yieldOf [(p, { e with turn := b, guards := n })] = yieldOf [(p, e)] := by
    simp only [yieldOf, List.find?]; split <;> rfl
  have ha : afterOf [(p, { e with turn := b, guards := n })] = afterOf [(p, e)] := rfl
  simp only [issued, commitBundle, commitRank, hc, hj, hk, hy, ha, List.foldl_cons, List.foldl_nil, List.filterMap_cons,
    List.filterMap_nil, List.findSome?_cons, List.findSome?_nil]

/-- A slot instruction that issues and answers with an effect has that effect. -/
theorem exec_go {s : State} {x : Nat} {i : Instr} (hI : Issues s x i) {cls : Nat} {f : Op} {e : Effect}
    (hc : classOf i = some cls) (hf : slotInfo i = some f)
    (hrun : (f (latchExt s)).run (portAt s x (f (latchExt s))) s = .go e)
    (hg : e.guards = 0 ∨ guardUsed (getCore s s.focus) + e.guards ≤ 16 := by exact .inl rfl) :
    exec i s = .next (issued s x (onePlaced s.latch cls f) e) := by
  obtain ⟨hr, cls', f', hc', hf', hdec, hl, hw, he⟩ := hI
  rw [hc] at hc'; rw [hf] at hf'
  cases hc'; cases hf'
  rw [exec_slot hc hf]
  have hrun' : (onePlaced s.latch cls f).info.run (portOf s s.focus x s.focus (onePlaced s.latch cls f)) s = .go e := by
    rw [portOf_portAt]; exact hrun
  have hfull : guardFull s s.focus [(onePlaced s.latch cls f, .go e)] = false := by
    simp only [guardFull, List.map_cons, List.map_nil, List.sum_cons, List.sum_nil, Nat.add_zero, Bool.and_eq_false_iff,
      decide_eq_false_iff_not, ne_eq, decide_not, Bool.not_eq_false', decide_eq_true_eq]
    omega
  have hp := planBundle_go hr hl hw he hfull hrun'
  have hcycle : ∀ fetch : State → Nat → Nat → Fetch, coreCycle fetch s s.focus = issueCycle fetch s s.focus x := by
    intro fetch
    unfold coreCycle
    simp only [leadCore_alone hr.owner hr.gang, hr.owner, gangCores_alone hr.gang, hr.waits, hr.held, Bool.false_eq_true,
      if_false, ne_eq, not_true_eq_false]
  unfold issueOne
  rw [hcycle]
  unfold issueCycle issued
  simp only [gangCores_alone hr.gang, decodeBundle_oneCell hdec, hp, hr.freeze, Option.getD_none]

end Sys2Proof.Machine
end

