-- ==== Sys2Proof/Laws/Deed.lean ====
section
/-! SUPPORT. From the effect of a slot that issues to what stands in its context and core afterwards, for effects that touch
these alone. -/

namespace Sys2Proof.Machine

/-- A state that differs from another in one context and one core, but for what is traced of the bundle, and in the next
number of issue order. -/
structure At (s t : State) (c x : Nat) (k : Ctx) (core : Core) (n : Nat) : Prop where
  rest : t = { s with seq := n, cores := t.cores, ctxs := t.ctxs }
  ctx : getCtx t c x = k
  ctxs : ∀ d y, d * 8 + y ≠ c * 8 + x → getCtx t d y = getCtx s d y
  core : getCore t c = { core with probe := (getCore t c).probe }
  cores : ∀ d, d ≠ c → getCore t d = getCore s d

/-- What an effect does at once to its context and core in a state, where it does nothing else but to the debug block. -/
structure ActsAt (act : State → State) (c x : Nat) (h : Ctx → Ctx) (g : Core → Core) (s : State) : Prop where
  rest : act s = { s with cores := (act s).cores, ctxs := (act s).ctxs }
  ctx : getCtx (act s) c x = h (getCtx s c x)
  ctxs : ∀ d y, d * 8 + y ≠ c * 8 + x → getCtx (act s) d y = getCtx s d y
  core : getCore (act s) c = { g (getCore s c) with probe := (getCore (act s) c).probe }
  cores : ∀ d, d ≠ c → getCore (act s) d = getCore s d

/-- The same in every state. -/
def Acts (act : State → State) (c x : Nat) (h : Ctx → Ctx) (g : Core → Core) : Prop := ∀ s, ActsAt act c x h g s

theorem acts_id (c x : Nat) : Acts id c x id id := fun _ => ⟨rfl, rfl, fun _ _ _ => rfl, rfl, fun _ _ => rfl⟩

theorem acts_ctx (c x : Nat) (h : Ctx → Ctx) : Acts (fun s => modCtx s c x h) c x h id :=
  fun s => ⟨rfl, getCtx_modCtx_same .., fun d y hd => by rw [getCtx_modCtx, if_neg (Ne.symm hd)], rfl, fun _ _ => rfl⟩

theorem acts_core (c x : Nat) (g : Core → Core) : Acts (fun s => modCore s c g) c x id g :=
  fun s => ⟨rfl, rfl, fun _ _ _ => rfl, by rw [getCore_modCore_same], fun _ hd => getCore_modCore_other s g hd⟩

/-- A change of a core that leaves alone its counters, array and chains. -/
structure KeepsCore (g : Core → Core) : Prop where
  probe : ∀ k d, g { k with probe := d } = { g k with probe := d }
  tnext : ∀ k, (g k).tnext = k.tnext
  chains : ∀ k, (g k).chains = k.chains
  cur : ∀ k, (g k).array.cur = k.array.cur

theorem keepsCore_id : KeepsCore id := by constructor <;> intros <;> rfl

theorem acts_comp {a b : State → State} {c x : Nat} {h h' : Ctx → Ctx} {g g' : Core → Core} (ha : Acts a c x h g)
    (hb : Acts b c x h' g') (hg : KeepsCore g') : Acts (fun s => b (a s)) c x (h' ∘ h) (g' ∘ g) := by
  intro s
  have ha := ha s
  have hb := hb (a s)
  refine ⟨?_, ?_, fun d y hd => ?_, ?_, fun d hd => ?_⟩
  · have h1 := hb.rest
    have h2 := ha.rest
    generalize b (a s) = u at *
    generalize a s = t at *
    rw [h1]; conv => lhs; rw [h2]
  · simp only [Function.comp, hb.ctx, ha.ctx]
  · rw [hb.ctxs _ _ hd, ha.ctxs _ _ hd]
  · rw [hb.core, ha.core, hg.probe]; rfl
  · rw [hb.cores _ hd, ha.cores _ hd]

/-- Whether no level ends at a bundle, and the innermost is active. -/
def Inside (pc : Nat) (l : List Loop) : Prop := (∀ m ∈ l, m.last ≠ pc) ∧ levelsLeft l.reverse = l

/-- A change of a context at a bundle that leaves alone where it stands and what its array does, and opens no level that ends
there. -/
structure Keeps (at_ : BitVec 57) (h : Ctx → Ctx) : Prop where
  pc : ∀ k, (h k).pc = k.pc
  branch : ∀ k, (h k).branch = k.branch
  loops : ∀ k, k.pc = at_ → Inside k.pc.toNat k.loops → Inside k.pc.toNat (h k).loops
  status : ∀ k, (h k).status = k.status
  part : ∀ k, (h k).part = k.part
  mopen : ∀ k, (h k).mopen = k.mopen
  mq : ∀ k, (h k).mq = k.mq
  giving : ∀ k, (h k).giving = k.giving

theorem keeps_id (pc : BitVec 57) : Keeps pc id := ⟨fun _ => rfl, fun _ => rfl, fun _ _ h => h, fun _ => rfl, fun _ => rfl,
  fun _ => rfl, fun _ => rfl, fun _ => rfl⟩

/-! ### The stages of a commit -/

theorem at_refl (s : State) (c x : Nat) : At s s c x (getCtx s c x) (getCore s c) s.seq :=
  ⟨rfl, rfl, fun _ _ _ => rfl, rfl, fun _ _ => rfl⟩

theorem at_debug {s t : State} {c x : Nat} {k : Ctx} {K : Core} {n : Nat} (h : At s t c x k K n) (f : Core → Core)
    (hf : ∀ k, f k = { k with probe := (f k).probe }) : At s (modCore t c f) c x k K n := by
  refine ⟨?_, h.ctx, h.ctxs, ?_, ?_⟩
  · conv => lhs; rw [h.rest]
    rfl
  · rw [getCore_modCore_same]; rw [hf, h.core]
  · intro d hd; rw [getCore_modCore_other _ _ hd]; exact h.cores d hd

theorem at_capture {s t : State} {c x : Nat} {k : Ctx} {K : Core} {n : Nat} (h : At s t c x k K n) (pc : Nat) (l : List Nat) :
    At s (capture t c x pc l) c x k K n := by
  unfold capture
  simp only
  split
  · split
    · apply at_debug _ _ (fun _ => rfl)
      unfold addTrace
      split
      · exact at_debug h _ (fun _ => rfl)
      · exact h
    · exact h
  · exact h

theorem at_profIssue {s t : State} {c x : Nat} {k : Ctx} {K : Core} {n : Nat} (h : At s t c x k K n) (l : List Resource) :
    At s (profIssue t c x l) c x k K n := by
  unfold profIssue
  split
  · exact h
  · simp only
    split
    · exact h
    · exact at_debug h _ (fun _ => rfl)

theorem at_modCtx {s t : State} {c x : Nat} {k : Ctx} {K : Core} {n : Nat} (h : At s t c x k K n) (f : Ctx → Ctx) :
    At s (modCtx t c x f) c x (f k) K n := by
  refine ⟨?_, ?_, ?_, h.core, h.cores⟩
  · conv => lhs; rw [h.rest]
    rfl
  · rw [getCtx_modCtx_same, h.ctx]
  · intro d y hd; rw [getCtx_modCtx, if_neg (Ne.symm hd)]; exact h.ctxs d y hd

theorem at_seq {s t : State} {c x : Nat} {k : Ctx} {K : Core} {n : Nat} (h : At s t c x k K n) (m : Nat) :
    At s { t with seq := m } c x k K m := by
  refine ⟨?_, h.ctx, h.ctxs, h.core, h.cores⟩
  conv => lhs; rw [h.rest]

theorem at_acts {s t : State} {c x : Nat} {k : Ctx} {K : Core} {n : Nat} (h : At s t c x k K n) {act : State → State}
    {f : Ctx → Ctx} {g : Core → Core} (ha : ActsAt act c x f g t) (hg : KeepsCore g) : At s (act t) c x (f k) (g K) n := by
  refine ⟨?_, ?_, ?_, ?_, ?_⟩
  · have h1 := ha.rest
    have h2 := h.rest
    generalize act t = u at *
    rw [h1]; conv => lhs; rw [h2]
  · rw [ha.ctx, h.ctx]
  · intro d y hd; rw [ha.ctxs _ _ hd]; exact h.ctxs d y hd
  · rw [ha.core, h.core, hg.probe]
  · intro d hd; rw [ha.cores _ hd]; exact h.cores d hd

theorem at_putWork {s t : State} {p : Port} {k : Ctx} {K : Core} {n : Nat} (h : At s t p.core p.ctx k K n) {w : NewWork}
    (hw : w.fault = none) :
    At s (putWork p t w) p.core p.ctx { k with works := k.works ++ [workOf p.squash n p.pc p.pos w] } K (n + 1) := by
  have hs : t.seq = n := by rw [h.rest]
  unfold putWork
  simp only [hs, hw, withFault]
  have h1 := at_modCtx (at_seq h (n + 1)) (fun k => { k with works := k.works ++ [workOf p.squash n p.pc p.pos w] })
  exact h1

theorem at_putOut {s t : State} {p : Port} {k : Ctx} {K : Core} {n : Nat} (h : At s t p.core p.ctx k K n) {o : Out} (cf : Nat)
    (ho : o.fault = none) :
    At s (putOut p cf t o) p.core p.ctx { k with flights := k.flights ++ [flightOf p.squash cf n o] } K (n + 1) := by
  have hs : t.seq = n := by rw [h.rest]
  unfold putOut
  simp only [hs, ho, withFault, if_true]
  exact at_modCtx (at_seq h (n + 1)) (fun k => { k with flights := k.flights ++ [flightOf p.squash cf n o] })

theorem at_putOuts {s t : State} {p : Port} {k : Ctx} {K : Core} {n : Nat} (h : At s t p.core p.ctx k K n) (cf : Nat)
    (os : List Out) (ho : ∀ o ∈ os, o.fault = none) :
    At s (os.foldl (putOut p cf) t) p.core p.ctx
      { k with flights := k.flights ++ numberedFrom (flightOf p.squash cf) n os } K (n + os.length) := by
  induction os generalizing t k n with
  | nil => simpa [numberedFrom] using h
  | cons o l ih =>
    have h1 := ih (at_putOut h cf (ho o (by simp))) (fun o ho' => ho o (by simp [ho']))
    simp only [List.foldl_cons, numberedFrom, List.length_cons]
    simp only [List.append_assoc, List.cons_append, List.nil_append] at h1
    rw [show n + (l.length + 1) = n + 1 + l.length by omega]
    exact h1

/-! ### Where the stream goes -/

theorem loopEnds_inside (k : Ctx) (pc : Nat) (l : List Loop) (h : ∀ m ∈ l, m.last ≠ pc) : loopEnds k pc l = ([], l, none) := by
  induction l with
  | nil => rfl
  | cons m t ih =>
    have hm := h m (by simp)
    simp [loopEnds, hm, ih (fun m hm' => h m (by simp [hm']))]

theorem asPc_next (pc : BitVec 57) : asPc (pc.toNat + 16) = pc + 16 := by
  apply BitVec.eq_of_toNat_eq
  simp [asPc, BitVec.toNat_add]

theorem followOn_next {k : Ctx} (hb : k.branch = none) (hl : Inside k.pc.toNat k.loops) :
    followOn k none none = ({ k with pc := k.pc + 16, iterEnd := false }, []) := by
  unfold followOn
  simp only [hb]
  rw [loopEnds_inside k k.pc.toNat k.loops.reverse (fun m hm => hl.1 m (List.mem_reverse.mp hm))]
  simp only [hl.2, Option.getD_none, asPc_next, ne_eq, not_true_eq_false, decide_false]

/-- The stream goes on as told, where no branch is pending and no loop ends. -/
theorem followOn_streamed {k : Ctx} (hb : k.branch = none) (hl : Inside k.pc.toNat k.loops) (j : Option (Nat × Bool))
    (sk : Option Nat) : followOn k j sk = (streamed k j sk, []) := by
  rcases j with _ | ⟨t, c⟩
  · rcases sk with _ | t
    · exact followOn_next hb hl
    · cases k; cases hb; rfl
  · unfold followOn
    simp only [hb, Option.map_some, asPc_next]
    rfl

/-! ### The whole -/

/-- A cycle passes over a state that is as another but for a context and a core, and the bundle's hold is set. -/
theorem at_pass {s t : State} {c x : Nat} {k : Ctx} {K : Core} {n : Nat} (h : At s t c x k K n) (hx : x < 8)
    (ht : K.tnext = (getCore s c).tnext)
    (hch : ∀ ch ∈ (getCore t c).chains, chainClosed t c ch = false) (hg : ∀ y, y < 8 → (getCtx t c y).giving = []) (held : Nat) :
    let u := modCore (passCycle t c) c fun k => { k with held := held }
    u = { s with time := max s.time (getCore s c).tnext, seq := n, cores := u.cores, ctxs := u.ctxs, islands := u.islands } ∧
    getCtx u c x = ticked k ∧ (∀ y, y < 8 → y ≠ x → getCtx u c y = ticked (getCtx s c y)) ∧
    (∀ d y, d ≠ c → y < 8 → getCtx u d y = getCtx s d y) ∧ (∀ d, d ≠ c → getCore u d = getCore s d) ∧
    CoreCycled K (getCore u c) (cycleLen s c) held ∧ IslandsCycled s u := by
  have hp := passCycle_quiet hch hg
  have htn : (getCore t c).tnext = (getCore s c).tnext := by rw [h.core]; exact ht
  have hlen : cycleLen t c = cycleLen s c := by
    have : getIsland t (islandOf c) = getIsland s (islandOf c) := by rw [h.rest]; rfl
    unfold cycleLen; rw [this]
  have htm : t.time = s.time := by rw [h.rest]
  have hrest := hp.rest
  rw [htn, htm] at hrest
  have hcores := hp.cores
  have hcore := hp.core
  have hctxs := hp.ctxs
  have hisl := hp.islands
  generalize passCycle t c = v at *
  refine ⟨?_, ?_, ?_, ?_, ?_, ?_, ?_⟩
  · generalize hu : (modCore v c fun k => { k with held := held }) = u
    have h1 : u = { v with cores := u.cores } := by rw [← hu]; rfl
    have h2 := h.rest
    rw [h1]
    conv => lhs; rw [hrest]
    conv => lhs; rw [h2]
  · rw [getCtx_modCore, hctxs c x hx, if_pos rfl, h.ctx]
  · intro y hy hyx
    rw [getCtx_modCore, hctxs c y hy, if_pos rfl, h.ctxs c y (by omega)]
  · intro d y hd hy
    rw [getCtx_modCore, hctxs d y hy, if_neg hd, h.ctxs d y (by omega)]
  · intro d hd
    rw [getCore_modCore_other _ _ hd, hcores d hd, h.cores d hd]
  · unfold CoreCycled at hcore ⊢
    rw [getCore_modCore_same, hcore, h.core, hlen]
  · intro j
    have hj := hisl j
    have hts : getIsland t j = getIsland s j := by rw [h.rest]; rfl
    rw [hts] at hj
    exact hj

/-- What the commit of a bundle of one slot does to its context and core before its cycle passes. -/
theorem commitRank_at {s : State} {x : Nat} {p : Placed} {e : Effect} {d : Deed} {j : Option (Nat × Bool)} {sk : Option Nat}
    (hdr : (getCtx s s.focus x).drain = none) (hw : e.works = d.works) (h1 : d.works.length ≤ 1) (ho : e.outs = d.outs)
    (hsq : (portOf s s.focus x s.focus p).squash = d.sq) (hwf : ∀ w ∈ d.works, w.fault = none) (hof : ∀ o ∈ d.outs, o.fault = none)
    (hact : ∀ u, At s u s.focus x (began (getCtx s s.focus x)
        (numberedFrom (fun n => workOf d.sq n (getCtx s s.focus x).pc.toNat p.pos) s.seq d.works))
      (getCore s s.focus) (s.seq + d.works.length) → ActsAt e.act s.focus x d.ctx d.core u) (hkc : KeepsCore d.core) (hj : jumpOf [(p, e)] = j) (hs : skipOf [(p, e)] = sk)
    (hlinks : ∀ fs, (followOn { d.ctx (began (getCtx s s.focus x)
          (numberedFrom (fun n => workOf d.sq n (getCtx s s.focus x).pc.toNat p.pos) s.seq d.works)) with
        flights := fs } j sk).2 = []) :
    At s (commitRank s s.focus x s.focus d.conflict [p] [(p, e)]) s.focus x
      (followOn { d.ctx (began (getCtx s s.focus x)
          (numberedFrom (fun n => workOf d.sq n (getCtx s s.focus x).pc.toNat p.pos) s.seq d.works)) with
        flights := (d.ctx (began (getCtx s s.focus x)
          (numberedFrom (fun n => workOf d.sq n (getCtx s s.focus x).pc.toNat p.pos) s.seq d.works))).flights ++
            numberedFrom (flightOf d.sq d.conflict) (s.seq + d.works.length) d.outs } j sk).1
      (d.core (getCore s s.focus)) (s.seq + d.works.length + d.outs.length) := by
  have a2 := at_profIssue (at_capture (at_refl s s.focus x) (getCtx s s.focus x).pc.toNat
      (if consents s (getCtx s s.focus x).part 0 then [(p, e)].filterMap fun e => e.2.trace else []))
    ([p].map fun p => p.info.res)
  have hfl : ∀ t, At s t s.focus x (getCtx s s.focus x) (getCore s s.focus) s.seq → fillLatch t s.focus x = t := by
    intro t ht; unfold fillLatch; rw [ht.ctx, hdr]
  have a3 := at_modCtx a2 (fun k => { stepDrain k with stall := 0, preStall := 0, wait := none })
  rw [show stepDrain (getCtx s s.focus x) = getCtx s s.focus x by simp [stepDrain, hdr]] at a3
  unfold commitRank
  simp only [hj, hs, List.foldl_cons, List.foldl_nil, hw, ho]
  rw [hfl _ a2]
  generalize (modCtx (profIssue (capture s s.focus x _ _) s.focus x _) s.focus x fun k =>
    { stepDrain k with stall := 0, preStall := 0, wait := none }) = s3 at a3 ⊢
  have a4 : At s (((d.works.filter fun w => w.kind.stores == true).foldl (putWork (portOf s s.focus x s.focus p))
        ((d.works.filter fun w => w.kind.stores == false).foldl (putWork (portOf s s.focus x s.focus p)) s3))) s.focus x
      (began (getCtx s s.focus x) (numberedFrom (fun n => workOf d.sq n (getCtx s s.focus x).pc.toNat p.pos) s.seq d.works))
      (getCore s s.focus) (s.seq + d.works.length) := by
    rcases hl : d.works with _ | ⟨w, rest⟩
    · simpa [numberedFrom, began] using a3
    · have hrest : rest = [] := by
        rw [hl] at h1; simpa using h1
      subst hrest
      have hwf' := hwf w (by rw [hl]; simp)
      have a5 : At s (putWork (portOf s s.focus x s.focus p) s3 w) s.focus x
          (began (getCtx s s.focus x) [workOf d.sq s.seq (getCtx s s.focus x).pc.toNat p.pos w])
          (getCore s s.focus) (s.seq + 1) := by
        have := at_putWork (p := portOf s s.focus x s.focus p) a3 hwf'
        rw [hsq] at this
        exact this
      cases hst : w.kind.stores <;> simpa only [List.filter_cons, List.filter_nil, hst, List.foldl_cons, List.foldl_nil,
        numberedFrom, List.length_cons, List.length_nil, beq_self_eq_true, if_true, Bool.false_eq_true, if_false,
        show (true == false) = false from rfl, show (false == true) = false from rfl, Nat.zero_add] using a5
  have a6 := at_acts a4 (hact _ a4) hkc
  have a7 : At s _ s.focus x _ _ _ := at_putOuts (p := portOf s s.focus x s.focus p) a6 d.conflict d.outs hof
  rw [hsq] at a7
  have a8 := at_modCtx a7 (fun k => (followOn k j sk).1)
  have hctx := a7.ctx
  generalize (d.outs.foldl (putOut (portOf s s.focus x s.focus p) d.conflict) _) = s7 at a7 a8 hctx ⊢
  refine (show modCtx s7 s.focus x _ = modCtx s7 s.focus x (fun k => (followOn k j sk).1) from ?_) ▸ a8
  have key : (followOn (getCtx s7 s.focus x) j sk).2 = [] := by rw [hctx]; exact hlinks _
  unfold modCtx
  congr 1
  dsimp only
  rw [key]
  simp only [List.map_nil, List.append_nil]

/-- What an effect does to the stream, by where it goes. -/
def ctlOf (d : Deed) : Ctl :=
  match d.jump, d.skip with
  | some (t, c), _ => .jump t c
  | none, some t => .skip t
  | none, none => .none

theorem jumpOf_ctlOf {p : Placed} {e : Effect} {d : Deed} (h : e.ctl = ctlOf d) : jumpOf [(p, e)] = d.jump := by
  obtain ⟨_, _, _, _, _, _, j, sk⟩ := d
  rcases j with _ | ⟨t, c⟩ <;> rcases sk with _ | t <;> simp [jumpOf, h, ctlOf]

theorem afterOf_ctlOf {p : Placed} {e : Effect} {d : Deed} (h : e.ctl = ctlOf d) : afterOf [(p, e)] = none := by
  obtain ⟨_, _, _, _, _, _, j, sk⟩ := d
  rcases j with _ | ⟨t, c⟩ <;> rcases sk with _ | t <;> simp [afterOf, h, ctlOf]

theorem skipOf_ctlOf {p : Placed} {e : Effect} {d : Deed} (h : e.ctl = ctlOf d)
    (hs : d.jump = none ∨ d.skip = none) : skipOf [(p, e)] = d.skip := by
  obtain ⟨_, _, _, _, _, _, j, sk⟩ := d
  rcases j with _ | ⟨t, c⟩ <;> rcases sk with _ | t <;> simp_all [skipOf, ctlOf]

theorem yieldOf_ctlOf {p : Placed} {e : Effect} {d : Deed} (h : e.ctl = ctlOf d) : yieldOf [(p, e)] = none := by
  obtain ⟨_, _, _, _, _, _, j, sk⟩ := d
  rcases j with _ | ⟨t, c⟩ <;> rcases sk with _ | t <;> simp [yieldOf, Ctl.yields, h, ctlOf]

/-- The state of a bundle of one slot after its cycle, before a yield or a fault that follows it. -/
def passed (s : State) (x : Nat) (p : Placed) (e : Effect) (d : Deed) : State :=
  let u := modCore (passCycle (commitRank s s.focus x s.focus d.conflict [p] [(p, e)]) s.focus) s.focus
    fun k => { k with held := d.conflict }
  if d.jump.isSome then modCtx u s.focus x killSquash else u

/-- What stands after the cycle of a bundle of one slot whose effect touches its context and core alone. -/
theorem didTo_passed {s : State} {x : Nat} (hr : Ready s x) (hq : Quiet s) {cls : Nat} {f : Op} {e : Effect} {d : Deed}
    (hjo : jumpOf [(onePlaced s.latch cls f, e)] = d.jump) (hso : skipOf [(onePlaced s.latch cls f, e)] = d.skip)
    (hw : e.works = d.works) (h1 : d.works.length ≤ 1) (ho : e.outs = d.outs) (hsq : (f (latchExt s)).squash = d.sq)
    (hwf : ∀ w ∈ d.works, w.fault = none) (hof : ∀ o ∈ d.outs, o.fault = none)
    (hact : ∀ u, At s u s.focus x (began (getCtx s s.focus x)
        (numberedFrom (fun n => workOf d.sq n (getCtx s s.focus x).pc.toNat (s.latch.slot % 4)) s.seq d.works))
      (getCore s s.focus) (s.seq + d.works.length) → ActsAt e.act s.focus x d.ctx d.core u) (hk : Keeps (getCtx s s.focus x).pc d.ctx) (hkc : KeepsCore d.core) :
    DidTo s x d (passed s x (onePlaced s.latch cls f) e d) := by
  have hport : (portOf s s.focus x s.focus (onePlaced s.latch cls f)).squash = d.sq := by rw [portOf_portAt]; exact hsq
  have hloops : Inside (getCtx s s.focus x).pc.toNat (getCtx s s.focus x).loops := by
    have := hr.level
    exact ⟨by simpa using this, hr.active⟩
  generalize hP : onePlaced s.latch cls f = P at *
  have hpos : P.pos = s.latch.slot % 4 := by rw [← hP]; rfl
  generalize hbk : began (getCtx s s.focus x)
    (numberedFrom (fun n => workOf d.sq n (getCtx s s.focus x).pc.toNat (s.latch.slot % 4)) s.seq d.works) = bk
  have hbk' : began (getCtx s s.focus x)
    (numberedFrom (fun n => workOf d.sq n (getCtx s s.focus x).pc.toNat P.pos) s.seq d.works) = bk := by rw [hpos, hbk]
  have hfol : ∀ fs, followOn { d.ctx bk with flights := fs } d.jump d.skip =
      (streamed { d.ctx bk with flights := fs } d.jump d.skip, []) := by
    intro fs
    have hb : (d.ctx bk).branch = none := by rw [hk.branch, ← hbk]; exact hr.branch
    have hl := hk.loops bk (by rw [← hbk]; rfl) (by rw [← hbk]; exact hloops)
    have hpc := hk.pc bk
    exact followOn_streamed (k := { d.ctx bk with flights := fs }) hb (by
      show Inside (d.ctx bk).pc.toNat (d.ctx bk).loops
      rw [hpc]; exact hl) d.jump d.skip
  have hcom := commitRank_at (p := P) (e := e) (d := d) (j := d.jump) (sk := d.skip) hr.drain hw h1 ho hport hwf hof (by rw [hpos]; exact hact) hkc
    hjo hso (by intro fs; rw [hbk', hfol])
  rw [hbk'] at hcom
  rw [hfol] at hcom
  have hst : ∀ fs, streamed { d.ctx bk with flights := fs } d.jump d.skip =
      { streamed (d.ctx bk) d.jump d.skip with flights := fs } := by
    intro fs; unfold streamed; split <;> rfl
  rw [hst] at hcom
  have hstat : ∀ fs, ({ streamed (d.ctx bk) d.jump d.skip with flights := fs } : Ctx).status = (d.ctx bk).status := by
    intro fs; unfold streamed; split <;> rfl
  have hpart : ∀ fs, ({ streamed (d.ctx bk) d.jump d.skip with flights := fs } : Ctx).part = (d.ctx bk).part := by
    intro fs; unfold streamed; split <;> rfl
  have hmop : ∀ fs, ({ streamed (d.ctx bk) d.jump d.skip with flights := fs } : Ctx).mopen = (d.ctx bk).mopen := by
    intro fs; unfold streamed; split <;> rfl
  have hmq : ∀ fs, ({ streamed (d.ctx bk) d.jump d.skip with flights := fs } : Ctx).mq = (d.ctx bk).mq := by
    intro fs; unfold streamed; split <;> rfl
  have hgiv : ∀ fs, ({ streamed (d.ctx bk) d.jump d.skip with flights := fs } : Ctx).giving = (d.ctx bk).giving := by
    intro fs; unfold streamed; split <;> rfl
  have hpass := at_pass hcom hr.small (hkc.tnext _) ?_ ?_ d.conflict
  · obtain ⟨p1, p2, p3, p4, p5, p6, p7⟩ := hpass
    unfold passed
    generalize (modCore (passCycle (commitRank s s.focus x s.focus d.conflict [P] [(P, e)]) s.focus) s.focus
        fun k => { k with held := d.conflict }) = u at *
    have hfl : ended (d.ctx bk) d.jump d.skip (numberedFrom (flightOf d.sq d.conflict) (s.seq + d.works.length) d.outs) =
        if d.jump.isSome then killSquash (getCtx u s.focus x) else getCtx u s.focus x := by
      rw [p2]; rfl
    cases hj : d.jump.isSome
    · simp only [hj, Bool.false_eq_true, if_false] at hfl ⊢
      refine ⟨?_, ?_, ?_, p3, p6, ?_⟩
      · rw [p1]
      · rw [p1]
      · rw [hbk, hfl]
      · refine ⟨?_, p5, p4, p7⟩
        conv => lhs; rw [p1]
        rw [show u.time = max s.time (getCore s s.focus).tnext by rw [p1],
          show u.seq = s.seq + d.works.length + d.outs.length by rw [p1]]
    · simp only [hj, if_true] at hfl ⊢
      refine ⟨?_, ?_, ?_, ?_, p6, ?_⟩
      · show u.time = _; rw [p1]
      · show u.seq = _; rw [p1]
      · rw [getCtx_modCtx_same, hbk, hfl]
      · intro y hy hyx; rw [getCtx_modCtx, if_neg (by omega)]; exact p3 y hy hyx
      · refine ⟨?_, p5, ?_, p7⟩
        · show modCtx u s.focus x killSquash = { s with
            time := u.time, seq := u.seq, cores := u.cores, ctxs := (modCtx u s.focus x killSquash).ctxs, islands := u.islands }
          generalize hv : (modCtx u s.focus x killSquash).ctxs = v
          have : modCtx u s.focus x killSquash = { u with ctxs := v } := by rw [← hv]; rfl
          rw [this]
          conv => lhs; rw [p1]
          rw [show u.time = max s.time (getCore s s.focus).tnext by rw [p1],
            show u.seq = s.seq + d.works.length + d.outs.length by rw [p1]]
        · intro c y hc hy
          have hx := hr.small
          rw [getCtx_modCtx, if_neg (by omega)]; exact p4 c y hc hy
  · intro ch hch
    rw [hcom.core] at hch
    have hch' : ch ∈ (getCore s s.focus).chains := by simpa [hkc.chains] using hch
    rw [← hq.chains ch hch']
    apply chainClosed_congr
    · by_cases hx : ch.ctx % 8 = x
      · rw [hx, hcom.ctx]
        refine ⟨?_, ?_, ?_, ?_⟩
        · rw [hstat, hk.status, ← hbk]; rfl
        · rw [hpart, hk.part, ← hbk]; rfl
        · rw [hmop, hk.mopen, ← hbk]; rfl
        · rw [hmq, hk.mq, ← hbk]; rfl
      · rw [hcom.ctxs _ _ (by omega)]; exact ⟨rfl, rfl, rfl, rfl⟩
    · rw [hcom.core]; exact hkc.cur _
  · intro y hy
    by_cases hyx : y = x
    · subst hyx
      rw [hcom.ctx]
      rw [hgiv, hk.giving, ← hbk]; exact hq.giving y hy
    · rw [hcom.ctxs _ _ (by omega)]; exact hq.giving y hy

/-- What a slot instruction that issues does, when its effect goes on to the next bundle and touches its context and core
alone. -/
theorem did_go {s : State} {x : Nat} {i : Instr} (hI : Issues s x i) (hq : Quiet s) {cls : Nat} {f : Op} {e : Effect} {d : Deed}
    (hc : classOf i = some cls) (hf : slotInfo i = some f)
    (hrun : (f (latchExt s)).run (portAt s x (f (latchExt s))) s = .go e) (hctl : e.ctl = ctlOf d)
    (hjs : d.jump = none ∨ d.skip = none) (hw : e.works = d.works) (h1 : d.works.length ≤ 1) (ho : e.outs = d.outs)
    (hsq : (f (latchExt s)).squash = d.sq)
    (hconf : conflictOf [(onePlaced s.latch cls f, e)] = d.conflict)
    (hwf : ∀ w ∈ d.works, w.fault = none) (hof : ∀ o ∈ d.outs, o.fault = none)
    (hact : ∀ u, At s u s.focus x (began (getCtx s s.focus x)
        (numberedFrom (fun n => workOf d.sq n (getCtx s s.focus x).pc.toNat (s.latch.slot % 4)) s.seq d.works))
      (getCore s s.focus) (s.seq + d.works.length) → ActsAt e.act s.focus x d.ctx d.core u) (hk : Keeps (getCtx s s.focus x).pc d.ctx) (hkc : KeepsCore d.core)
    (hg : e.guards = 0 := by rfl) :
    Did s x i d := by
  refine ⟨_, exec_go hI hc hf hrun (.inl hg), ?_⟩
  have hy := yieldOf_ctlOf (p := onePlaced s.latch cls f) hctl
  have ha := afterOf_ctlOf (p := onePlaced s.latch cls f) hctl
  have hj := jumpOf_ctlOf (p := onePlaced s.latch cls f) hctl
  have : issued s x (onePlaced s.latch cls f) e = passed s x (onePlaced s.latch cls f) e d := by
    unfold issued commitBundle passed
    simp only [List.foldl_cons, List.foldl_nil, hconf, hj, hy, passRanks,
      List.findSome?_cons, ha, Option.map_none, List.findSome?_nil, Nat.max_eq_right, Nat.zero_le]
  rw [this]
  exact didTo_passed hI.1 hq hj (skipOf_ctlOf hctl hjs) hw h1 ho hsq hwf hof hact hk hkc

theorem mset_mset {β : Type} (m : Map β) (k : Nat) (v w : β) : mset (mset m k v) k w = mset m k w := by
  induction m with
  | nil => simp [mset]
  | cons e t ih =>
    obtain ⟨a, b⟩ := e
    simp only [mset]
    split
    · simp [mset]
    · split
      · simp [mset]
      · rename_i h1 h2
        simp [mset, h1, h2, ih]

theorem modCore_modCore (s : State) (c : Nat) (f g : Core → Core) : modCore (modCore s c f) c g = modCore s c (g ∘ f) := by
  show ({ s with cores := _ } : State) = { s with cores := _ }
  congr 1
  rw [getCore_modCore_same]
  exact mset_mset ..

theorem modCtx_modCtx (s : State) (c x : Nat) (f g : Ctx → Ctx) : modCtx (modCtx s c x f) c x g = modCtx s c x (g ∘ f) := by
  show putCtx (modCtx s c x f) c x (g (getCtx (modCtx s c x f) c x)) = putCtx s c x (g (f (getCtx s c x)))
  rw [getCtx_modCtx_same]
  show ({ s with ctxs := _ } : State) = { s with ctxs := _ }
  congr 1
  exact mset_mset ..

/-- What a slot instruction does that meets a yield point and has no other effect. -/
theorem did_yield {s : State} {x : Nat} {i : Instr} (hI : Issues s x i) (hq : Quiet s) {cls : Nat} {f : Op} {y : Ctl}
    (hc : classOf i = some cls) (hf : slotInfo i = some f)
    (hrun : (f (latchExt s)).run (portAt s x (f (latchExt s))) s = .go { ctl := y }) (hy : y.yields = true)
    (hsq : (f (latchExt s)).squash = false) (F : State → State)
    (hF : ∀ u, takeYield u [s.focus] x 0 y = releaseRanks (F u) [s.focus] x (landWait (getCtx u s.focus x)))
    (hfocus : ∀ u, (F u).focus = u.focus) (howner : ∀ u, (getCore (F u) s.focus).owner = (getCore u s.focus).owner)
    (hheld : ∀ u, (getCore (F u) s.focus).held = (getCore u s.focus).held) :
    Yielded s x i F := by
  have hd : DidTo s x {} (passed s x (onePlaced s.latch cls f) { ctl := y } {}) := by
    refine didTo_passed hI.1 hq ?_ ?_ rfl (Nat.zero_le _) rfl hsq (by simp) (by simp) (fun u _ => acts_id s.focus x u) (keeps_id _) keepsCore_id
    · cases y with
      | jump _ _ => cases hy
      | _ => rfl
    · cases y with
      | skip _ => cases hy
      | _ => rfl
  refine ⟨_, hd, ?_⟩
  rw [exec_go hI hc hf hrun]
  congr 1
  have hu : issued s x (onePlaced s.latch cls f) { ctl := y } =
      takeYield (passed s x (onePlaced s.latch cls f) { ctl := y } {}) [s.focus] x 0 y := by
    have hj : jumpOf [(onePlaced s.latch cls f, ({ ctl := y } : Effect))] = none := by
      cases y with
      | jump _ _ => cases hy
      | _ => rfl
    have hyo : yieldOf [(onePlaced s.latch cls f, ({ ctl := y } : Effect))] = some y := by simp [yieldOf, hy]
    have ha : afterOf [(onePlaced s.latch cls f, ({ ctl := y } : Effect))] = none := by
      cases y with
      | after _ => cases hy
      | _ => rfl
    have hcf : conflictOf [(onePlaced s.latch cls f, ({ ctl := y } : Effect))] = 0 := by
      simp only [conflictOf, List.flatMap_cons, List.flatMap_nil, List.append_nil]; rfl
    unfold issued commitBundle passed
    simp only [List.foldl_cons, List.foldl_nil, hcf, hj, hyo, passRanks,
      List.findSome?_cons, ha, Option.map_none, List.findSome?_nil, Nat.max_eq_right, Nat.zero_le]
  rw [hu]
  have hown := hd.core
  have hfo : (passed s x (onePlaced s.latch cls f) { ctl := y } {}).focus = s.focus := by rw [hd.elsewhere.rest]
  generalize passed s x (onePlaced s.latch cls f) { ctl := y } {} = u at *
  have ho : (getCore u s.focus).owner = some x := by
    rw [show getCore u s.focus = _ from hown]; exact hI.1.owner
  have hh : (getCore u s.focus).held = 0 := by rw [show getCore u s.focus = _ from hown]
  rw [hF]
  unfold releaseRanks
  simp only [List.foldl_cons, List.foldl_nil]
  unfold releaseIssue gaveUp
  rw [hfocus, hfo]
  unfold modCore
  simp only [howner, hheld, ho, hh, if_true, Nat.zero_add]

/-- What a slot instruction does that raises a fault after its bundle and has no other effect. -/
theorem did_trap {s : State} {x : Nat} {i : Instr} (hI : Issues s x i) (hq : Quiet s) {cls : Nat} {f : Op} {t : Trap}
    (hc : classOf i = some cls) (hf : slotInfo i = some f)
    (hrun : (f (latchExt s)).run (portAt s x (f (latchExt s))) s = .go { ctl := .after t })
    (hsq : (f (latchExt s)).squash = false) :
    Trapped s x i { t with pc := (getCtx s s.focus x).pc.toNat, mask := 2 ^ (s.latch.slot % 4) } := by
  have hd : DidTo s x {} (passed s x (onePlaced s.latch cls f) { ctl := .after t } {}) := by
    exact didTo_passed hI.1 hq (by simp [jumpOf]) (by simp [skipOf]) rfl (Nat.zero_le _) rfl hsq (by simp) (by simp)
      (fun u _ => acts_id s.focus x u) (keeps_id _) keepsCore_id
  have hcf : conflictOf [(onePlaced s.latch cls f, ({ ctl := .after t } : Effect))] = 0 := by
    simp only [conflictOf, List.flatMap_cons, List.flatMap_nil, List.append_nil]; rfl
  have ha : afterOf [(onePlaced s.latch cls f, ({ ctl := .after t } : Effect))] = some { t with mask := 2 ^ (s.latch.slot % 4) } := rfl
  have hj : jumpOf [(onePlaced s.latch cls f, ({ ctl := .after t } : Effect))] = none := rfl
  have hy : yieldOf [(onePlaced s.latch cls f, ({ ctl := .after t } : Effect))] = none := rfl
  have hu : issued s x (onePlaced s.latch cls f) { ctl := .after t } =
      takeFault (toBoundary (modCtx (passed s x (onePlaced s.latch cls f) { ctl := .after t } {}) s.focus x
        fun k => { k with due := .none }) s.focus x) s.focus x
        { t with pc := (getCtx s s.focus x).pc.toNat, mask := 2 ^ (s.latch.slot % 4) } := by
    unfold issued commitBundle passed
    simp only [List.foldl_cons, List.foldl_nil, hcf, passRanks,
      List.findSome?_cons, Nat.max_eq_right, Nat.zero_le, hj, hy, ha, Option.map_some, dueOf]
  refine ⟨_, hd, ?_⟩
  rw [exec_go hI hc hf hrun, hu]
  have hown := hd.core
  have hfo : (passed s x (onePlaced s.latch cls f) { ctl := .after t } {}).focus = s.focus := by rw [hd.elsewhere.rest]
  generalize passed s x (onePlaced s.latch cls f) { ctl := .after t } {} = u at *
  have ho : (getCore u s.focus).owner = some x := by
    rw [show getCore u s.focus = _ from hown]; exact hI.1.owner
  have hh : (getCore u s.focus).held = 0 := by rw [show getCore u s.focus = _ from hown]
  have ht : toBoundary (modCtx u s.focus x fun k => { k with due := .none }) s.focus x = settled u x := by
    unfold toBoundary settled
    simp only [getCore_modCtx, ho, if_true, hh, hfo]
    exact modCtx_modCtx ..
  rw [ht]

end Sys2Proof.Machine
end

