-- ==== Sys2Proof/Laws/Ready.lean ====
section
/-! SUPPORT. Whether an instruction issues on a given state, as a check that can be evaluated. -/

namespace Sys2Proof.Machine

/-- The conditions of `Ready`, as a check. -/
def readyB (s : State) (x : Nat) : Bool :=
  let k := getCtx s s.focus x
  let core := getCore s s.focus
  decide (x < 8) && decide (core.owner = some x) && decide (core.held = 0) && !k.gang && decide (k.hold = []) &&
  decide (k.drain = none) && decide (k.deferred = []) && decide (k.branch = none) && k.loops.all (fun m => m.last ≠ k.pc.toNat) &&
  decide (levelsLeft k.loops.reverse = k.loops) &&
  !cycleWaits s [s.focus] && (freezeDue s s.focus x [s.focus]).isNone

/-- The conditions of `Issues`, as a check. -/
def issuesB (s : State) (x : Nat) (i : Instr) : Bool :=
  readyB s x && match classOf i, slotInfo i with
    | some cls, some f =>
      (decodeFault (isSampler s.focus) (getCtx s s.focus x).pc.toNat (oneCell s.latch cls f)).isNone &&
      isLive s s.focus x s.focus (onePlaced s.latch cls f) &&
      (waiting s s.focus x s.focus [onePlaced s.latch cls f]).isEmpty &&
      !entryBad s s.focus x s.focus [onePlaced s.latch cls f]
    | _, _ => false

/-- The conditions of `Quiet`, as a check. -/
def quietB (s : State) : Bool :=
  (getCore s s.focus).chains.all (fun ch => !chainClosed s s.focus ch) && (upTo 8).all fun y => (getCtx s s.focus y).giving = []

theorem ready_of_readyB {s : State} {x : Nat} (h : readyB s x = true) : Ready s x := by
  simp only [readyB, Bool.and_eq_true, decide_eq_true_eq, Bool.not_eq_true', Option.isNone_iff_eq_none] at h
  obtain ⟨⟨⟨⟨⟨⟨⟨⟨⟨⟨⟨h1, h2⟩, h3⟩, h4⟩, h5⟩, h6⟩, h7⟩, h8⟩, h9⟩, h10⟩, h11⟩, h12⟩ := h
  exact ⟨h1, h2, h3, h4, h5, h6, h7, h8, h9, h10, h11, h12⟩

theorem issues_of_issuesB {s : State} {x : Nat} {i : Instr} (h : issuesB s x i = true) : Issues s x i := by
  unfold issuesB at h
  rw [Bool.and_eq_true] at h
  obtain ⟨hr, h⟩ := h
  refine ⟨ready_of_readyB hr, ?_⟩
  cases hc : classOf i with
  | none => rw [hc] at h; cases h
  | some cls =>
    cases hf : slotInfo i with
    | none => rw [hc, hf] at h; cases h
    | some f =>
      rw [hc, hf] at h
      simp only [Bool.and_eq_true, Bool.not_eq_true', Option.isNone_iff_eq_none, List.isEmpty_iff] at h
      exact ⟨cls, f, rfl, rfl, h.1.1.1, h.1.1.2, h.1.2, h.2⟩

theorem quiet_of_quietB {s : State} (h : quietB s = true) : Quiet s := by
  simp only [quietB, Bool.and_eq_true, List.all_eq_true, decide_eq_true_eq, Bool.not_eq_true'] at h
  exact ⟨h.1, fun y hy => h.2 y (List.mem_range.mpr hy)⟩

end Sys2Proof.Machine
end

