-- ==== Sys2Proof/Laws/Shape.lean ====
section
/-! SUPPORT. What an instruction of each shape does once it issues. -/

namespace Sys2Proof.Machine

theorem no_conflict (p : Placed) (outs : List Out) (works : List NewWork) :
    conflictOf [(p, ({ outs := outs, works := works } : Effect))] = 0 := by
  simp only [conflictOf, List.flatMap_cons, List.flatMap_nil, List.append_nil]
  rfl

/-- An effect that is results and work alone. -/
theorem did_plain {s : State} {x : Nat} {i : Instr} (hI : Issues s x i) (hq : Quiet s) {cls : Nat} {f : Op} {d : Deed}
    (hc : classOf i = some cls) (hf : slotInfo i = some f)
    (hrun : (f (latchExt s)).run (portAt s x (f (latchExt s))) s = .go { outs := d.outs, works := d.works })
    (hsq : (f (latchExt s)).squash = d.sq) (h1 : d.works.length ≤ 1)
    (hwf : ∀ w ∈ d.works, w.fault = none) (hof : ∀ o ∈ d.outs, o.fault = none)
    (h : d = { sq := d.sq, outs := d.outs, works := d.works }) : Did s x i d := by
  have hcf := no_conflict (onePlaced s.latch cls f) d.outs d.works
  obtain ⟨sq, works, outs, conflict, dctx, dcore, dj, ds⟩ := d
  cases h
  exact did_go hI hq hc hf hrun rfl (Or.inl rfl) rfl h1 rfl hsq hcf hwf hof (fun u _ => acts_id s.focus x u) (keeps_id _) keepsCore_id

/-- An effect that is one result. -/
theorem did_out {s : State} {x : Nat} {i : Instr} (hI : Issues s x i) (hq : Quiet s) {cls : Nat} {f : Op} {q : Bool} {o : Out}
    (hc : classOf i = some cls) (hf : slotInfo i = some f)
    (hrun : (f (latchExt s)).run (portAt s x (f (latchExt s))) s = .go { outs := [o] })
    (hsq : (f (latchExt s)).squash = q) (ho : o.fault = none) : Did s x i { sq := q, outs := [o] } :=
  did_plain hI hq hc hf hrun hsq (Nat.zero_le _) (fun _ h => absurd h List.not_mem_nil)
    (fun p h => by cases List.mem_singleton.mp h; exact ho) rfl

/-- An effect that is one piece of work and results. -/
theorem did_work {s : State} {x : Nat} {i : Instr} (hI : Issues s x i) (hq : Quiet s) {cls : Nat} {f : Op} {q : Bool}
    {w : NewWork} {outs : List Out} (hc : classOf i = some cls) (hf : slotInfo i = some f)
    (hrun : (f (latchExt s)).run (portAt s x (f (latchExt s))) s = .go { outs := outs, works := [w] })
    (hsq : (f (latchExt s)).squash = q) (hw : w.fault = none) (ho : ∀ o ∈ outs, o.fault = none) :
    Did s x i { sq := q, works := [w], outs := outs } :=
  did_plain hI hq hc hf hrun hsq (Nat.le_refl _) (fun p h => by cases List.mem_singleton.mp h; exact hw) ho rfl

theorem elems_map (e : Nat) (y n : Nat) : elems e y n = (upTo n).map (elem e y) := by
  induction n generalizing y with
  | zero => rfl
  | succ n ih =>
    simp only [elems, upTo, List.range_succ_eq_map, List.map_cons, List.map_map, ih]
    congr 1
    · simp [elem]
    · apply List.map_congr_left; intro i hi
      simp only [elem, Function.comp, Nat.succ_eq_add_one, Nat.div_div_eq_div_mul, ← Nat.pow_add]
      rw [show e + e * i = e * (i + 1) by rw [Nat.mul_add]; omega]

/-- The elements an operation reads, by their index. -/
theorem srcElems_map (v : VWord) (lo e n : Nat) : srcElems v lo e n = (upTo n).map (fun i => elem e (v.toNat / 2 ^ lo) i) :=
  elems_map ..

/-- A vector result whose elements are given in another way. -/
theorem did_vec {s : State} {x : Nat} {i : Instr} {g : BitVec 4} {q : BitVec 1} {v : VX} {d lat e j cls : Nat} {f : Op}
    {l l' : List FRes} (hI : Issues s x i) (hq : Quiet s) (hc : classOf i = some cls) (hf : slotInfo i = some f)
    (hrun : (f (latchExt s)).run (portAt s x (f (latchExt s))) s =
      .go (vOut d lat (place (readQ (issuer s x) g.toNat) v.lo e j l)))
    (hsq : (f (latchExt s)).squash = decide (q = 1)) (h : l = l') : Did s x i (vecDeed s x g q v d lat e j l') := by
  subst h
  exact did_out hI hq hc hf hrun hsq rfl

/-- A lane-predicate result whose bits are given in another way. -/
theorem did_lanes {s : State} {x : Nat} {i : Instr} {g : BitVec 4} {q : BitVec 1} {v : VX} {d cls : Nat} {f : Op}
    {l l' : List Bool} (hI : Issues s x i) (hq : Quiet s) (hc : classOf i = some cls) (hf : slotInfo i = some f)
    (hrun : (f (latchExt s)).run (portAt s x (f (latchExt s))) s = .go { outs := (lanesDeed s x g q v d l).outs })
    (hsq : (f (latchExt s)).squash = decide (q = 1)) (h : l = l') : Did s x i (lanesDeed s x g q v d l') := by
  subst h
  exact did_out hI hq hc hf hrun hsq rfl

/-- An effect on more than the context and core. -/
theorem goes {s : State} {x : Nat} {i : Instr} {cls : Nat} {f : Op} {e : Effect} (hI : Issues s x i)
    (hc : classOf i = some cls) (hf : slotInfo i = some f)
    (hrun : (f (latchExt s)).run (portAt s x (f (latchExt s))) s = .go e) (hg : e.guards = 0 := by rfl) : Goes s x i e :=
  ⟨_, by simp [placedAt, hc, hf], exec_go hI hc hf hrun (.inl hg)⟩

/-- An effect that units meet in turn, or that takes entries of the operand guard. -/
theorem goes_turn {s : State} {x : Nat} {i : Instr} {cls : Nat} {f : Op} {e : Effect} {b : Bool} {n : Nat} (hI : Issues s x i)
    (hc : classOf i = some cls) (hf : slotInfo i = some f)
    (hrun : (f (latchExt s)).run (portAt s x (f (latchExt s))) s = .go { e with turn := b, guards := n })
    (hg : n = 0 ∨ guardUsed (getCore s s.focus) + n ≤ 16) : Goes s x i e :=
  ⟨onePlaced s.latch cls f, by simp [placedAt, hc, hf], by rw [exec_go hI hc hf hrun hg, issued_alone]⟩

/-- An effect on the context and core, and on the stream. -/
theorem did_ctx {s : State} {x : Nat} {i : Instr} (hI : Issues s x i) (hq : Quiet s) {cls : Nat} {f : Op} {d : Deed}
    {act : State → State} (hc : classOf i = some cls) (hf : slotInfo i = some f)
    (hrun : (f (latchExt s)).run (portAt s x (f (latchExt s))) s = .go { outs := d.outs, act := act, ctl := ctlOf d })
    (hact : Acts act s.focus x d.ctx d.core) (hk : Keeps (getCtx s s.focus x).pc d.ctx) (hkc : KeepsCore d.core)
    (hsq : (f (latchExt s)).squash = d.sq) (hof : ∀ o ∈ d.outs, o.fault = none)
    (h : d.works = []) (hcf : d.conflict = 0) (hjs : d.jump = none ∨ d.skip = none) : Did s x i d := by
  refine did_go hI hq hc hf hrun rfl hjs h.symm (by simp [h]) rfl hsq ?_ (by simp [h]) hof (fun u _ => hact u) hk hkc
  rw [hcf]; simp only [conflictOf, List.flatMap_cons, List.flatMap_nil, List.append_nil]; rfl

end Sys2Proof.Machine
end

