-- ==== Sys2Proof/Laws/Sums.lean ====
section
/-! SUPPORT. The exact sum that a matrix chain keeps, as Safety states it (R158), and the accumulator of the array: folding the
products in is adding them all, and the word of the sum is the word the close writes. -/

namespace Sys2Proof

open Sys2Proof.Machine

/-- Adding one term and then the rest is adding all. -/
theorem added_cons (f : MatFmt) (a : Acc) (t : FVal × Bool) (ts : List (FVal × Bool)) :
    added f (added f a [t]) ts = added f a (t :: ts) := by
  simp [added, isum, Bool.or_assoc, Bool.and_assoc, Int.add_assoc]

/-- The products folded into the accumulator are the products added to it. -/
theorem foldl_accProduct_eq_added (f : MatFmt) (neg : Bool) (l : List (FVal × FVal)) (a : Acc) :
    l.foldl (fun acc p => accProduct (accUnit f) neg acc p.1 p.2) a =
    added f a (l.map fun p => (if neg then (mulV p.1 p.2).1.flip else (mulV p.1 p.2).1, (mulV p.1 p.2).2)) := by
  induction l generalizing a with
  | nil => simp [added, isum]
  | cons p t ih =>
    rw [List.foldl_cons, ih, List.map_cons, ← added_cons]
    congr 1
    dsimp only [accProduct]
    generalize hm : mulV p.1 p.2 = r
    obtain ⟨v, w⟩ := r
    dsimp only
    generalize (if neg = true then v.flip else v) = v
    cases w <;> cases v <;> simp [added, accAdd, accUnit, isum, scaleV, FVal.isNan]
    · rename_i n; cases n <;> simp

/-- The word of the sum is the word that the close of a chain writes. -/
theorem sumWord_eq_accWord (f : MatFmt) (a : Acc) : sumWord f a = (accWord f a).1 := by
  unfold sumWord accWord
  cases hf : f.isFloat <;> simp
  · congr 1
    simp only [show intLo true 32 = -2147483648 from rfl, show intHi true 32 = 2147483647 from rfl]
    by_cases h1 : a.sum < -2147483648 <;> by_cases h2 : 2147483647 < a.sum <;> simp [h1, h2] <;> omega
  · simp [show fmtF32.nanBits = 0x7FC00000 from rfl, accUnit, hf]
    cases a.nan <;> cases a.bad <;> cases a.pinf <;> cases a.ninf <;> simp [
      show (finish fmtF32 (.inf false false)).bits = 0x7F800000 from by decide, show (finish fmtF32 (.inf true false)).bits = 0xFF800000 from by decide]
    split
    · cases a.any <;> cases a.allNeg <;> simp <;> decide
    · simp

end Sys2Proof
end

