-- ==== Sys2Proof/Tests/Slice0.lean ====
section
/-! SUPPORT. Tests of the definitions, and for each statement with hypotheses a state and operands that meet them. -/

namespace Sys2Proof.Tests

open Sys2Proof Sys2Proof.Machine

/-! ### The checks of WellFormed refuse -/

theorem test_wellFormed_registerRuns : ([
    .spawn 15 0 59 0, .btset 15 0 0 63, .dlbar 15 0 0 62] :
    List Instr).all (fun i => !i.wellFormed) = true := rfl

theorem test_wellFormed_levels : ([
    .loop 15 6 0 0, .loopi 15 6 0 0, .lstr 15 6 0 0 0, .lbrk 15 6] :
    List Instr).all (fun i => !i.wellFormed) = true := rfl

theorem test_wellFormed_predicates : ([
    .lcw 15 3 0 0, .cmpeq 15 0 3 0 0, .cmpne 15 0 3 0 0, .cmplt 15 0 3 0 0, .cmple 15 0 3 0 0, .cmpltn 15 0 3 0 0,
    .cmplen 15 0 3 0 0, .fceq 15 0 3 0 0, .fclt 15 0 3 0 0, .fcle 15 0 3 0 0, .fcun 15 0 3 0 0, .movp 15 0 3 0 0 0,
    .movtp 15 0 3 0, .cmpeqi 15 0 3 0 0, .cmpnei 15 0 3 0 0, .cmplti 15 0 3 0 0, .cmpltni 15 0 3 0 0, .tokrdy 15 3 0,
    .dlbar 15 3 0 0] :
    List Instr).all (fun i => !i.wellFormed) = true := rfl

theorem test_wellFormed_lanePredicates : ([
    .vceq 15 0 0 12 0 0, .vcne 15 0 0 12 0 0, .vclt 15 0 0 12 0 0, .vcle 15 0 0 12 0 0, .vclass 15 0 0 12 0 0,
    .qand 15 0 0 12 0 0, .qor 15 0 0 12 0 0, .qxor 15 0 0 12 0 0, .qmov 15 0 0 12 0] :
    List Instr).all (fun i => !i.wellFormed) = true := rfl

theorem test_wellFormed_tiles : ([
    .mma 15 160 0 0, .mmaz 15 160 0 0, .mman 15 160 0 0, .mlda 15 160 0, .msta 15 160 0, .mdrn 15 160 0, .mdrn 15 3 1,
    .mzero 15 160, .mwm 15 0 160 0] :
    List Instr).all (fun i => !i.wellFormed) = true := rfl

theorem test_wellFormed_codes : ([
    .mcfg 15 15, .mfs 15 0 14, .mts 15 8 0, .budq 15 0 4] :
    List Instr).all (fun i => !i.wellFormed) = true := rfl

theorem test_wellFormed_nextRegister : ([
    .ldgB 15 0 0 0 63 2, .ldgBn 15 0 0 0 63 2, .ldgH 15 0 0 0 63 2, .ldgHn 15 0 0 0 63 2, .ldgW 15 0 0 0 63 2,
    .ldgWn 15 0 0 0 63 2, .ldgD 15 0 0 0 63 2, .stgB 15 0 0 63 2, .stgH 15 0 0 63 2, .stgW 15 0 0 63 2,
    .stgD 15 0 0 63 2, .vldg 15 0 0 0 63 2, .vstg 15 0 0 63 2, .ldS 15 0 0 0 63 2, .stS 15 0 0 63 2, .vldS 15 0 0 0 63 2,
    .vstS 15 0 0 63 2, .vldC 15 0 0 0 63 2, .vstC 15 0 0 63 2, .vldX 15 0 0 0 63 2, .vstX 15 0 0 63 2,
    .vldL 15 0 0 0 63 2, .vstL 15 0 0 63 2, .vldb 15 0 0 0 63 2, .vstb 15 0 0 63 2] :
    List Instr).all (fun i => !i.wellFormed) = true := rfl

theorem test_wellFormed_ownAddress : ([
    .ldgB 15 0 5 0 5 1, .ldgBn 15 0 5 0 5 1, .ldgH 15 0 5 0 5 1, .ldgHn 15 0 5 0 5 1, .ldgW 15 0 5 0 5 1,
    .ldgWn 15 0 5 0 5 1, .ldgD 15 0 5 0 5 1, .ldS 15 0 5 0 5 1] :
    List Instr).all (fun i => !i.wellFormed) = true := rfl

theorem test_wellFormed_vectorDestination : ([
    .vldg 15 0 63 0 0 0, .vldS 15 0 63 0 0 0, .vldC 15 0 63 0 0 0, .vldX 15 0 63 0 0 0, .vldL 15 0 63 0 0 0,
    .vgthS 15 0 63 0 0 0, .vgthL 15 0 63 0 0 0, .vldb 15 0 63 0 0 0] :
    List Instr).all (fun i => !i.wellFormed) = true := rfl

theorem test_wellFormed_pairOfRegisters : ([
    .acas 15 63 0 0 0] :
    List Instr).all (fun i => !i.wellFormed) = true := rfl

theorem test_wellFormed_numbersOfPartsA : ([
    .bundleIssue 48, .contextSwitch 48, .preemptFreeze 48, .issueQuantumExpiry 48, .fixedResultLand 48,
    .interlockedComplete 48 0 0, .interlockedComplete 0 8 0, .ifetchFill 48 0, .ifetchFill 0 8, .contextFree 48 0,
    .contextFree 0 8, .matrixEntryStart 48, .matrixEntryEnd 48, .chainWritebackDone 48, .slewStepBoundary 10,
    .translationWalkComplete 48 0 0, .translationWalkComplete 0 8 0, .translationWalkComplete 0 0 16,
    .xltHandleLand 48 0, .xltHandleLand 0 8, .handleRetranslate 48 0 0, .handleRetranslate 0 8 0,
    .handleRetranslate 0 0 16, .lineCacheEvict 48 0, .peepholeHeldPlace 256, .coalesceWindowExpiry 256,
    .cluAtomicWriteback 10 0, .replicaInvalidateAck 0 10, .fenceComplete 48 0, .fenceComplete 0 8, .engineOpStart 10 0 0,
    .engineOpStart 0 8 0, .engineOpStart 0 0 8] :
    List Instr).all (fun i => !i.wellFormed) = true := rfl

theorem test_wellFormed_numbersOfPartsB : ([
    .engineOpComplete 10 0 0, .engineOpComplete 0 8 0, .engineOpComplete 0 0 8, .tlwaitComplete 48 0,
    .tlwaitComplete 0 8, .tagwSatisfied 48 0, .tagwSatisfied 0 8, .mwaitbSatisfied 48 0, .mwaitbSatisfied 0 8,
    .barwRelease 48 0, .barwRelease 0 8, .qpopGrant 64, .dlbarReady 48 0, .dlbarReady 0 8, .dlbarTimeout 48 0,
    .dlbarTimeout 0 8, .idleExpiry 48 0, .idleExpiry 0 8, .windowStoreAccept 48 0 0, .windowStoreAccept 0 8 0,
    .windowCommitPoint 48 0 0, .windowCommitPoint 0 8 0, .windowCloseComplete 16, .taskQueuePop 64, .clockReduction 10,
    .droopDetect 10, .stretchEpisodeEnd 10, .islandPowerGate 10, .islandUngate 10, .samplerJobStart 8, .samplerRestart 8,
    .shutterGo 8, .shutterAck 8 0] :
    List Instr).all (fun i => !i.wellFormed) = true := rfl

theorem test_wellFormed_numbersOfPartsC : ([
    .shutterComplete 8, .swapOrder 10 0, .swapOrder 0 8, .swapExchange 10, .watchdogExpiry 48 0, .watchdogExpiry 0 8,
    .pcreate 8, .pdestroy 8, .pstop 8, .presume 8, .setcost 8, .setramp 8, .qcreate 8, .qdestroy 8, .pmap 8, .fsvc 8,
    .pstats 8, .csctlReset 8 0 0, .csctlReset 0 64 0, .csctlWrite 8 0 0, .csctlWrite 0 64 0, .cstailWrite 8 0 0,
    .cstailWrite 0 64 0, .csBlockFetch 8 0 0 0, .csBlockFetch 0 64 0 0, .csNop 8 0, .csNop 0 64, .launchCreate 8 0,
    .launchCreate 0 64, .launchPush 8 0, .launchPush 0 64, .launchCancel 8 0, .launchCancel 0 64] :
    List Instr).all (fun i => !i.wellFormed) = true := rfl

theorem test_wellFormed_numbersOfPartsD : ([
    .launchDestroy 8 0, .launchDestroy 0 64, .launchReload 8 0, .launchReload 0 64, .write32 8 0, .write32 0 64,
    .write32Consent 8 0, .write32Consent 0 64, .write64 8 0, .write64 0 64, .waitmem 8 0, .waitmem 0 64,
    .waitmemSatisfied 8 0, .waitmemSatisfied 0 64, .waitmemTimeout 8 0, .waitmemTimeout 0 64, .pred 8 0, .pred 0 64,
    .ibuf 8 0, .ibuf 0 64, .loopp 8 0, .loopp 0 64, .ffence 8 0, .ffence 0 64, .signal 8 0, .signal 0 64,
    .haltRequest 48 0, .haltLand 48 0, .haltLand 0 8, .haltTimeout 48 0, .haltTimeout 0 8, .resumeRequest 48 0,
    .trpopWrite 48] :
    List Instr).all (fun i => !i.wellFormed) = true := rfl

theorem test_wellFormed_accepts : ([.add 15 1 63 63 63, .cmpeq 0 0 10 1 2, .ldS 15 0 4 2 62 2, .mma 15 159 0 63,
    .mdrn 15 158 1, .loopi 15 5 63 511, .bundleIssue 47, .taskQueuePop 63] : List Instr).all (fun i => i.wellFormed) = true :=
  rfl

/-! ### Words of the encoding tables, class by class (R67, R73, R103, R123, R149, R171, R192, R204, R379) -/

theorem test_decode_control : ([
    0x07000000, 0x0D063D34, 0x0D0BB000, 0x0C0DDCD3, 0x07100000, 0x08140000, 0x0D180000, 0x091C0000, 0x0320BFC4] : List (BitVec 32)).map decodeSlot = ([
    .nop 7, .br 13 146740, .brs 13 59, .call 12 122067, .ret 7, .yield 8, .yieldC 13, .endTask 9, .spawn 3 11 63 4] : List Instr).map .ok := rfl

theorem test_decode_scalar_integer : ([
    0x1F83FBE7, 0x1A87F075, 0x188BF08C, 0x1E8FF071, 0x1793F975, 0x1397FA12, 0x179BF15D, 0x1A9FFFE3, 0x1FA3F16D,
    0x14A7F3A0, 0x14ABF931, 0x11AFFD92, 0x16B3F076, 0x1AB7F37B, 0x1EBBF63E, 0x1BBFF124, 0x1AC3FAD1, 0x15C7F541,
    0x1FCBFEC7, 0x12CFF181, 0x11D3F7CB, 0x1AD7F720, 0x13DBFC48, 0x16DFF1D9, 0x16E3F051, 0x1DE7FCE5, 0x14EBF04D,
    0x12EFFDA6, 0x1AF3F0BF, 0x12F7F401] : List (BitVec 32)).map decodeSlot = ([
    .add 15 1 63 47 39, .sub 10 1 63 1 53, .mul 8 1 63 2 12, .mulh 14 1 63 1 49, .mulhn 7 1 63 37 53, .div 3 1 63 40 18,
    .divn 7 1 63 5 29, .rem 10 1 63 63 35, .remn 15 1 63 5 45, .and 4 1 63 14 32, .or 4 1 63 36 49, .xor 1 1 63 54 18,
    .andn 6 1 63 1 54, .shl 10 1 63 13 59, .shr 14 1 63 24 62, .sar 11 1 63 4 36, .rol 10 1 63 43 17, .min 5 1 63 21 1,
    .max 15 1 63 59 7, .minn 2 1 63 6 1, .maxn 1 1 63 31 11, .shadd1 10 1 63 28 32, .shadd2 3 1 63 49 8,
    .shadd3 6 1 63 7 25, .cmpeq 6 1 63 1 17, .cmpne 13 1 63 51 37, .cmplt 4 1 63 1 13, .cmple 2 1 63 54 38,
    .cmpltn 10 1 63 2 63, .cmplen 2 1 63 16 1] : List Instr).map .ok := rfl

theorem test_decode_scalar_float : ([
    0x2C83FD52, 0x2687F14D, 0x298BF066, 0x258FF748, 0x2F93FD64, 0x2297F2C0, 0x2A9BFE8E, 0x2D9FFB8C, 0x22A3FF00,
    0x28A7FF00, 0x26ABF985, 0x26AFF182, 0x28B3F3EF, 0x2BB7F6B4, 0x2EBBF482, 0x22BFFF81, 0x22C3F8C0, 0x2AC7F9C0,
    0x21CBFE80, 0x2ECFF040, 0x21D3F700, 0x23D7F2D2, 0x25DBFF88, 0x21DFFE5C, 0x2FE3FBAC, 0x28E7F225, 0x21EBF780,
    0x2EEFF131, 0x21F3F100] : List (BitVec 32)).map decodeSlot = ([
    .fadd 12 1 63 53 18, .fsub 6 1 63 5 13, .fmul 9 1 63 1 38, .ffma 5 1 63 29 8, .fdiv 15 1 63 53 36, .fsqrt 2 1 63 11,
    .fmin 10 1 63 58 14, .fmax 13 1 63 46 12, .fabs 2 1 63 60, .fneg 8 1 63 60, .fceq 6 1 63 38 5, .fclt 6 1 63 6 2,
    .fcle 8 1 63 15 47, .fcun 11 1 63 26 52, .fcvtif 14 1 63 18 2, .fcvtfi 2 1 63 62 1, .fexp2 2 1 63 35,
    .flog2 10 1 63 39, .clz 1 1 63 58, .ctz 14 1 63 1, .popc 1 1 63 28, .sext 3 1 63 11 18, .zext 5 1 63 62 8,
    .bfx 1 1 63 57 28, .bfxn 15 1 63 46 44, .bfi 8 1 63 8 37, .mov 1 1 63 30, .movp 14 1 63 4 3 1, .movtp 1 1 63 4] : List Instr).map .ok := rfl

theorem test_decode_scalar_immediate : ([
    0x3783F4D4, 0x3287F11C, 0x388BF0B9, 0x3E8FFB48, 0x3C93F556, 0x3197FE44, 0x3D9BFF32, 0x319FF901, 0x39A3F625,
    0x31A7F145, 0x3AABF438, 0x36AFF63B, 0x3BB3F752, 0x37B7F8A8] : List (BitVec 32)).map decodeSlot = ([
    .addi 7 1 63 19 20, .muli 2 1 63 4 28, .andi 8 1 63 2 57, .ori 14 1 63 45 8, .xori 12 1 63 21 22, .shli 1 1 63 57 4,
    .shri 13 1 63 60 50, .sari 1 1 63 36 1, .cmpeqi 9 1 63 24 37, .cmpnei 1 1 63 5 5, .cmplti 10 1 63 16 56,
    .cmpltni 6 1 63 24 59, .movi 11 1 63 1874, .movhi 7 1 63 2216] : List Instr).map .ok := rfl

theorem test_decode_vector_arithmetic : ([
    0x41834029, 0x498584FE, 0x4B89E275, 0x4E8D702B, 0x4492CCD0, 0x4297AABD, 0x479B9D4C, 0x4A9CD1B9, 0x4CA39B80,
    0x43A4CBA0, 0x45A891EB, 0x4DAF06C2, 0x4FB168A3, 0x47B574DA, 0x46BAC1F5, 0x45BF6BF3] : List (BitVec 32)).map decodeSlot = ([
    .vadd 1 1 6 16 1 9, .vsub 9 1 3 1 7 30, .vmul 11 1 3 24 19 21, .vmulh 14 1 2 28 1 11, .vfma 4 1 5 19 6 16,
    .vfms 2 1 7 10 21 29, .vmin 7 1 7 7 10 12, .vmax 10 1 1 20 13 25, .vabs 12 1 7 6 28, .vneg 3 1 1 18 29,
    .vadds 5 1 1 4 15 11, .vsubs 13 1 6 1 22 2, .vavg 15 1 2 26 5 3, .vdot4 7 1 2 29 6 26, .vmulw 6 1 5 16 15 21,
    .vclamp 5 1 6 26 31 19] : List Instr).map .ok := rfl

theorem test_decode_vector_logic : ([
    0x5780E828, 0x5D84D6C8, 0x59895332, 0x518CB1C6, 0x519320E0, 0x5C9707F4, 0x5198D234, 0x5A9D7855, 0x53A33D05,
    0x5BA73E36, 0x51A8A30B, 0x58AFC213, 0x5FB0B379, 0x5BB489BD, 0x5EB991C0, 0x57BEF3A0, 0x51C24A9C, 0x58C7794E,
    0x55CB9860, 0x5BCF654E, 0x5BD09DC6, 0x5FD7A50F, 0x5CD921C0] : List (BitVec 32)).map decodeSlot = ([
    .vand 7 1 1 26 1 8, .vor 13 1 1 21 22 8, .vxor 9 1 2 20 25 18, .vandn 1 1 1 12 14 6, .vnot 1 1 6 8 7,
    .vshl 12 1 6 1 31 20, .vshr 1 1 1 20 17 20, .vsar 10 1 2 30 2 21, .vceq 3 1 6 15 8 5, .vcne 11 1 6 15 17 22,
    .vclt 1 1 1 8 24 11, .vcle 8 1 7 16 16 19, .vclass 15 1 1 12 27 25, .vsel 11 1 1 2 13 29, .vmov 14 1 3 4 14,
    .vbc 7 1 5 28 29, .vmovs 1 1 4 18 20 28, .vins 8 1 6 30 10 14, .viota 5 1 7 6 3, .qand 11 1 6 25 10 14,
    .qor 11 1 1 7 14 6, .qxor 15 1 7 9 8 15, .qmov 12 1 2 8 14] : List Instr).map .ok := rfl

theorem test_decode_vector_convert : ([
    0x6B80AE01, 0x618545AC, 0x648B84CC, 0x6D8DE422, 0x6892E7A4, 0x6797C381, 0x689AD9DE, 0x6E9E7AC2, 0x6CA1C229,
    0x6DA650B0, 0x68ABC489, 0x6AAFEF6E, 0x69B16C80, 0x6FB62240, 0x67B9C460, 0x68BE3020, 0x68C0C3A0, 0x66C77D20,
    0x61C882C0] : List (BitVec 32)).map decodeSlot = ([
    .vcvt 11 1 1 11 16 1, .vcvtw 1 1 2 17 13 12, .vcvtn 4 1 7 1 6 12, .vcvtns 13 1 3 25 1 2, .vpack 8 1 5 25 29 4,
    .vunpk 7 1 7 16 28 1, .vperm 8 1 5 22 14 30, .vrot 14 1 4 30 22 2, .vsld 12 1 3 16 17 9, .vtrn 13 1 4 20 5 16,
    .vcmpr 8 1 7 17 4 9, .vexpd 10 1 7 27 27 14, .vradd 9 1 2 27 4, .vrmax 15 1 4 8 18, .vrmin 7 1 3 17 3,
    .vramax 8 1 4 12 1, .vscan 8 1 1 16 29, .vrcnt 6 1 6 31 9, .vcw 1 1 1 22] : List Instr).map .ok := rfl

theorem test_decode_vector_special : ([
    0x7283C5C0, 0x7687E7A0, 0x7688BDE0, 0x728DF340, 0x7E93BE00, 0x7594B660, 0x719912C0, 0x7C9C84C0, 0x72A0D520,
    0x75A51E6F, 0x71AAC87B, 0x78AD58C2, 0x78B18582, 0x76B64CA2, 0x73BAC686] : List (BitVec 32)).map decodeSlot = ([
    .vexp2 2 1 7 17 14, .vlog2 6 1 7 25 29, .vrcp 6 1 1 15 15, .vrsq 2 1 3 28 26, .vsqrt 14 1 7 15 16,
    .vtanh 5 1 1 13 19, .vsigm 1 1 2 4 22, .vsin 12 1 1 1 6, .vcos 2 1 1 21 9, .vrng 5 1 2 7 19 15, .vtopk 1 1 5 18 3 27,
    .vscale 8 1 2 22 6 2, .vqnt 8 1 3 1 12 2, .vdq 6 1 4 19 5 2, .vlut 3 1 5 17 20 6] : List Instr).map .ok := rfl

theorem test_decode_matrix : ([
    0x88037FE2, 0x89196FC8, 0x832EAFE8, 0x8C358FC0, 0x82450FC0, 0x855E4040, 0x83637000, 0x8C700000] : List (BitVec 32)).map decodeSlot = ([
    .mma 8 55 63 34, .mmaz 9 150 63 8, .mman 3 234 63 40, .mlda 12 88 63, .msta 2 80 63, .mdrn 5 228 1, .mzero 3 55,
    .mcommit 12] : List Instr).map .ok := rfl

theorem test_decode_matrix_control : ([
    0x9F000003, 0x9E023000, 0x92078FF1, 0x9B085000, 0x94098001, 0x9109B002, 0x9D0BC003, 0x960E7E00, 0x9B108000,
    0x93159000] : List (BitVec 32)).map decodeSlot = ([
    .mwaitb 15 3, .mwaitbId 14 6, .mwm 2 56 255 1, .banklendM 11 5, .banklendV 4 24, .banklendRel 1 27,
    .banklendAcq 13 60, .scld 6 4 63, .mcfg 11 4, .medge 3 25] : List Instr).map .ok := rfl

theorem test_decode_memory : ([
    0xAA83F119, 0xA987FED3, 0xA58BF8A3, 0xA58FFAD5, 0xAC93F105, 0xAC97F8E6, 0xA79BF21D, 0xA21F52FD, 0xAE22B195,
    0xA227CA75, 0xAC286565, 0xA6AFF636, 0xA5301AB1, 0xADB7F675, 0xAB3976E9, 0xA9BFF8C9, 0xA54391CF, 0xABC7FEA3,
    0xA64A4932, 0xA9CFFCC1, 0xA453A1BE, 0xACD7FE65, 0xAE595E8A, 0xA5DFFC2D, 0xA362E213, 0xA5E7F107, 0xA56BFAE6,
    0xA16CE4F0, 0xAFF3F536, 0xA6764289, 0xA679F07C, 0xAA7C3000] : List (BitVec 32)).map decodeSlot = ([
    .ldgB 10 1 63 1 6 1, .ldgBn 9 1 63 14 52 3, .ldgH 5 1 63 8 40 3, .ldgHn 5 1 63 10 53 1, .ldgW 12 1 63 1 1 1,
    .ldgWn 12 1 63 8 57 2, .ldgD 7 1 63 2 7 1, .stgB 2 53 2 63 1, .stgH 14 43 1 37 1, .stgW 2 60 10 29 1,
    .stgD 12 6 5 25 1, .vldg 6 1 63 6 13 2, .vstg 5 1 10 44 1, .ldS 13 1 63 6 29 1, .stS 11 23 6 58 1,
    .vldS 9 1 63 8 50 1, .vstS 5 57 1 51 3, .vldC 11 1 63 14 40 3, .vstC 6 36 9 12 2, .vldX 9 1 63 12 48 1,
    .vstX 4 58 1 47 2, .vldL 12 1 63 14 25 1, .vstL 14 21 14 34 2, .vgthS 5 1 63 12 11 1, .vsctS 3 46 2 4 3,
    .vgthL 5 1 63 1 1 3, .vsctL 5 63 10 57 2, .plst 1 14 4 60, .vldb 15 1 63 5 13 2, .vstb 6 36 2 34 1, .xlt 6 1 15 31,
    .hdrop 10 3] : List Instr).map .ok := rfl

theorem test_decode_units : ([
    0xBB007C67, 0xB904119D, 0xBB08F471, 0xB80C3C32, 0xB6101141, 0xB417958E, 0xB819AF86, 0xBD1FF1A1, 0xBC22918E,
    0xBA270F09, 0xBE2BC261, 0xBF2C2FDF, 0xB8309FC3, 0xB631FFDA, 0xB4348FE6, 0xB4380001, 0xB8380005, 0xB738000A,
    0xB43E3FC0, 0xB442AFC0, 0xBB442FC0, 0xB14B1040, 0xB9482141, 0xB249A182, 0xBA4D8000, 0xB1539000, 0xB552F001,
    0xB6543FC0, 0xBF5AEFC0, 0xB55C4FF9, 0xB361BFC0, 0xB7650FC0, 0xB3682FC6, 0xBE6F3000, 0xBB6FA001, 0xB7709FF4,
    0xBD70F0FD, 0xBB7070FE, 0xB975A0FC, 0xB178DFC3, 0xB57C8FC0, 0xB17D05FF] : List (BitVec 32)).map decodeSlot = ([
    .aadd 11 7 12 25 3, .aand 9 1 1 39 1, .aor 11 15 4 28 1, .axor 8 3 12 12 2, .amin 6 1 1 16 1, .amax 4 57 5 35 2,
    .aminn 8 26 15 33 2, .amaxn 13 63 1 40 1, .aswp 12 41 1 35 2, .acas 10 48 15 2 1, .afadd 14 60 2 24 1,
    .hbind 15 2 63 31, .hacqX 8 9 63 3, .hacqS 6 15 63 26, .hrel 4 8 63 38, .fenceRel 4 1, .fenceAcq 8 1, .fenceAr 7 2,
    .bara 4 35 63, .barw 4 42 63, .tlwait 11 2 63, .tlrd 1 49 1, .tlrdSt 9 2 5, .tlrdStc 2 26 6, .tagw 10 24,
    .tagffC 1 57, .tagffS 5 47, .cpy 6 3 63, .mvx 15 46 63, .qpush 5 4 63 57, .qpop 3 27 63, .wopen 7 16 15 48,
    .wcommit 3 2 63 6, .wabortK 14 51, .wabortF 11 58, .pwatchI 7 9 15 61, .pwatchR 13 15 63, .pwatchQ 11 7 63,
    .pdrop 9 26 63, .smpq 1 13 63 3, .tokrdy 5 8 63, .tokrdyS 1 23 63] : List Instr).map .ok := rfl

theorem test_decode_sequencer : ([
    0xC702CCB0, 0xC204FE9B, 0xC208D9F0, 0xCB0E8000, 0xC1104FF0] : List (BitVec 32)).map decodeSlot = ([
    .loop 7 5 4 3248, .loopi 2 1 63 155, .lstr 2 1 2 51 56, .lbrk 11 5, .lcw 1 9 63 1] : List Instr).map .ok := rfl

theorem test_decode_system : ([
    0xD2000ABF, 0xD7066FC0, 0xDA0A5FC0, 0xD60C05FF, 0xDB100021, 0xDD17F000, 0xD21BC03F, 0xDB188FC4, 0xD71C7000,
    0xD81F9001, 0xD4232000, 0xD8267FD6, 0xD4291FC0, 0xDA2EEFEC, 0xD930CFC1, 0xDC34FFFC, 0xD33A0FE9, 0xDE3CC3AB] : List (BitVec 32)).map decodeSlot = ([
    .trap 2 42 63, .mfs 7 38 63, .mts 10 37 63, .trace 6 23 63, .brkpt 11 33, .idle 13 63, .budq 2 60 63,
    .budqCcost 11 8 63, .jrd 7 7, .jrdL 8 57, .thack 4 50, .wpos 8 39 63 22, .walloc 4 17 63, .btset 10 46 63 44,
    .btrd 9 12 63 1, .strn 12 15 63 60, .lexp 3 32 63 41, .dlbar 14 12 14 43] : List Instr).map .ok := rfl

/-! The examples of the spec itself: BARA s9, s20, BARW s20, s9, BRKPT 7, BTRD s9, s20, 1, BTSET s9, s20, s22, BUDQ.BAL s9, BUDQ.CCOST s9, s21, CPY s9, [s20],
DLBAR p4, [h3, s20], FENCE.ACQ.dev, FENCE.AR.sys, FENCE.REL.dev, HACQ.S s9, [h3, s20], HACQ.X s9, [h3, s20],
HBIND s9, [h3, s20], HREL s9, [h3, s20], IDLE s20, JRD s9, JRD.L s9, LDG.W s4, [h2, s5], LEXP s9, s20, s21,
LOOP 0, s8 over two bundles, MDRN.P m0, MFS s9, CYCLE, MTS FFLAGS, s21, MVX s9, [s20], MWAITB 0, PDROP s9, s21,
PWATCH.I s9, [h1, s0], PLST [s11], v7, 3, QPOP s9, s20, QPUSH s9, s20, s21, SMPQ s9, s20, s21, STRN s9, s20, s21,
TAGFF.C s21, TAGFF.S s21, TAGW s21, THACK s9, TLWAIT 2, s21, TOKRDY p4, s21, TOKRDY.S s2, s9, TRACE s20, 5, TRAP s20, 5,
VCMPR.i32 v4, q2, s9, VRNG.f32 v7, v5, v6, WABORT.F s10, WALLOC s14, s10, WCOMMIT s9, s10, s11, WOPEN s9, [h3, s20],
WPOS s10, s12, s13, XLT h2, [s20], MOVI s20, 16, MMA m0, [s10], [s11], MCOMMIT, p12? LSTR of level 0, link 0, s9, s15,
FCLT p2, s20, s21, CMPLT p4, s3, s4. -/

theorem test_decode_examples : ([
    0xBF3C9500, 0xBF414240, 0xDF100007, 0xDF309501, 0xDF2C9516, 0xDF189000, 0xDF189544, 0xBF549500, 0xDF3C40D4,
    0xBF380006, 0xBF38000B, 0xBF380002, 0xBF313509, 0xBF303509, 0xBF2C3509, 0xBF343509, 0xDF154000, 0xDF1C9000,
    0xDF1C9001, 0xAF104214, 0xDF389515, 0xCF000001, 0x8F500040, 0xDF049140, 0xDF089540, 0xBF589500, 0x9F000000,
    0xBF749054, 0xBF709100, 0xAF6C732C, 0xBF609500, 0xBF5C9515, 0xBF789515, 0xDF349515, 0xBF515000, 0xBF515001,
    0xBF4D5000, 0xDF209000, 0xBF442540, 0xBF7C4540, 0xBF7D0089, 0xDF0C0505, 0xDF000505, 0x6F2A1049, 0x7F279CA6,
    0xBF6CA001, 0xDF28E280, 0xBF68928B, 0xBF649350, 0xDF24A30D, 0xAF782050, 0x3F314010, 0x8F00028B, 0x8F700000,
    0xCC08049E, 0x2F2C2515, 0x1F6840C4] : List (BitVec 32)).map decodeSlot = ([
    .bara 15 9 20, .barw 15 20 9, .brkpt 15 7, .btrd 15 9 20 1, .btset 15 9 20 22, .budq 15 9 0, .budqCcost 15 9 21,
    .cpy 15 9 20, .dlbar 15 4 3 20, .fenceAcq 15 2, .fenceAr 15 3, .fenceRel 15 2, .hacqS 15 3 20 9, .hacqX 15 3 20 9,
    .hbind 15 3 20 9, .hrel 15 3 20 9, .idle 15 20, .jrd 15 9, .jrdL 15 9, .ldgW 15 0 4 2 5 0, .lexp 15 9 20 21,
    .loop 15 0 0 1, .mdrn 15 0 1, .mfs 15 9 5, .mts 15 9 21, .mvx 15 9 20, .mwaitb 15 0, .pdrop 15 9 21,
    .pwatchI 15 9 1 0, .plst 15 7 3 11, .qpop 15 9 20, .qpush 15 9 20 21, .smpq 15 9 20 21, .strn 15 9 20 21,
    .tagffC 15 21, .tagffS 15 21, .tagw 15 21, .thack 15 9, .tlwait 15 2 21, .tokrdy 15 4 21, .tokrdyS 15 2 9,
    .trace 15 20 5, .trap 15 20 5, .vcmpr 15 0 4 4 2 9, .vrng 15 0 7 7 5 6, .wabortF 15 10, .walloc 15 14 10,
    .wcommit 15 9 10 11, .wopen 15 9 3 20, .wpos 15 10 12 13, .xlt 15 0 2 20, .movi 15 0 20 16, .mma 15 0 10 11,
    .mcommit 15, .lstr 12 0 0 9 15, .fclt 15 0 2 20 21, .cmplt 15 0 4 3 4] : List Instr).map .ok := rfl

/-- R31, R36, R39, R46: class F, a header, and a word with a reserved bit set decode to none. -/
theorem test_decode_refuses : decodeTableWord 32 0xF0000000 = none ∧ decodeTableWord 32 0xE0000000 = none ∧
    decodeTableWord 32 0x0F000001 = none ∧ decodeTableWord 32 0x9F140001 = none := ⟨rfl, rfl, rfl, rfl⟩


/-! ### States that meet the hypotheses of the statements -/

/-- The machine ready to run, with one partition on its first island. -/
def ground : State :=
  { State.reset with
    control := { mstate := .ready, enable := 0xFF }
    parts := [(0, bootPart)]
    islands := [(0, { cur := some 0, slewAt := 4 })] }

/-- A state in which context 0 of core 0 holds issue, with an instruction's slot in the latch. -/
def stand (i : Instr) (k : Ctx := {}) (core : Core := {}) (s : State := ground) : State :=
  { s with
    latch := { slot := if classOf i = some 0 ∨ classOf i = some 12 then 3 else 0, hdr := none }
    ctxs := [(0, { k with status := .ready })]
    cores := [(0, { core with owner := some 0 })] }

/-- Whether an instruction issues there, and the array is quiet. -/
def meets (i : Instr) (k : Ctx := {}) (core : Core := {}) (s : State := ground) : Bool :=
  issuesB (stand i k core s) 0 i && quietB (stand i k core s)

theorem meets_issues {i : Instr} {k : Ctx} {core : Core} {s : State} (h : meets i k core s = true) :
    Issues (stand i k core s) 0 i ∧ Quiet (stand i k core s) := by
  rw [meets, Bool.and_eq_true] at h
  exact ⟨issues_of_issuesB h.1, quiet_of_quietB h.2⟩

theorem meets_all {α : Type} {l : List α} {f : α → Instr} (h : l.all (fun e => meets (f e)) = true) :
    ∀ e ∈ l, Issues (stand (f e)) 0 (f e) ∧ Quiet (stand (f e)) :=
  fun e he => meets_issues (List.all_eq_true.mp h e he)

/-- The instructions of a list issue, each where it stands alone. -/
abbrev AllIssue (l : List Instr) : Prop := ∀ i ∈ l, Issues (stand i) 0 i ∧ Quiet (stand i)

theorem allIssue {l : List Instr} (h : l.all (fun i => meets i) = true) : AllIssue l :=
  meets_all (f := fun i => i) h

theorem witness_IntegerResults :
    AllIssue (integerTable.map fun e => e.1 15 0 1 2 3) ∧ AllIssue (unaryTable.map fun e => e.1 15 1 1 2) ∧
    AllIssue [.sext 15 0 1 2 63, .zext 15 1 63 2 0, .bfi 15 0 1 2 3] ∧ AllIssue (divideTable.map fun e => e.1 15 1 63 63 63) :=
  ⟨allIssue (by decide +kernel), allIssue (by decide +kernel), allIssue (by decide +kernel), allIssue (by decide +kernel)⟩

theorem witness_PredicateAndImmediateResults :
    AllIssue (compareTable.map fun e => e.1 15 0 8 2 3) ∧ AllIssue (compareImmTable.map fun e => e.1 15 1 0 2 63) ∧
    AllIssue [.movp 15 0 10 0 0 15, .movp 15 0 4 2 1 3, .movp 15 0 4 2 2 3, .movp 15 0 4 2 3 3, .movtp 15 0 0 1] ∧
    AllIssue (immediateTable.map fun e => e.1 15 0 1 2 63) ∧ AllIssue (shiftImmTable.map fun e => e.1 15 0 63 2 0) ∧
    AllIssue [.movi 15 0 1 4095, .movhi 15 1 63 2048] :=
  ⟨allIssue (by decide +kernel), allIssue (by decide +kernel), allIssue (by decide +kernel), allIssue (by decide +kernel), allIssue (by decide +kernel), allIssue (by decide +kernel)⟩

theorem witness_FloatResults :
    AllIssue (floatTable.map fun e => e.1 15 0 1 2 3) ∧ AllIssue (floatUnaryTable.map fun e => e.1 15 0 1 2) ∧
    AllIssue [.ffma 15 0 1 2 3, .fdiv 15 0 1 2 3, .fsqrt 15 0 1 2, .fcvtif 15 0 1 2 0, .fcvtif 15 0 1 2 3, .fcvtfi 15 0 1 2 0,
      .fcvtfi 15 0 1 2 3] ∧
    AllIssue (floatCompareTable.map fun e => e.1 15 0 2 1 1) :=
  ⟨allIssue (by decide +kernel), allIssue (by decide +kernel), allIssue (by decide +kernel), allIssue (by decide +kernel)⟩

theorem witness_VectorElementResults :
    AllIssue (vector3Table.map fun e => e.1 15 0 5 1 2 3) ∧ AllIssue (vector2Table.map fun e => e.1 15 1 7 31 2) :=
  ⟨allIssue (by decide +kernel), allIssue (by decide +kernel)⟩

theorem witness_VectorWideResults : AllIssue [.vdot4 15 0 1 1 2 3, .vmulw 15 0 2 1 2 3, .vmulw 15 0 6 1 2 3] := allIssue (by decide +kernel)

theorem witness_LaneAndMoveResults :
    AllIssue (vectorCompareTable.map fun e => e.1 15 0 2 4 2 3) ∧ AllIssue [.vclass 15 0 7 4 2 31] ∧
    AllIssue (laneLogicTable.map fun e => e.1 15 0 2 4 0 15) ∧
    AllIssue [.qmov 15 0 2 0 15, .vsel 15 0 0 1 2 3, .vsel 15 0 7 1 2 3, .vbc 15 0 2 1 2, .viota 15 0 2 1 2] ∧
    AllIssue [.vins 15 0 2 1 2 0, .vins 15 0 2 1 2 31, .vmovs 15 0 2 1 2 31, .vrcnt 15 0 2 1 15] :=
  ⟨allIssue (by decide +kernel), allIssue (by decide +kernel), allIssue (by decide +kernel), allIssue (by decide +kernel), allIssue (by decide +kernel)⟩

theorem witness_ConvertAndScaleResults :
    typeOf 0 0 = some (VTy.int true 8) ∧ typeOf 0 2 = some (VTy.int true 16) ∧
    AllIssue [.vcvt 15 0 1 1 2 0, .vcvtw 15 0 2 1 2 0, .vcvtn 15 0 0 1 2 2, .vcvtns 15 0 0 1 2 2] ∧
    AllIssue [.vscale 15 0 7 1 2 3, .vqnt 15 0 5 1 2 0, .vdq 15 0 5 1 2 3] := ⟨rfl, rfl, allIssue (by decide +kernel), allIssue (by decide +kernel)⟩

theorem witness_VectorAcrossResults :
    AllIssue [.vperm 15 0 2 1 2 3, .vrot 15 0 2 1 2 3, .vrot 15 0 2 1 2 0, .vsld 15 0 2 1 2 3, .vtrn 15 0 2 1 2 3,
      .vpack 15 0 2 1 2 3] ∧
    AllIssue [.vunpk 15 0 1 1 2 0, .vunpk 15 0 1 1 2 1, .vtopk 15 0 2 1 2 0, .vtopk 15 0 2 1 2 31, .vlut 15 0 2 1 2 3,
      .vexpd 15 0 2 1 2 15] ∧
    AllIssue (reduceTable.map fun e => e.1 15 0 2 1 2) := ⟨allIssue (by decide +kernel), allIssue (by decide +kernel), allIssue (by decide +kernel)⟩

theorem witness_CompressAndControlWord :
    AllIssue [.vcmpr 15 0 2 1 15 3, .vcw 15 0 2 1] ∧
    (issuer (stand (.vcw 15 0 2 1)) 0).cwq.length + countIf (fun f => f.reg = .cwq) (issuer (stand (.vcw 15 0 2 1)) 0).flights < 4 :=
  ⟨allIssue (by decide +kernel), by decide⟩

theorem witness_BranchResults :
    AllIssue [.nop 15, .br 15 131071, .br 15 131072, .brs 15 0, .call 15 262143, .ret 15] := allIssue (by decide +kernel)

theorem witness_YieldAndSpawnResults :
    AllIssue [.yield 15, .yieldC 15, .endTask 15, .spawn 15 0 1 7] ∧
    (let s := stand (.yieldC 15) { spawned := true }
     Issues s 0 (.yieldC 15) ∧ releasing (issuer s 0) = false ∧ (issuer s 0).spawned = true) ∧
    (let s := stand (.yieldC 15)
     releasing (issuer s 0) = false ∧ (issuer s 0).spawned = false) ∧
    (let s := stand (.endTask 15)
     releasing (issuer s 0) = false ∧ heldAtEnd s s.focus 0 = none) ∧
    occupied (stand (.spawn 15 0 1 7)) 0 7 = false :=
  ⟨allIssue (by decide +kernel), ⟨(meets_issues (by decide +kernel)).1, rfl, rfl⟩, ⟨rfl, rfl⟩, ⟨rfl, rfl⟩, rfl⟩

/-- A context inside one loop level. -/
def inLoop : Ctx where
  pc := 32
  loops := [⟨0, 4, 16, 160, 1, [], false, 0, false⟩]
/-- A context whose register s10 holds three trips of two stages. -/
def withTrips : Ctx := { s := [(10, 0x100000003)] }
/-- Whether a loop of `n` bundles fits within a context's innermost level, at level `l`. -/
def fits (k : Ctx) (l n : Nat) : Bool :=
  k.loops.length = l && match k.loops.getLast? with
    | some m => decide (m.first ≤ k.pc.toNat + 16 ∧ k.pc.toNat + 16 * n ≤ m.last)
    | none => true

theorem witness_SequencerResults :
    (Issues (stand (.loop 15 0 2 4095) withTrips) 0 (.loop 15 0 2 4095) ∧ fits withTrips 0 4096 = true ∧
      (readS withTrips 10).toNat % 2 ^ 32 = 3) ∧
    (Issues (stand (.loop 15 1 2 7) inLoop) 0 (.loop 15 1 2 7) ∧ fits inLoop 1 8 = true ∧ (readS inLoop 10).toNat % 2 ^ 32 = 0) ∧
    (Issues (stand (.loopi 15 1 63 0) inLoop) 0 (.loopi 15 1 63 0) ∧ fits inLoop 1 1 = true) ∧
    (Issues (stand (.lstr 15 0 3 5 6) inLoop) 0 (.lstr 15 0 3 5 6) ∧ Quiet (stand (.lstr 15 0 3 5 6) inLoop) ∧
      0 < inLoop.loops.length) ∧
    (Issues (stand (.lbrk 15 0) inLoop) 0 (.lbrk 15 0)) ∧
    (Issues (stand (.lcw 15 4 63 1) { cwq := [5] }) 0 (.lcw 15 4 63 1)) ∧
    AllIssue [.lcw 15 0 0 0] :=
  ⟨⟨(meets_issues (by decide +kernel)).1, rfl, rfl⟩, ⟨(meets_issues (by decide +kernel)).1, rfl, rfl⟩, ⟨(meets_issues (by decide +kernel)).1, rfl⟩,
    ⟨(meets_issues (by decide +kernel)).1, (meets_issues (by decide +kernel)).2, by decide⟩, (meets_issues (by decide +kernel)).1, (meets_issues (by decide +kernel)).1, allIssue (by decide +kernel)⟩

theorem witness_SystemRegisterResults :
    AllIssue [.mfs 15 1 0, .mfs 15 1 13, .mts 15 9 1, .mts 15 12 1] ∧ (operand (stand (.mts 15 12 1)) 0 1).toNat % 32 ≤ 14 :=
  ⟨allIssue (by decide +kernel), by decide⟩

theorem witness_TrapResults :
    AllIssue [.trap 15 1 63, .brkpt 15 63, .idle 15 1] ∧
    (let s := stand (.brkpt 15 63) {} { probe := { brken := 0x8000000000000000 } } { ground with parts := [(0, { bootPart with consent := 7 })] }
     Issues s 0 (.brkpt 15 63) ∧ Quiet s ∧ ((getCore s s.focus).probe.brken.getLsbD 63 && consents s (issuer s 0).part 1) = true) ∧
    (let s := stand (.brkpt 15 63)
     ((getCore s s.focus).probe.brken.getLsbD 63 && consents s (issuer s 0).part 1) = false) ∧
    (operand (stand (.idle 15 1)) 0 1).toNat ≤ timeNs (stand (.idle 15 1)) :=
  ⟨allIssue (by decide +kernel), ⟨(meets_issues (by decide +kernel)).1, (meets_issues (by decide +kernel)).2, by decide +kernel⟩, by decide +kernel,
    by decide +kernel⟩

theorem witness_FaultTakenAndReturn :
    (let s := stand (.trap 15 1 63)
     (getCtx s 0 0).gang = false ∧ (getCore s 0).owner = some 0) ∧
    (let s := { ground with ctxs := [(39 * 8 + 7, ({ status := .frozen } : Ctx))] }
     (getCtx s 39 7).gang = false ∧ (getCtx s 39 7).status = .frozen ∧
      (∀ p, mfind s.parts (getCtx s 39 7).part = some p → p.stopped = false) ∧ mfind s.swaps (39 / 4) = none) :=
  ⟨⟨rfl, rfl⟩, ⟨rfl, rfl, fun p hp => by cases hp; rfl, rfl⟩⟩

/-- A region whose carves are the first 64 KiB of every level and whose pool is every bank. -/
def carved : State :=
  { ground with regions := [(0, { noRegion with
      carves := [(0, 65536), (0, 65536), (0, 65536), (0, 65536)], pool := 2 ^ 40 - 1 })] }
/-- A context with a handle on a readable and writable page at 0x20000. -/
def holder : Ctx := { h := [(0, { valid := true, perm := 3, base := 0x20000, va := 0x20000 })] }
/-- Where an access through that handle goes. -/
def place : Place := { pa := 0x20000, va := 0x20000, z := 0, watched := false, rdup := false, bind := 0, cur := 64 }
/-- A machine with window 0 open, of four overlay lines. -/
def windowed : State := { ground with windows := [(0, { opened := true, ovl := 4 })] }
/-- A context at position 0 of that window, with a handle through it, whose store the window unit has accepted. -/
def poster : Ctx :=
  { h := [(0, { valid := true, perm := 3, base := 0x20000, va := 0x20000, bind := 0x1000 })], curw := some 0, wack := true }
/-- Where its store goes. -/
def windowPlace : Place := { place with bind := 0x1000, cur := 0 }

/-- Core 0 with two contexts. -/
def pair (k l : Ctx) (core : Core) (s : State := ground) : State := { s with ctxs := [(0, k), (1, l)], cores := [(0, core)] }
/-- A piece of work. -/
def piece (w : WorkKind) : Work := { id := 5, reg := .s 1, kind := w, squash := false, pc := 0, slot := 0 }
/-- Whether every instruction of a list issues on one context, core and machine. -/
def allMeet (l : List Instr) (k : Ctx := {}) (core : Core := {}) (s : State := ground) : Bool := l.all fun i => meets i k core s

/-- They issue, each where it stands alone. -/
abbrev AllOn (l : List Instr) (k : Ctx := {}) (core : Core := {}) (s : State := ground) : Prop :=
  ∀ i ∈ l, Issues (stand i k core s) 0 i ∧ Quiet (stand i k core s)

theorem allOn {l : List Instr} {k : Ctx} {core : Core} {s : State} (h : allMeet l k core s = true) : AllOn l k core s :=
  fun i hi => meets_issues (List.all_eq_true.mp h i hi)

theorem witness_GlobalLoads :
    AllOn (loadTable.map fun e => e.1 15 0 1 0 0 0) holder ∧ AllOn (loadTable.map fun e => e.1 15 1 1 0 2 1) holder ∧
    (∀ e ∈ loadTable, let s := stand (e.1 15 1 1 0 2 1) holder
      checkGlobal s (issuer s 0) 0 (globalOff (latchExt s) (issuer s 0) 2 e.2.bytes) e.2.bytes true false
        { uncached := true } = .ok place) ∧
    -- a load performed, of a line that holds its first byte alone, and of a poisoned one
    (let s := pair {} {} { lines := [(0x400, { emptyLine with val := 0xFF, valid := 1, dirty := 1 })] }
     place.bind = 0 ∧ isMmio place.pa = false ∧ place.pa % 128 + (LoadAs.signed 4).bytes ≤ 128 ∧ lineHit s 0 place.pa 4 = false ∧
     lineFits (getCore s 0) (place.pa / 128) = true) ∧
    linePoison ({ ground with badLines := [0x400] } : State) (place.pa / 128) = true :=
  ⟨allOn (by decide +kernel), allOn (by decide +kernel), by decide +kernel, by decide +kernel, by decide +kernel⟩

theorem witness_GlobalStores :
    AllOn (storeTable.map fun e => e.1 15 1 0 2 0) holder ∧ AllOn (storeTable.map fun e => e.1 15 1 0 2 0) poster {} windowed ∧
    (∀ e ∈ storeTable, let s := stand (e.1 15 1 0 2 0) holder
      checkGlobal s (issuer s 0) 0 (globalOff (latchExt s) (issuer s 0) 2 e.2.1) e.2.1 false true {} = .ok place ∧
      isMmio place.pa = false ∧ place.watched = false ∧ storeWaits (issuer s 0) place e.2.1 = false ∧
      lineFits (getCore s s.focus) (place.pa / 128) = true) ∧
    ∀ e ∈ storeTable, let s := stand (e.1 15 1 0 2 0) poster {} windowed
      checkGlobal s (issuer s 0) 0 (globalOff (latchExt s) (issuer s 0) 2 e.2.1) e.2.1 false true {} = .ok windowPlace ∧
      windowPlace.bind ≠ 0 ∧ committing (issuer s 0) (bindWindow windowPlace.bind) = false ∧
      worksMeet (issuer s 0).works (0, windowPlace.pa, e.2.1) = false ∧
      storesMeet s s.focus (windowPlace.pa / 128 * 128) 128 = false ∧
      windowStoreFault s windowPlace = none ∧ (issuer s 0).wack = true :=
  ⟨allOn (by decide +kernel), allOn (by decide +kernel), by decide +kernel, by decide +kernel⟩

theorem witness_BytesStored : 0 + 128 ≤ 128 ∧ 127 + 1 ≤ 128 := by decide

/-- Whether a core-scratchpad access of context 0 at address 0 is inside its carve, unguarded and unpoisoned. -/
abbrev Clear (s : State) (at_ n : Nat) (store : Bool) : Prop :=
  guardMeets s s.focus at_ n store = false ∧ inCarve s (issuer s 0) 0 at_ n = true ∧ spadBad s s.focus at_ n = false

theorem witness_ScratchLoads :
    AllOn (spadLoadTable.map fun e => e.1 15 0 1 0 2 0) {} {} carved ∧
    ∀ e ∈ spadLoadTable, let s := stand (e.1 15 0 1 0 2 0) {} {} carved
      Clear s (spadAddr (latchExt s) (issuer s 0) 0 2 e.2.bytes) e.2.bytes false :=
  ⟨allOn (by decide +kernel), by decide +kernel⟩

theorem witness_ScratchStores :
    AllOn (spadStoreTable.map fun e => e.1 15 1 0 2 0) { s := [(2, 65408)] } {} carved ∧
    ∀ e ∈ spadStoreTable, let s := stand (e.1 15 1 0 2 0) { s := [(2, 65408)] } {} carved
      Clear s (spadAddr (latchExt s) (issuer s 0) 0 2 e.2.1) e.2.1 true :=
  ⟨allOn (by decide +kernel), by decide +kernel⟩

/-- A core with bank 0 granted to context 0, in V mode or not. -/
def banked (v : Bool) : Core := { banks := [(0, ⟨0, 0, v⟩)] }

theorem witness_LevelAndBankAccesses :
    AllOn (levelLoadTable.map fun e => e.1 15 0 1 0 2 0) {} {} carved ∧ AllOn (levelStoreTable.map fun e => e.1 15 1 0 2 0) {} {} carved ∧
    AllOn [.vldL 15 0 1 0 2 0, .vstL 15 1 0 2 0] {} {} carved ∧
    AllOn [.plst 15 1 0 2, .plst 15 1 15 2] { mfmt := 1 } {} carved ∧ AllOn [.vldb 15 0 1 0 2 0, .vstb 15 1 0 2 0] {} (banked true) carved ∧
    (∀ e ∈ levelLoadTable, let s := stand (e.1 15 0 1 0 2 0) {} {} carved; inCarve s (issuer s 0) e.2.index 0 128 = true) ∧
    (let s := stand (.vldL 15 0 1 0 2 0) {} {} carved
     inCarve s (issuer s 0) 3 0 32 = true ∧ ∀ n, n < 4 → laneBad s s.focus n 0 = false) ∧
    (let s := stand (.plst 15 1 0 2) { mfmt := 1 } {} carved
     ∃ f, matFmt 1 = some f ∧ let ps := columnPieces f 0 (elems f.b.bits (readV (issuer s 0) 1).toNat f.k)
      (∀ p ∈ ps, guardMeets s s.focus (0 + p.1) p.2.1 true = false) ∧ firstOutside s (issuer s 0) (ps.map fun p => (0 + p.1, p.2.1)) = none) ∧
    (let s := stand (.vldb 15 0 1 0 2 0) {} (banked true) carved
     bankRow s s.focus 0 0 = .inl 0 ∧ bankBad (getCore s s.focus) 0 = false) :=
  ⟨allOn (by decide +kernel), allOn (by decide +kernel), allOn (by decide +kernel), allOn (by decide +kernel),
    allOn (by decide +kernel), by decide +kernel, by decide +kernel, ⟨_, rfl, by decide +kernel⟩, by decide +kernel⟩

theorem witness_GatherScatter :
    AllOn (gatherTable.map fun e => e.1 15 0 1 0 2 3) {} {} carved ∧ AllOn (scatterTable.map fun e => e.1 15 1 0 2 0) {} {} carved ∧
    (∀ e ∈ gatherTable, let s := stand (e.1 15 0 1 0 2 3) {} {} carved
      ∀ n ∈ gatherElems (latchExt s) (issuer s 0) 0 2 8, inCarve s (issuer s 0) (if e.2 then 3 else 0) n.a 8 = true ∧
        guardMeets s s.focus n.a 8 false = false ∧ spadBad s s.focus n.a 8 = false ∧ laneBad s s.focus (n.i * 8 * 8 / 256) n.a = false) ∧
    ∀ e ∈ scatterTable, let s := stand (e.1 15 1 0 2 0) {} {} carved
      ∀ n ∈ gatherElems (latchExt s) (issuer s 0) 0 2 1, inCarve s (issuer s 0) (if e.2 then 3 else 0) n.a 1 = true ∧
        guardMeets s s.focus n.a 1 true = false :=
  ⟨allOn (by decide +kernel), allOn (by decide +kernel), by decide +kernel, by decide +kernel⟩

theorem witness_HandleResults : AllIssue [.xlt 15 0 0 1, .xlt 15 1 15 1, .hdrop 15 0, .hdrop 15 15] := allIssue (by decide +kernel)

theorem witness_AtomicsInHand :
    AllOn (atomicTable.map fun e => e.1 15 1 0 2 0) holder ∧ AllOn (atomicTable.map fun e => e.1 15 62 0 2 3) holder ∧
    (∀ e ∈ atomicTable, let s := stand (e.1 15 1 0 2 0) holder
      let z := if e.2 = .fadd then 4 else 8
      checkGlobal s (issuer s 0) 0 (globalOff (latchExt s) (issuer s 0) 2 z) z true true
        { bound := true, uncached := true } = .ok place) ∧
    -- performed at each home
    (let s := pair {} {} { lines := [(0x400, { emptyLine with val := 5, valid := 0xFF })] }
     let line := mget (getCore s 0).lines 0x400 emptyLine
     place.pa % 8 = 0 ∧ atomicHome 0 .core place = .core ∧ lineHit s 0 place.pa 8 = true ∧ line.poison = false ∧
     linePoison s 0x400 = false ∧ atomicHome 0 .sys place ≠ .core ∧ atomicHome 0 .sys place ≠ .clu ∧ lineBusy s 0x400 = false ∧
     replicasOf s place.pa = [] ∧ ∀ e ∈ s.cluLines, e.line ≠ 0x400) ∧
    (atomicHome 0 .clu place = .clu ∧ mfind (getCore ground 0).lines 0x400 = none ∧ lineBusy ground 0x400 = false) :=
  ⟨allOn (by decide +kernel), allOn (by decide +kernel), by decide +kernel, by decide +kernel, by decide +kernel⟩

theorem witness_MatrixEntries :
    AllOn ([.mcommit 15, .mzero 15 3] ++ (tileMoveTable.map fun e => e.1 15 0 2)) { mfmt := 1 } (banked false) carved ∧
    AllOn (mmaTable.map fun e => e.1 15 3 2 2) { mfmt := 1 } (banked false) carved ∧
    (let s := stand (.mma 15 3 2 2) { mfmt := 1 } (banked false) carved
     (issuer s 0).mq.length < 16 ∧ guardUsed (getCore s s.focus) < 16 ∧ bankM s s.focus 0 (bankOf 3) = true ∧
     firstOutside s (issuer s 0) [(0, 2048)] = none ∧ awaitsMsta s s.focus [(0, 2048)] = false ∧
     ∃ f, matFmt 1 = some f ∧ firstOutside s (issuer s 0) (mmaRanges f 0 0 f.full (issuer s 0).edge) = none ∧
      awaitsMsta s s.focus (mmaRanges f 0 0 f.full (issuer s 0).edge) = false) :=
  ⟨allOn (by decide +kernel), allOn (by decide +kernel), by decide +kernel, by decide +kernel, by decide +kernel, by decide +kernel,
    by decide +kernel, ⟨_, rfl, by decide +kernel, by decide +kernel⟩⟩

theorem witness_MatrixControl :
    AllOn [.mdrn 15 0 0, .mdrn 15 2 1, .mwaitb 15 0, .mwaitbId 15 1, .mwm 15 1 3 0, .mwm 15 1 3 1] {} (banked false) carved ∧
    AllOn [.banklendM 15 1, .banklendV 15 1, .banklendRel 15 1, .scld 15 0 1, .scld 15 7 1, .mcfg 15 14, .medge 15 1] {}
      (banked false) carved ∧
    AllOn [.banklendAcq 15 1] { s := [(1, 39)] } {} carved ∧
    (let s := stand (.mwaitb 15 0) {} (banked false) carved
     bankM s s.focus 0 (bankOf 3) = true ∧ openBatches (getCore s s.focus) (issuer s 0) 0 ≤ 0 ∧
     batchDone (getCore s s.focus) (issuer s 0) 0 (batchNamed (issuer s 0) 0) = true ∧
     (∃ b, mfind (getCore s s.focus).banks 0 = some b ∧ b.ctx = 0) ∧ bankFlight (getCore s s.focus) 0 = false ∧
     bankBusy (getCore s s.focus) (issuer s 0) 0 0 = false ∧ Clear s 0 128 false) ∧
    (let s := stand (.banklendAcq 15 1) { s := [(1, 39)] } {} carved
     bitOf (ctxRegion s (issuer s 0)).pool 39 = true ∧ mfind (getCore s s.focus).banks 39 = none ∧
     bankFlight (getCore s s.focus) 39 = false) :=
  ⟨allOn (by decide +kernel), allOn (by decide +kernel), allOn (by decide +kernel),
    ⟨by decide +kernel, by decide +kernel, by decide +kernel, ⟨_, rfl, rfl⟩, by decide +kernel, by decide +kernel, by decide +kernel⟩,
    by decide +kernel⟩

/-- Memory with a hatch at 0x20000: its OWNER, a region of 128 bytes at 0x40000, and BIND naming binding 0. -/
def hatchMem (owner : Nat) : List Host.Cell :=
  writeNat (writeNat (writeNat (writeNat [] 0x20000 8 owner) 0x20018 8 0x40000) 0x20020 8 128) 0x20028 8 (2 ^ 63 + 1)
/-- A machine with that hatch bound. -/
def hatched (owner : Nat) : State :=
  { ground with
    mem := hatchMem owner
    parts := [(0, { bootPart with bindings := [(0, ⟨0x20000, 0x40000, 0x40000, 128⟩)] })] }

/-- A hatch instruction's place, and the binding its hatch names. -/
abbrev AtHatch (s : State) : Prop :=
  hatchPlace s (here s 0) (latchExt s) 0 2 = .ok { place with z := 0 } ∧ releasing (issuer s 0) = false ∧
  (bindingOf s (issuer s 0).part 0x20000 (readHatch s 0x20000)).isSome = true

theorem witness_FencesAndHatches :
    AllIssue [.fenceRel 15 0, .fenceAcq 15 3, .fenceAr 15 2] ∧ AllOn [.hbind 15 0 2 1] holder ∧
    AllOn [.hacqX 15 0 2 1, .hacqS 15 0 2 1] holder {} (hatched 0) ∧ AllOn [.hrel 15 0 2 1] holder {} (hatched (2 ^ 63)) ∧
    AllOn [.hrel 15 0 2 1] holder {} (hatched (2 ^ 48)) ∧
    (let s := stand (.hbind 15 0 2 1) holder
     hatchPlace s (here s 0) (latchExt s) 0 2 = .ok place ∧ lineDirty s s.focus (place.pa / 128) = false ∧
     (hbindRun s s.focus 0 place).2 = .inl (-3)) ∧
    (let s := stand (.hacqX 15 0 2 1) holder {} (hatched 0)
     AtHatch s ∧ (getCore s s.focus).holdings.length < 16 ∧ (readHatch s 0x20000).excl = false ∧
     hacqReady s s.focus 0 place true = true ∧ hacqReady s s.focus 0 place false = true) ∧
    (let s := stand (.hacqX 15 0 2 1) holder {} (hatched (2 ^ 63))
     (bindingOf s 0 0x20000 (readHatch s 0x20000)).isSome = true) ∧
    (let s := stand (.hrel 15 0 2 1) holder {} (hatched (2 ^ 63))
     AtHatch s ∧ (readHatch s 0x20000).excl = true ∧ (readHatch s 0x20000).tag = (issuer s 0).cr) ∧
    (let s := stand (.hrel 15 0 2 1) holder {} (hatched (2 ^ 48))
     AtHatch s ∧ (readHatch s 0x20000).excl = false ∧ 0 < (readHatch s 0x20000).shared) :=
  ⟨allIssue (by decide +kernel), allOn (by decide +kernel), allOn (by decide +kernel), allOn (by decide +kernel),
    allOn (by decide +kernel), by decide +kernel, by decide +kernel, by decide +kernel, by decide +kernel, by decide +kernel⟩

/-- A machine with barrier 0 of cluster 0 in phase 1, and a value queue of one entry. -/
def synced : State :=
  { ground with
    barriers := [(0, ⟨0, 1, 0⟩), (1031, ⟨0, 1, 0⟩)]
    queues := [(63, { part := 0, task := false, scope := .core, home := 0, cap := 2, place := 0, items := [9], waiters := [] })] }

theorem witness_BarriersQueuesAndTags :
    AllOn [.bara 15 1 2, .barw 15 2 2, .tlwait 15 0 2, .tlrd 15 1 0, .tlrdSt 15 1 7, .tlrdStc 15 1 7] {} {} synced ∧
    AllOn [.bara 15 1 2, .barw 15 2 3] { s := [(2, 31)] } {} synced ∧
    AllOn [.qpush 15 1 2 3, .qpop 15 1 2] { s := [(2, 63)] } {} synced ∧
    AllIssue [.tagw 15 2, .tagffC 15 2, .tagffS 15 2] ∧
    (let s := stand (.bara 15 1 2) {} {} synced
     barrierOf s s.focus (issuer s 0) 0 = some ⟨0, 1, 0⟩) ∧
    (let s := stand (.bara 15 1 2) {} {} synced
     barrierOf s s.focus (issuer s 0) 31 = some ⟨0, 1, 0⟩) ∧
    (let s := stand (.qpop 15 1 2) {} {} synced
     (queueOf s s.focus (issuer s 0) 63).any (fun q => !q.task && q.items ≠ [] && !popAhead s q s.focus 0) = true) ∧
    (let s := stand (.tlwait 15 0 2) {} {} synced
     0 ≤ (getEngine s (engineKey (islandOf s.focus) 0 0)).counter ∧ (getCore s s.focus).tags &&& 0 = 0) :=
  ⟨allOn (by decide +kernel), allOn (by decide +kernel), allOn (by decide +kernel), allIssue (by decide +kernel),
    by decide +kernel, by decide +kernel, by decide +kernel, by decide +kernel⟩

/-- A scratchpad with a CPY descriptor of one dimension of 4 bytes at 256, from the core scratchpad at 4096 to 8192, and an
MVX descriptor at 1024, of one row of 16 and weights behind handle 1. -/
def described : Core :=
  { scratch := writeNat (writeNat (writeNat (writeNat (writeNat (writeNat [] 256 8 1) 264 8 4096) 272 8 8192) 288 24
      (4 + 2 ^ 64 + 2 ^ 128)) 1024 8 1) 1032 48 (1 + 2 ^ 24 + 8192 * 2 ^ 128 + 12288 * 2 ^ 192 + (1 + 16 * 2 ^ 32) * 2 ^ 256 + 128 * 2 ^ 320) }
/-- A context that has read its descriptor, with a handle for the weights. -/
def reader (a : Nat) : Ctx :=
  { s := [(2, BitVec.ofNat 64 a)], preStall := 3, h := [(1, { valid := true, perm := 3, base := 0x20000, va := 0x20000 })] }

theorem witness_EngineOperations :
    AllOn [.cpy 15 1 2] (reader 256) described carved ∧ AllOn [.mvx 15 1 2] (reader 1024) described carved ∧
    (let s := stand (.cpy 15 1 2) (reader 256) described carved
     guardMeets s s.focus 256 256 false = false ∧ inCarve s (issuer s 0) 0 256 256 = true ∧
     (readCpy (elems 64 (readNat (getCore s s.focus).scratch 256 256) 32)).any (fun m =>
      checkCpy s (issuer s 0) m (trapOf codeDescriptor 256 m.ectx) = .ok &&
      (getEngine s (engineKey (islandOf s.focus) 0 m.ectx)).ops.length < 32) = true) ∧
    (let s := stand (.mvx 15 1 2) (reader 1024) described carved
     (readMvx (elems 64 (readNat (getCore s s.focus).scratch 1024 128) 16) (fun h => (readH (issuer s 0) h).va.toNat)).any (fun m =>
      checkMvx s (issuer s 0) m (trapOf codeDescriptor 1024 m.ectx) = .ok &&
      (getEngine s (engineKey (islandOf s.focus) 0 m.ectx)).ops.length < 32) = true) :=
  ⟨allOn (by decide +kernel), allOn (by decide +kernel), by decide +kernel, by decide +kernel⟩

/-- A window open with one page on its list. -/
def paged : State := { ground with windows := [(0, { opened := true, ovl := 4, pages := [0x40000] })] }

theorem witness_WindowsAndPeepholes :
    AllOn [.wopen 15 1 0 2, .pwatchI 15 1 0 2] holder ∧
    AllOn [.wpos 15 2 2 3, .wcommit 15 1 2 3, .wabortK 15 2, .wabortF 15 2] { s := [(3, 64)] } {} windowed ∧
    AllOn [.walloc 15 1 2] { curw := some 0 } {} windowed ∧ AllOn [.walloc 15 1 2] { curw := some 0 } {} paged ∧
    AllIssue [.pwatchR 15 1 2, .pwatchQ 15 1 2, .pdrop 15 1 2] ∧
    (let s := stand (.wopen 15 1 0 2) holder
     descPlace s (here s 0) (latchExt s) 0 2 = .ok place ∧ (wopenRun s s.focus 0 place).2 = .inl (-2) ∧
     (pwatchRun s s.focus 0 place).2 = .inl (-2)) ∧
    (let s := stand (.wpos 15 2 2 3) { s := [(3, 64)] } {} windowed
     windowNamed s (issuer s 0) 0 = some 0 ∧ committing (issuer s 0) 0 = false ∧ (issuer s 0).works.any (intoWindow 0) = false ∧
     (readS (issuer s 0) 3).toNat = 64 ∧
     (getWindow s 0).pages = []) ∧
    (let s := stand (.walloc 15 1 2) { curw := some 0 } {} paged
     windowNamed s (issuer s 0) 0 = some 0 ∧ (getWindow s 0).pages = [0x40000]) :=
  ⟨allOn (by decide +kernel), allOn (by decide +kernel), allOn (by decide +kernel), allOn (by decide +kernel),
    allIssue (by decide +kernel), by decide +kernel, by decide +kernel, by decide +kernel⟩

/-- A sampler core whose context 0 holds issue. -/
def sampling : State :=
  { ground with focus := 40, ctxs := [(320, { status := .ready })], cores := [(40, { owner := some 0 })] }

theorem witness_UnitRequests :
    Issues sampling 0 (.tokrdyS 15 2 3) ∧ Quiet sampling ∧
    AllIssue [.smpq 15 1 2 3, .tokrdy 15 4 2, .btset 15 1 2 3, .btrd 15 1 2 3, .budq 15 1 0, .budq 15 1 3] ∧
    AllIssue [.budqCcost 15 1 2, .jrd 15 1, .jrdL 15 1, .thack 15 1, .trace 15 2 63] ∧
    AllOn [.dlbar 15 4 0 2] holder ∧ AllOn [.strn 15 1 2 3, .lexp 15 1 2 3] { s := [(3, 4096)] } {} carved ∧
    (let s := stand (.dlbar 15 4 0 2) holder
     (issuer s 0).wait = none ∧
     checkGlobal s (issuer s 0) 0 (operand s 0 2).toInt 8 true false { bound := true, uncached := true } = .ok place ∧
     (readS (issuer s 0) 3).toNat ≤ readNat s.mem place.pa 8) ∧
    (let s := stand (.dlbar 15 4 0 2) { holder with wait := some (.dlbarDone place true) }
     (issuer s 0).wait = some (.dlbarDone place true) ∧ Issues s 0 (.dlbar 15 4 0 2)) ∧
    (let s := stand (.dlbar 15 4 0 2) { holder with s := [(3, 1)] } { tnext := 2 ^ 40 }
     readNat s.mem place.pa 8 < (readS (issuer s 0) 3).toNat ∧ (readS (issuer s 0) 4).toNat < issueNs s s.focus 0) ∧
    (let s := stand (.strn 15 1 2 3) { s := [(3, 4096)] } {} carved
     guardUsed (getCore s s.focus) ≤ 14 ∧ guardMeets s s.focus 0 4 false = false ∧ guardMeets s s.focus 4096 576 true = false ∧
     firstOutside s (issuer s 0) [(0, 0), (4096, 576)] = none ∧ firstOutside s (issuer s 0) [(0, 512), (4096, 1024)] = none) :=
  ⟨issues_of_issuesB (by decide +kernel), quiet_of_quietB (by decide +kernel), allIssue (by decide +kernel),
    allIssue (by decide +kernel), allOn (by decide +kernel), allOn (by decide +kernel), by decide +kernel,
    ⟨rfl, issues_of_issuesB (by decide +kernel)⟩, by decide +kernel, by decide +kernel⟩

/-! ### Events -/

/-- A ready context. -/
def waitingTurn : Ctx := { status := .ready }
/-- Regions 0 and 1 of partition 0, the second more urgent. -/
def ranked : State := { ground with regions := [(0, { noRegion with eprio := 5 }), (1, { noRegion with eprio := 0 })] }
/-- A page of partition 0 from 0 up, mapped to the frames from 0 up, in the translation cache of a core. -/
def mapped : Core := { owner := some 0, tlb := [(0, { va := 0, frame := 0, size := 0, perm := 3, wel := true, watched := false, rdup := false })] }
/-- Page tables of partition 0 that map the first gigabyte to itself with every permission. -/
def tables : State :=
  { ground with
    mem := writeNat (writeNat [] 0x100000 8 0x102001) 0x102000 8 71
    parts := [(0, { bootPart with ptroot := 0x100000 })] }
/-- Core 0 whose context 0 holds issue before a bundle of four words at address 0. -/
def bundling (ws : List Nat) (k : Ctx := {}) : State :=
  { ground with
    ctxs := [(0, { k with status := .ready })]
    cores := [(0, { owner := some 0, blocks := [⟨0, 0, [(0, 0)], writeNat [] 0 16 (ofElems 32 ws)⟩] })] }
/-- Two ADDI, of s5 and of s6. -/
def twoAdds : List Nat := [0x3F005150, 0x3F006190, 0, 0]
/-- They wait for s5, and have waited so many cycles. -/
def stallingAt (n : Nat) : State := bundling twoAdds { stall := n, works := [{ piece (.value 0 0) with reg := .s 5 }] }

theorem witness_CoreEvents :
    (let s := pair waitingTurn {} {}
     (getCtx s 0 0).gang = false ∧ (getCore s 0).owner = none ∧ (getCore s 0).rest = 0 ∧ nextCtx s 0 = some 0) ∧
    (let s := pair waitingTurn { waitingTurn with region := 1 } { owner := some 0 } ranked
     outranked s 0 0 = true ∧ (getCore s 0).held = 0 ∧ (faultFirst fetchBundle (toBoundary s 0 0) 0 0).isNone = true) ∧
    (let s := pair waitingTurn waitingTurn { owner := some 0, owned := 65536 } ranked
     quantumOver s 0 0 = true ∧ (getCore s 0).held = 0) ∧
    (let s := pair waitingTurn {} { owner := some 0, held := 1 }
     cycleWaits s [0] = false ∧ (getCore s 0).held ≠ 0) ∧
    (let s := pair waitingTurn {} { rest := 1 }
     cycleWaits s [0] = false ∧ (getCore s 0).owner = none ∧ (getCore s 0).rest ≠ 0) ∧
    (let s := pair { waitingTurn with flights := [⟨.s 1, 0, 0, 0, 0, false, 0⟩, ⟨.s 1, 0, 0, 0, 1, false, 1⟩] } {} {}
     (getCtx s 0 0).flights.any (fun f => f.left ≤ 1) = true) ∧
    (let s := pair { waitingTurn with hflights := [⟨0, 1, {}⟩] } {} {}
     (getCtx s 0 0).hflights.any (fun f => f.left ≤ 1) = true) ∧
    (let w := piece (.value 7 0)
     let s := pair { waitingTurn with works := [w] } {} {}
     awayWork s 0 0 5 = false ∧ workReady s 0 0 w = true ∧ (workPerform s 0 0 w).2 = .done 7 0) ∧
    (let w := piece (.levelLoad .chip 0)
     let s := { pair { waitingTurn with works := [w] } {} {} with badChip := [0] }
     awayWork s 0 0 5 = false ∧ workReady s 0 0 w = true ∧ (workPerform s 0 0 w).2 = .poison 0) ∧
    (let s := pair waitingTurn {} mapped
     (blockAt s 0 0 0).isNone = true ∧ ∃ l, (translate s 0 0 0 0).2 = .inl l ∧ l.perm % 2 = 1 ∧ isMmio l.frame = false) ∧
    (let s := pair waitingTurn {} { owner := some 0 }
     (blockAt s 0 0 0).isNone = true ∧ ∃ code, (translate s 0 0 0 0).2 = .inr code) ∧
    (let s := { ground with ctxs := [(40 * 8, ({ status := .ending } : Ctx))] }
     ctxQuiet s 40 0 = true ∧ (getCtx s 40 0).status = .ending) ∧
    (let s := pair { status := .ending } waitingTurn {}
     ctxQuiet s 0 0 = true ∧ taskRuns (freeCtx s 0 0) 0 = true) ∧
    -- bundles: two slots that issue, two that wait, a word of class F
    (let s := bundling twoAdds
     Ready s 0 ∧ Quiet s ∧ ∃ p q e f, fetchBundle s 0 0 = .slots [p, q] ∧ waiting s 0 0 0 [p, q] = [] ∧
      entryBad s 0 0 0 [p, q] = false ∧ liveSlots s 0 0 0 [p, q] = [p, q] ∧ p.info.run (portOf s 0 0 0 p) s = .go e ∧
      q.info.run (portOf s 0 0 0 q) s = .go f ∧ e.act = id ∧ f.act = id ∧ e.ctl = .none ∧ f.ctl = .none ∧
      [e, f].all (fun e => decide (e.trace = none) && !e.turn && decide (e.guards = 0) &&
        e.works.all (fun w => decide (w.fault = none)) && e.outs.all (fun o => decide (o.fault = none))) = true) ∧
    (∀ n ∈ [0, 2 ^ 20 - 1], Ready (stallingAt n) 0 ∧ Quiet (stallingAt n) ∧ ∃ p q, fetchBundle (stallingAt n) 0 0 = .slots [p, q] ∧
      (waiting (stallingAt n) 0 0 0 [p, q]).map (fun p => p.pos) = [0] ∧ (issuer (stallingAt n) 0).stall = n) ∧
    (let s := bundling [0, 0, 0, 0xF0000000]
     Ready s 0 ∧ Quiet s ∧ ∃ t, fetchBundle s 0 0 = .fault t ∧ t.deferred = false ∧ t.code ≠ codePoison) := by
  refine ⟨?_, ?_, ?_, ?_, ?_, ?_, ?_, ?_, ?_, ⟨?_, ⟨_, rfl, by decide, by decide⟩⟩, ⟨?_, ⟨_, rfl⟩⟩, ?_, ?_,
    ⟨ready_of_readyB ?_, quiet_of_quietB ?_, _, _, _, _, rfl, rfl, rfl, rfl, rfl, rfl, rfl, rfl, rfl, rfl, rfl⟩, ?_,
    ⟨ready_of_readyB ?_, quiet_of_quietB ?_, _, rfl, rfl, by decide⟩⟩ <;> try decide +kernel
  intro n hn
  simp only [List.mem_cons, List.not_mem_nil, or_false] at hn
  rcases hn with rfl | rfl
  · exact ⟨ready_of_readyB (by decide +kernel), quiet_of_quietB (by decide +kernel), _, _, rfl, rfl, rfl⟩
  · exact ⟨ready_of_readyB (by decide +kernel), quiet_of_quietB (by decide +kernel), _, _, rfl, rfl, rfl⟩

/-- An entry of a matrix queue, issued in cycle 0. -/
def entry (op : MOp) : MEntry :=
  { ctx := 0, op := op, tile := 3, a := 4096, b := 0, fmt := 1, planes := 8, edge := {}, batch := 1, chain := 7, opens := true
    zero := true, seq := 7, cycle := 0 }
/-- Core 0 at cycle 1, its array serving a context, with an entry in the queue of context 0. -/
def queued (op : MOp) (serve : Nat) : State :=
  pair { mq := [entry op] } {} { cycle := 1, array := { serve := serve, granted := true } }
/-- Island 0 at a step of its limiter, a context holding issue on each core. -/
def stepping : State :=
  { ground with
    islands := [(0, { cur := some 0, active := 4 })]
    cores := [(0, { owner := some 0 }), (1, { owner := some 0 }), (2, { owner := some 0 }), (3, { owner := some 0 })] }

/-- The chain of that entry, of context 0, with a sum in every place. -/
def sum : Chain :=
  { ctx := 0, id := 7, seq := 7, tile := 3, fmt := 1, batch := 1, accs := List.replicate 512 { live := true }, poison := false
    parked := false }

theorem witness_MatrixEvents :
    startDue (queued .mcommit 1) 0 = some (0, entry .mcommit) ∧ startDue (queued .mcommit 0) 0 = some (0, entry .mcommit) ∧
    startDue (queued (.mma false) 0) 0 = some (0, entry (.mma false)) ∧ (entry (.mma false)).isMma = true ∧
    (matFmt (entry (.mma false)).fmt).isSome ∧ chainOfEntry (getCore (queued (.mma false) 0) 0) 0 (entry (.mma false)) = none ∧
    (let s := pair { mq := [{ entry (.mma true) with opens := false }] } {} { cycle := 1, array := { granted := true }, chains := [sum] }
     (startDue s 0).map (fun e => e.1) = some 0 ∧ chainOfEntry (getCore s 0) 0 (entry (.mma true)) = some sum ∧ sum.accs.length = 512) ∧
    (let s := pair { status := .ready } {} { array := { cur := some (entry .mcommit) }, chains := [sum] }
     chainClosed (modCore s 0 fun k => { k with array := { k.array with cur := none } }) 0 sum = true ∧ sum.accs.length = 512 ∧
     (nth sum.accs 511 {}).live = true ∧ (matFmt sum.fmt).isSome) ∧
    (let s := pair {} {} { array := { cur := some (entry .msta) } }
     (getCore s 0).array.cur = some (entry .msta) ∧ (getCore s 0).array.left = 0) ∧
    (let s := stepping
     slewDue s 0 = true ∧ (getIsland s 0).active ≤ 4 ∧ ∀ c ∈ coresOf 0, coreStill s c = false) := by
  decide +kernel

theorem witness_HandleEvents :
    (let s := { tables with ctxs := [(0, ({ h := [(0, { pending := true })] } : Ctx))] }
     (readH (getCtx s 0 0) 0).pending = true ∧ shutPends s 0 0 = false ∧ ∃ l, (walk s 0 0 0).2 = .inl l) ∧
    (let s := { ground with ctxs := [(0, ({ h := [(0, { pending := true })] } : Ctx))] }
     ∃ code, (walk s 0 0 0).2 = .inr code) ∧
    (let s := pair { h := [(0, { perm := 3, revoked := true, sought := true })], stall := 1 } {} mapped
     isRevoked (readH (getCtx s 0 0) 0) = true ∧ (getCtx s 0 0).stall ≠ 0 ∧ ∃ l, (translate s 0 0 0 0).2 = .inl l) ∧
    (let s := pair { h := [(0, { perm := 3, bind := 0x1000, revoked := true, sought := true })], stall := 1 } {} mapped
     isRevoked (readH (getCtx s 0 0) 0) = true ∧ 2 ^ 12 ≤ (readH (getCtx s 0 0) 0).bind.toNat ∧
      ∃ l, (translate s 0 0 0 0).2 = .inl l ∧ l.wel = true) ∧
    (let s := pair { h := [(0, { perm := 3, bind := 0x1000, revoked := true, sought := true })], stall := 1 } {}
      { tlb := [(0, { va := 0, frame := 0, size := 0, perm := 3, wel := false, watched := false, rdup := false })] }
     isRevoked (readH (getCtx s 0 0) 0) = true ∧ 2 ^ 12 ≤ (readH (getCtx s 0 0) 0).bind.toNat ∧
      ∃ l, (translate s 0 0 0 0).2 = .inl l ∧ l.wel = false) ∧
    (let s := pair { h := [(0, { revoked := true, sought := true })], stall := 1 } {} {}
     isRevoked (readH (getCtx s 0 0) 0) = true ∧ (readH (getCtx s 0 0) 0).sought = true ∧
      ∃ code, (translate s 0 0 0 0).2 = .inr code) :=
  ⟨⟨by decide +kernel, by decide +kernel, ⟨{ va := 0, frame := 0, size := 2, perm := 3, wel := false, watched := false, rdup := false }, by decide +kernel⟩⟩,
    ⟨codePageFault, by decide +kernel⟩, ⟨by decide +kernel, by decide +kernel, ⟨_, rfl⟩⟩,
    ⟨by decide +kernel, by decide +kernel, ⟨_, rfl, rfl⟩⟩, ⟨by decide +kernel, by decide +kernel, ⟨_, rfl, rfl⟩⟩,
    ⟨by decide +kernel, by decide +kernel, ⟨codePageFault, by decide +kernel⟩⟩⟩

/-- A store of four bytes at 0x20000 on its way, to be acknowledged by clusters. -/
def store (acks : List Nat) : SliceStore :=
  { id := 3, pa := 0x20000, n := 4, val := 0x11223344, mask := 15, agent := .ctx 0 0, task := 0, acks := acks }
/-- The memory features enabled, and the frame of 0x20000 a domain's or not. -/
def hostFrame (dom : Nat) : State := { ground with control := { mstate := .ready, enable := 0xFF }, owners := [(1, dom)] }

theorem witness_MemoryEvents :
    (let s := { ground with stores := [store []] }
     s.stores.find? (fun w => w.id = 3) = some (store []) ∧ (s.stores.takeWhile fun u => u.id ≠ 3) = []) ∧
    (let s := { ground with stores := [store [1, 2]], replicas := [(1, 1), (2, 1)] }
     s.stores.find? (fun w => w.id = 3) = some (store [1, 2]) ∧ (store [1, 2]).acks.contains 1 = true ∧ ∃ r ∈ (store [1, 2]).acks, r ≠ 1) ∧
    (let s := pair {} {} { lines := [(0x400, { emptyLine with dirty := 1 })] }
     mfind (getCore s 0).lines 0x400 = some { emptyLine with dirty := 1 } ∧ storeHeld s (.cache 0) 0x20000 = false ∧
      cluFind s (clusterOf 0) 0x400 = none ∧
      mfind (getCore s 0).lines 0x401 = none) ∧
    (let s := { ground with cluLines := [⟨0, 0x400, 5, 255, 0⟩] }
     cluFind s 0 0x400 = some ⟨0, 0x400, 5, 255, 0⟩ ∧ storeHeld s .unit 0x20000 = false) ∧
    (frameOwner (hostFrame 0) 0x20000 = 0 ∧ hostReaches (hostFrame 0) = true ∧ storeHeld (hostFrame 0) .host 0x20000 = false ∧
      0x2007F % 128 + [(1 : Byte)].length ≤ 128) ∧
    frameOwner (hostFrame 2) 0x20000 ≠ 0 := by
  decide +kernel

/-- A peephole entry of queue 0 whose task stands where told. -/
def peep (slot : Option Nat) : Peep :=
  { part := 0, region := 0, armed := true, run := false, range := [], payload := [], crt := 0x40000, ring := 0x50000
    ringVa := 0x50000, ringl := 1, limit := 16, cwin := 0, steepn := 1, next := 0
    pend := some { va := 0, count := 1, host := false, win := false, first := 0, lines := [], slot := slot, offered := false } }
/-- A machine with that entry, and a queue of one place. -/
def watching (slot : Option Nat) : State :=
  { ground with
    peeps := [(255, peep slot)]
    queues := [(0, { part := 0, task := true, scope := .dev, home := 0, cap := 1, place := 0, items := [], waiters := [] })] }
/-- A commit in hand of two positions of window 0, the second the child of the first. -/
def committing2 (mask : Nat) : State :=
  { windowed with
    windows := [(0, { opened := true, ovl := 4, parents := [(63, 0)] })]
    ctxs := [(0, ({ works := [{ id := 5, reg := .s 1, kind := .unit (.wcommit 0 mask), squash := false, pc := 0, slot := 0 }] } : Ctx))] }

theorem witness_PeepholeAndWindowEvents :
    (let s := watching none
     mfind s.peeps 255 = some (peep none) ∧ readNat s.mem 0x50008 8 / 2 ^ 40 % 16 = 0 ∧
      (mfind s.queues (getRegion s (regionKey 0 0)).tq).any (fun q => q.items.length < q.cap) = true ∧
      (sliceStore (sliceRead s 0 0x40000 48).1 .unit 0 0x50000 64 0 (ones 64)).peeps = s.peeps) ∧
    (let s := { watching none with mem := writeNat [] 0x50008 8 (2 ^ 40) }
     readNat s.mem 0x50008 8 / 2 ^ 40 % 16 ≠ 0 ∧ readNat s.mem 0x50008 8 / 2 ^ 40 % 16 ≠ 4) ∧
    (let s := watching (some 0)
     mfind s.peeps 255 = some (peep (some 0)) ∧ 0 + 0 * 64 ≤ timeNs s) ∧
    (let s := pair { wreq := true } {} {}
     (getCtx s 0 0).wreq = true) ∧
    (commitWaits (committing2 (2 ^ 63)) 0 0 5 0 = false ∧ bitOf (2 ^ 63) 63 = true ∧
      parentOf (getWindow (committing2 0) 0) 63 = 0 ∧ bitOf (2 ^ 63) 0 = false) ∧
    (commitWaits (committing2 (2 ^ 63 + 1)) 0 0 5 0 = false ∧ (committing2 (2 ^ 63 + 1)).cluLines = [] ∧
      ∀ p, p < 64 → bitOf (2 ^ 63 + 1) p = true → parentOf (getWindow (committing2 0) 0) p < 64 →
        bitOf (2 ^ 63 + 1) (parentOf (getWindow (committing2 0) 0) p) = true) ∧
    (let s := { windowed with windows := [(15, { opened := true, closing := true })] }
     (getWindow s 15).opened = true ∧ (getWindow s 15).closing = true ∧ (∀ e ∈ s.ctxs, e.2.part = 0 → e.2.works = []) ∧
      s.cores = []) := by
  decide +kernel

/-! ### Waits, holds, engines, energy and dispatch -/

/-- A context of core 0 that waits. -/
def waiter (w : Wait) (core : Core := {}) (s : State := ground) : State := pair { status := .waiting, wait := some w } {} core s

theorem witness_WaitEvents :
    (let s := waiter (.mwaitb 0)
     (getCtx s 0 0).gang = false ∧ (getCtx s 0 0).status = .waiting ∧ openBatches (getCore s 0) (getCtx s 0 0) 0 ≤ 0) ∧
    batchDone (getCore (waiter (.mwaitbId 0)) 0) (getCtx (waiter (.mwaitbId 0)) 0 0) 0 0 = true ∧
    (getCore (waiter (.tagw 5) { tags := 7 }) 0).tags &&& BitVec.ofNat 64 5 = BitVec.ofNat 64 5 ∧
    barrierOf (waiter (.barw 0 0) {} synced) 0 (getCtx (waiter (.barw 0 0) {} synced) 0 0) 0 = some ⟨0, 1, 0⟩ ∧
    (let s := waiter (.tlwait 7 0)
     (getCtx s 0 0).hold = [] ∧ 0 ≤ (getEngine s (engineKey (islandOf 0) 0 7)).counter) ∧
    0 ≤ timeNs (waiter (.idle 0)) ∧
    (let s := waiter (.dlbar place 0 0)
     0 ≤ readNat s.mem place.pa 8 ∧ timeNs s ≤ 0) ∧
    0 < timeNs (waiter (.dlbar place 1 0) {} { ground with time := 2 ^ 40 }) ∧
    (let s := waiter (.qpop 63) {} { ground with queues := [(63, {
      part := 0, task := false, scope := .core, home := 0, cap := 2, items := [9], waiters := [(0, 0), (1, 0)] })] }
     ∃ q, mfind s.queues 63 = some q ∧ q.waiters = [(0, 0), (1, 0)] ∧ q.items ≠ []) ∧
    (let s := waiter (.hacq place true) {} { ground with hatchq := [(0x20000, 0, 0, 0)] }
     s.hatchq.filter (fun r => r.1 = place.pa) = [(0x20000, 0, 0, 0)] ∧ hatchHolds s place.pa = [] ∧
     (readHatch s place.pa).grants true = true) := by
  refine ⟨?_, ?_, ?_, ?_, ?_, ?_, ?_, ?_, ⟨_, rfl, rfl, by decide⟩, ?_⟩ <;> decide +kernel

/-- A context of core 0 whose bundles are held. -/
def heldBy (h : Hold) (s : State := ground) : State := pair { status := .ready, hold := [h] } {} {} s

theorem witness_HoldEvents :
    (let s := heldBy (.fence 2 .dev)
     (getCtx s 0 0).hold = [.fence 2 .dev] ∧ (getCtx s 0 0).works = [] ∧ (releaseWork s 0 0 .dev).2 = true ∧
     storesOut s 0 0 = false) ∧
    (getCtx (heldBy (.fence 1 .clu)) 0 0).hold = [.fence 1 .clu] ∧
    ((heldBy (.fence 1 .clu)).stores = [] ∧ (heldBy (.fence 1 .clu)).replicas = [] ∧ (heldBy (.fence 1 .clu)).cluLines = []) ∧
    (releaseWork (heldBy (.fence 0 .core) { ground with stores := [store [1]] }) 0 0 .core).2 = false ∧
    (getCtx (heldBy (.tlwait 7 3)) 0 0).hold = [.tlwait 7 3] ∧
    (let s := heldBy (.hatch place true)
     hatchHolds s place.pa = [(0 * 8 + 0, .hatch place true)] ∧
     ∀ r ∈ (modCtx (hacqFinish s 0 0 place) 0 0 fun k => { k with hold := k.hold.erase (.hatch place true) }).hatchq,
      r.1 ≠ place.pa) := by
  decide +kernel

/-- The CPY of `described`, accepted, and started or not; or its MVX, which MVU 0 serves. -/
def accepted (mvx started : Bool) : EngineOp where
  n := 1
  core := 0
  ctx := 0
  part := 0
  task := 0
  mvx := mvx
  desc := if mvx then elems 64 (readNat described.scratch 1024 128) 16 else elems 64 (readNat described.scratch 256 256) 32
  handles := if mvx then [{}, {}, {}, { valid := true, perm := 3, base := 0x20000, va := 0x20000 }] else []
  started := started
/-- An engine context that holds it. -/
def engaged (op : EngineOp) : State := { carved with cores := [(0, described)], engines := [(engineKey 0 0 0, { accepted := 1, ops := [op] })] }

theorem witness_EngineEvents :
    (getEngine (engaged (accepted false false)) (engineKey 0 0 0)).ops = [accepted false false] ∧
    (let s := engaged (accepted true false)
     (upTo 32).filter (accepted true false).needs = [0] ∧ 0 < mget (mvuTurns s 0) (turnKey 0 0) 0) ∧
    -- another partition has the turn
    (let s := { engaged (accepted true false) with
        engines := [(engineKey 0 0 0, { ops := [accepted true false] }), (engineKey 0 1 0, { ops := [{ accepted true false with part := 1 }] })]
        mvuCredit := [(turnKey 1 0, 5)] }
     mget (mvuTurns s 0) (turnKey 0 0) 0 ≤ 0) ∧
    (let s := engaged (accepted false true)
     s.replicas = [] ∧ s.stores = [] ∧ (engineWork s (accepted false true)).isSome = true ∧ (getCore s 0).shadow = none ∧
     (readCpy (accepted false true).desc).isSome ∧ engineOut s (.engine 0 0 0) = false) ∧
    (let s := engaged (accepted true true)
     (engineWork s (accepted true true)).isSome = true ∧
     (readMvx (accepted true true).desc (fun _ => (nth (accepted true true).handles 1 {}).va.toNat)).any (fun d =>
      (matFmt d.fmt).isSome) = true) := by
  decide +kernel

/-- The sensors' limits written for the next steep, and island 0 as told. -/
def metered (isl : Island) (ks : Map Ctx := []) : State :=
  { ground with islands := [(0, isl)], ctxs := ks, gov := { State.reset.gov with thermNew := 1 } }

theorem witness_EnergyEvents :
    ((∀ c ∈ trailing ground, nextBoundary ground ≤ (getCore ground c).tnext) ∧
      inLimits ground (max ground.time (nextBoundary ground)) = true) ∧
    (ground.stores = [] ∧ ground.replicas = [] ∧ ground.cluLines = []) ∧
    (let s := metered { reduce := some { fnew := 3, due := 0 } } [(0, { throt := 1 })]
     (getIsland s 0).reduce = some { fnew := 3, due := 0 } ∧
     0 ≤ timeNs (if (s.ctxs.any fun e => e.1 / 32 = 0 && e.2.throt.getLsbD 0) = true then reachTime s (0 * unitsPerNs) else s)) ∧
    (let s := metered { reduce := some { fnew := 3, due := 9 } } [(0, { throt := 2 })]
     (s.ctxs.any fun e => e.1 / 32 = 0 && e.2.throt.getLsbD 0) = false) ∧
    (let s := metered { gap := 16, persist := true, episodes := 8 }
     (getIsland s 0).episode = 0 ∧ ((getIsland s 0).persist = true → 16 ≤ (getIsland s 0).gap)) ∧
    (getIsland (metered { gap := 15, persist := true }) 0).gap < 16 ∧
    (let s := metered { idle := 20 }
     (getIsland s 0).gated = false ∧ islandActive s 0 = false ∧ gateAfter s.gov ≤ (getIsland s 0).idle) ∧
    (let s := metered { gated := true } [(0, {})]
     (getIsland s 0).gated = true ∧ islandActive s 0 = true) := by
  decide +kernel

/-- A TASK queue of partition 0 with an entry at 0x40000, whose CR names region 1, live or not. -/
def popping (va : Nat) (regions : Map Region) : State :=
  { tables with
    queues := [(63, { part := 0, task := true, scope := .dev, home := 0, cap := 16, items := [va], waiters := [] })]
    mem := writeNat tables.mem 0x40008 8 1
    regions := regions }
/-- A sampling job in its queue. -/
def job : Job := { logits := 0, slot := 0, param := 0x40000, task := 0, part := 0, region := 0 }
/-- Sampler core 7 with its context frozen on a fault that is reported. -/
def restarting : State :=
  { ground with
    ctxs := [(47 * 8, { status := .frozen })]
    jobs := [(7, [job])]
    tasks := [(0, newTask 0 0 0 [])]
    faults := [{ core := some 47, ctx := 0, part := 0, region := 0, code := 1, record := [], args := [], stage := .reported 0 0 }] }
/-- Two partitions that share island 0. -/
def shared : State := { ground with parts := [(0, { bootPart with slice := 1 }), (1, { bootPart with slice := 1 })] }

theorem witness_DispatchEvents :
    (let s := popping 0x40001 []
     ∃ q, mfind s.queues 63 = some q ∧ q.task = true ∧ q.items = [0x40001] ∧ (mfind s.parts q.part).any (fun p => !p.stopped) = true ∧
      readyCount s q.part < 65536 ∧ pushedFault s q.part 0x40001 = none ∧ 0x40001 % 64 ≠ 0) ∧
    (∃ f, (walk { popping 0 [] with mem := [] } 0 0 0x40000).2 = .inr f) ∧
    (∃ l, (walk (popping 0x40000 []) 0 0 0x40000).2 = .inl l ∧ leafPa l 0x40000 < 2 ^ 37) ∧
    (let s := popping 0x40000 [(1, { noRegion with islands := 1 })]
     (mfind s.regions (regionKey 0 1)).any (fun r => !r.cancel) = true ∧
     taskIslands s (newTask 1 0x40000 0x40000 [0, 1, 0, 0, 0, 0, 0, 0]) ≠ 0 ∧
     taskIslands s (newTask 1 0x40000 0x40000 [0, 1 + 2 * 2 ^ 24, 0, 0, 0, 0, 0, 0]) = 0) ∧
    (let s := { tables with jobs := [(7, [job])] }
     mget s.jobs 7 [] = [job] ∧ mfind s.ctxs ((40 + 7) * 8) = none ∧ (getCore s 47).fenced = false ∧
     (mfind s.parts job.part).any (fun p => !p.stopped) = true ∧ ∃ pc, (readParam s 47 job).2 = .inl pc) ∧
    (∃ code, (readParam ground 47 job).2 = .inr code) ∧
    (let s := restarting
     (mfind s.ctxs ((40 + 7) * 8)).isSome ∧ (getCtx s 47 0).status = .frozen ∧
     (∀ it ∈ s.faults, it.core = some (40 + 7) → it.stage = .reported 0 0) ∧
     let u := endHoldings (modCtx s 47 0 (emptyHandles fun _ => true)) (getCtx s 47 0).task [47]
     u.2 = true ∧ (getCtx u.1 47 0).works = [] ∧ storesOut u.1 47 0 = false ∧ cacheOut (flushAll u.1 47) 47 0 (2 ^ 48) = false ∧
     u.1.stores = [] ∧ u.1.replicas = [] ∧ u.1.cluLines = []) ∧
    (let s := { shared with ctxs := [(0, ({ status := .ready } : Ctx)), (9, { status := .waiting })] }
     (getCtx s 0 0).status = .ready ∧ (getCtx s 1 1).status = .waiting ∧ (∀ d ∈ coresOf 0, (getCtx s d 0).gang = (getCtx s 0 0).gang) ∧
     (getCtx s 0 0).part = 0 ∧ (getCore s 0).owner ≠ some 0 ∧
     (getIsland s 0).cur = some 0 ∧ (mfind s.parts 1).any (fun p => bitOf p.islands 0 && p.slice ≠ 0) = true ∧
     (mfind s.parts 0).any (fun p => p.slice ≠ 0) = true ∧ mfind s.swaps 0 = none ∧ (getIsland s 0).gated = false) ∧
    (let s := { shared with swaps := [(0, { outgoing := 0, incoming := 1 })] }
     mfind s.swaps 0 = some { outgoing := 0, incoming := 1 } ∧ (coresOf 0).all (drained s) = true) :=
  ⟨⟨_, rfl, rfl, rfl, by decide +kernel, by decide +kernel, by decide +kernel, by decide +kernel⟩, ⟨codePageFault, by decide +kernel⟩, ⟨_, rfl, by decide +kernel⟩, by decide +kernel,
    ⟨by decide +kernel, by decide +kernel, by decide +kernel, by decide +kernel, ⟨_, rfl⟩⟩, ⟨codePageFault, by decide +kernel⟩, by decide +kernel,
    by decide +kernel, by decide +kernel⟩

/-! ### Isolation, recovery, bring-up and debug -/

/-- A shutter of the first page of partition 0, in progress. -/
def shutting (agents : List Nat) (scrub : Bool) : State :=
  { ground with parts := [(0, { bootPart with shutter := some {
      lo := 0, len := 2 ^ 17, all := false, scrub := scrub, agents := agents, frames := [(0, 2 ^ 17)], cores := [0], since := 0 } })] }

/-- A shutter of that page that has just begun. -/
def page : ShutterRun := { lo := 0, len := 2 ^ 17, all := false, scrub := false, agents := [], frames := [], cores := [], since := 0 }

theorem witness_ShutterEvents :
    (mfind (shutting [] false).parts 0).any (fun p => p.shutter.isSome) = true ∧ (shutting [] false).control.mstate ≠ .failed ∧
    (let s := { ground with
        parts := [(0, { bootPart with shlen := 1 })], ctxs := [(9, { h := [(15, { valid := true, va := 0x10000 })] })]
        cores := [(1, { tlb := [(0, { va := 0, frame := 0, size := 0, perm := 3, wel := true, watched := false, rdup := false })], blocks := [⟨0, 0, [(0, 0)], []⟩] })] }
     (mfind s.parts 0).any (fun p => p.shutter = none) = true ∧ 1 ∈ shutCores s 0 ∧ (getCtx s 1 1).part = 0 ∧
     (readH (getCtx s 1 1) 15).valid = true ∧
     page.hitsHandle (readH (getCtx s 1 1) 15) = true) ∧
    waitsThrough { page with len := 2 ^ 18 } (getCtx (waiter (.dlbar place 0 0)) 0 0) = true ∧
    (let s := shutting [3, 100] true
     (mfind s.parts 0).any (fun p => p.shutter.any fun r => shutReady s 0 r 3 && shutReady s 0 r 100) = true ∧
     ∀ x, x < 8 → (getCtx { s with ctxs := [(24, { status := .frozen })] } 3 0).status = .frozen) ∧
    (let s := shutting [] true
     (mfind s.parts 0).any (fun p => p.shutter.any fun r => r.agents = [] && !scrubOut s r) = true ∧
     s.control.fcmd ≠ some (0x109, 0)) ∧
    ({ shutting [] false with control := { fcmd := some (0x109, 0) } } : State).control.fcmd = some (0x109, 0) ∧
    (let s := { shutting [] true with stores := [{ store [1] with agent := .cache 0, pa := 0 }] }
     (mfind s.parts 0).any (fun p => p.shutter.any fun r => scrubOut s r) = true) := by
  decide +kernel

/-- A machine whose FCMD names a command for partition 0, with its argument block at 0x40000. -/
def commanded (code : Nat) (ws : List Nat) (p : Part := bootPart) (enable : Nat := 0xFF) : State :=
  { tables with
    mem := writeNat tables.mem 0x40000 (8 * ws.length) (ofElems 64 ws)
    parts := [(0, { p with ptroot := 0x100000 })]
    control := { mstate := .ready, enable := enable, fcmd := some (code, 0), fcmdarg := 0x40000 } }

/-- Tables down to level 3 for the address 2^37, and a kettle. -/
def deep (ws : List Nat) : State :=
  let s := commanded 9 ws
  { s with
    mem := writeNat (writeNat (writeNat s.mem 0x102008 8 0x104001) 0x104000 8 0x106001) 0x106000 8 71
    kettles := [(0, [0x80])] }

/-- A fault of context 0 of core 0, which is frozen, in a region with a fault domain at 0x40000 or none. -/
def faulted (code : Nat) (stage : FaultStage) (domain : Bool) (s : State := ground) : State :=
  { s with
    ctxs := [(0, { status := .frozen })]
    tasks := [(0, { newTask 0 0 0 [] with domain := domain })]
    regions := [(0, { noRegion with faultcr := 0x40000, islands := 1 })]
    faults := [{ core := some 0, ctx := 0, part := 0, region := 0, code := code, record := [], args := [], stage := stage }] }

theorem witness_FaultService :
    (let s := faulted codeDebug .fresh false
     (getCtx s 0 0).part = 0 ∧ (getCtx s 0 0).status = .frozen ∧ (getCtx s 0 0).gang = false ∧
     s.faults.map (fun it => (it.core, it.code, it.stage)) = [(some 0, codeDebug, .fresh)]) ∧
    (let s := faulted codeDebug .fresh false
     let s := modCore s 0 fun k => { k with probe := { k.probe with resumes := [0] } }
     (getCore s 0).probe.resumes.contains 0 = true) ∧
    -- a walk that met the empty kettle of domain 0
    (let s := faulted codePageFault .fresh false
     let s := { s with faults := s.faults.map fun (it : FaultItem) => { it with kettle := kettleOf (codePageFault + 2 ^ 8) } }
     s.faults.map (fun it => it.kettle) = [some 0] ∧ mget s.kettles 0 [] = []) ∧
    (let s := faulted codePageFault .fresh false { ground with
        control := { mstate := .ready, enable := 0xFF }, parts := [(0, { bootPart with fsvc := true })] }
     s.faults.map (fun it => it.kettle) = [none] ∧ enabled s 2 = true ∧ (mfind s.parts 0).any (fun p => p.fsvc) = true) ∧
    (faulted codePerm (.answered true) false).faults.map (fun it => it.stage) = [.answered true] ∧
    (let s := faulted codeDescriptor .fresh false
     codeDescriptor ≠ codeDebug ∧ codeDescriptor ≠ codePageFault ∧ codeDescriptor ≠ codePerm ∧
     (mfind s.tasks (getCtx s 0 0).task).any (fun t => !t.domain) = true ∧ (getRegion s (regionKey 0 0)).faultcr ≠ 0) ∧
    (let s := faulted codePerm (.answered false) true
     (mfind s.tasks (getCtx s 0 0).task).any (fun t => t.domain) = true ∧ (mfind s.parts 0).isSome) ∧
    (let s := faulted codePerm (.driver 7) false
     (firstFault s (fun it => it.stage = .driver (7 % 2 ^ 32))).map (fun e => e.2) = some 0) ∧
    (∀ it ∈ ground.faults, it.stage ≠ .driver (7 % 2 ^ 32)) := by
  decide +kernel

/-- A fault for the fault domain of its region: a template at 0x40000 whose ring is at 0x50000. -/
def reporting (full : Nat) (faultcr : Nat) : State :=
  let s := faulted codePerm .domain false tables
  { s with
    mem := writeNat (writeNat s.mem 0x40028 8 (0x50000 + 1)) 0x50040 8 (full * 2 ^ 63)
    queues := [(63, { part := 0, task := true, scope := .dev, home := 0, cap := 1, place := 0, items := [], waiters := [] })]
    regions := [(0, { noRegion with faultcr := faultcr, islands := 1, tq := 63 })] }
/-- That machine with the report written, and its task's record pushed. -/
def pushed : State :=
  let s := reporting 0 0x40000
  { s with
    queues := [(63, { part := 0, task := true, scope := .dev, home := 0, cap := 1, place := 0, items := [0x60000], waiters := [] })]
    faults := s.faults.map fun (it : FaultItem) => { it with stage := .pushed 0x50000 0x60000 [0, 0, 0, 0, 0, 0x50001, 0x50000, 0x30] } }
/-- A fault whose report at 0x50000 has been answered. -/
def disposed (action : Nat) : State :=
  let s := faulted codePerm (.reported 0x50000 9) false tables
  { s with mem := writeNat s.mem 0x50040 8 action }

theorem witness_FaultReportsAndDispositions :
    (let s := reporting 0 0x40000
     (reportables s).map (fun e => e.2) = [0] ∧ ∀ it ∈ s.faults, (reportRing s it).2 = some ([0, 0, 0, 0, 0, 0x50001, 0, 0], 0x50000, 0x50000, 1, 0) ∧
      bitOf (wordAt (unitWords s 0 (0x50000 + 0x40) 1).2 0) 63 = false ∧
      storeHeld s .control 0x50000 = false ∧
      (mfind s.queues (getRegion s 0).tq).any (fun q => q.items.length < q.cap) = true) ∧
    (let s := { reporting 0 0x40000 with queues := [] }
     mfind s.queues (getRegion s 0).tq = none) ∧
    (let s := pushed
     let cr := [0, 0, 0, 0, 0, 0x50001, 0x50000, 0x30]
     (mfind s.queues 63).any (fun q => q.task && q.items = [0x60000]) = true ∧ readyCount s 0 < 65536 ∧
     (pushedFault s 0 0x60000).map (fun e => (e.2.1, e.2.2.1, e.2.2.2)) = some (0, 0x50000, cr) ∧
     (mfind s.regions (regionKey 0 0)).any (fun r => !r.cancel) = true ∧
     taskIslands s { newTask 0 0x60000 0 cr with own := some cr, domain := true, queue := 63 } ≠ 0) ∧
    (let s := reporting 1 0x40000
     bitOf (wordAt (unitWords s 0 (0x50000 + 0x40) 1).2 0) 63 = true) ∧
    (let s := reporting 0 (2 ^ 56)
     ∀ it ∈ s.faults, (reportRing s it).2 = none) ∧
    (let s := disposed 2
     (answeredReports s).map (fun e => (e.1.stage, e.2)) = [(.reported 0x50000 9, 0)] ∧
     (unitWords s 0 (0x50000 + 0x40) 8).2 = [2, 0, 0, 0, 0, 0, 0, 0] ∧ (getRegion s (regionKey 0 0)).cancel = false ∧
     (getCtx s 0 0).status = .frozen ∧ redirectable s 0 0 = true ∧
     redirectable ({ s with ctxs := [(0, ({ status := .frozen, works := [piece (.value 0 0)] } : Ctx))] } : State) 0 0 = false) ∧
    (let s := { disposed 3 with faults := (disposed 3).faults.map fun (it : FaultItem) => { it with core := none } }
     ∀ it ∈ s.faults, it.loose = true) :=
  ⟨by decide +kernel, by decide +kernel, by decide +kernel, by decide +kernel, by decide +kernel, by decide +kernel, by decide +kernel⟩

/-- A machine whose partition 0 consents to a debugger. -/
def consenting : State := { ground with parts := [(0, { bootPart with consent := 3 })] }
/-- A context of core 0 whose halt was asked for in cycle 0. -/
def asked (cycle : Nat) : State := pair { status := .ready } {} { cycle := cycle, probe := { halts := [(0, 0, 0)] } } consenting

theorem witness_DebuggerAndErrorEvents :
    (let s := pair { status := .ready } {} {} consenting
     (getCtx s 0 0).gang = false ∧ s.control.mstate ≠ .failed ∧ (getCtx s 0 0).status = .ready ∧ consents s 0 1 = true ∧
     ((getCore s 0).probe.halts.any fun h => h.1 = 0 ∧ h.2.1 = 0) = false) ∧
    consents ground 0 1 = false ∧
    (let s := asked (2 ^ 20)
     ((getCore s 0).probe.halts.any fun h => h.1 = 0 ∧ h.2.1 = 0) = true ∧ (getCtx s 0 0).loops = [] ∧ haltAsked s 0 0 = some 0 ∧
     0 + 2 ^ 20 ≤ (getCore s 0).cycle) ∧
    (getCtx (pair { status := .halted } {} {}) 0 0).status = .halted ∧
    (let s := faulted codeDebug .fresh false
     (getCtx s 0 0).status = .frozen ∧ (∃ it ∈ s.faults, it.stage = .fresh ∧ it.code = codeDebug ∧ it.core = some 0 ∧ it.ctx = 0 ∧
      it.part = (getCtx s 0 0).part)) ∧
    (mfind ground.parts (bitsOf (2 + 39 * 8) 9 3)).isSome ∧ (1 + 8 * 7) % 8 = 1 ∧ 0 < 64 ∧ 2 ^ 58 - 1 < 2 ^ 58 := by
  decide +kernel

theorem witness_BringUpAndRegisters :
    State.reset.control.mstate = .reset ∧ ({ wid := 2 } : Control).wid ≠ 0 ∧ State.reset.control.power ≠ .d3cold ∧
    ({ power := .d3cold } : Control).power = .d3cold ∧
    (let s := pair {} {} { probe := { fifo := [⟨1, 2, 3, 0⟩] } }
     Trace.open s ⟨1, 2, 3, 0⟩ = false ∧ Trace.open { s with parts := [(0, { bootPart with consent := 3 })] } ⟨1, 2, 3, 0⟩ = true) ∧
    (let s := { ground with control := { mstate := .ready, enable := 0x1F } }
     s.control.fcmd = none ∧ s.control.mstate ≠ .failed ∧ enabled s 4 = true ∧ (mfind s.parts 0).any (fun p => p.shutter = none) = true ∧
     (getStream s 0 63).en = false) ∧
    (getStream { ground with streams := [(63, { en := true })] } 0 63).en = true ∧
    (getStream ground 0 0).en = false := by
  decide +kernel

theorem witness_EventRingAndPowerStates :
    (let s := { ground with control := { mstate := .ready, evctl := 0x100, evheld := [[7]] } }
     s.control.evheld = [[7]] ∧ 0 < eventRoom { s.control with evheld := [] }) ∧
    eventRoom ground.control = 0 ∧
    (ground.control.power = .d0 ∧ ground.control.mstate = .ready ∧
      ((upTo 10).foldl cluFlush (haltPartition ground 0)).stores = []) ∧
    (let s := { ground with stores := [store [1]] }
     ((upTo 10).foldl cluFlush (haltPartition s 0)).stores ≠ []) ∧
    ({ ground with control := { power := .d3hot } } : State).control.power = .d3hot := by
  decide +kernel

/-! ### Firmware commands and command streams -/

/-- The argument block of a PCREATE on island 1, in a domain. -/
def creating (dom : Nat) : List Nat := [2 + dom * 2 ^ 16, 0x200000, 0, 0, 0, 0, 1, 2 ^ 35, 0, 0, 0, 0]

theorem witness_PartitionCommands :
    (argBlock { commanded 1 [] with control := { fcmd := some (1, 0), fcmdarg := 1 } }).2 = none ∧
    (let s := commanded 1 (creating 1)
     (argBlock s).2 = some (creating 1 ++ List.replicate 20 0) ∧ partBad (creating 1) = false ∧ (partOf (creating 1)).dom ≠ 0 ∧
     enabled s 3 = true ∧ partTaken s (partOf (creating 1)) = false ∧ freeKey s.parts 8 = some 1 ∧
     (rootFrame s (partOf (creating 1))).isSome) ∧
    enabled (commanded 1 (creating 1) bootPart 0) 3 = false ∧ partBad (List.replicate 12 0) = true ∧
    partTaken (commanded 1 (creating 0) { bootPart with islands := 2, bard := 1 }) { partOf (creating 0) with bard := 1 } = true ∧
    (let s := { commanded 1 (creating 0) with parts := (upTo 8).map fun n => (n, bootPart) }
     freeKey s.parts 8 = none ∧ partTaken s (partOf (creating 0)) = false) ∧
    rootFrame { commanded 1 (creating 1) with owners := [(0x10, 2)] } (partOf (creating 1)) = none ∧
    (let s := commanded 2 [] { bootPart with stopped := true }
     s.control.fcmd = some (2, 0) ∧ (mfind s.parts 0).any (fun p => p.stopped) = true) ∧
    (let s := { commanded 3 [] with ctxs := [(1, { status := .ready })] }
     s.control.fcmd = some (3, 0) ∧ (mfind s.parts 0).any (fun p => !p.stopped) = true ∧ (getCtx s 0 1).part = 0) ∧
    (let s := { commanded 4 [] { bootPart with stopped := true } with ctxs := [(1, { status := .stopped })] }
     s.control.fcmd = some (4, 0) ∧ (mfind s.parts 0).any (fun p => p.stopped) = true ∧ (getCtx s 0 1).status = .stopped) := by
  decide +kernel

/-- The words of a full argument block. -/
def block (ws : List Nat) : List Nat := ws ++ List.replicate (32 - ws.length) 0

theorem witness_ServiceCommands :
    (let ws := [1 + 384 * 2 ^ 16 + 2 ^ 32 + 2 ^ 48, 1 + 2 ^ 16 + 2 ^ 32 + 2 ^ 48]
     let s := commanded 5 ws
     (argBlock s).2 = some (block ws) ∧ (mfind (argBlock s).1.parts 0).isSome ∧
     ∀ e ∈ (upTo 8).map fun i => bitsOf (wordAt ws (i / 4)) (16 * (i % 4)) 16, 1 ≤ e ∧ e ≤ 384) ∧
    ((argBlock (commanded 5 [0])).2 = some (block [0]) ∧ bitsOf (wordAt (block [0]) 0) 0 16 = 0) ∧
    (let ws := [9, 0x0404040303020201]
     (argBlock (commanded 6 ws)).2 = some (block ws) ∧ (∀ e ∈ elems 8 (wordAt ws 1) 8, 1 ≤ e ∧ e ≤ 4) ∧ nonDecreasing (elems 8 (wordAt ws 1) 8) = true) ∧
    (let s := commanded 7 [63 + 2 ^ 8 + 12 * 2 ^ 15]
     (mfind s.queues 63).isNone ∧ queuePlace s (8 * (16 * 2 ^ 12)) = some 0 ∧ bitsOf (63 + 2 ^ 8 + 12 * 2 ^ 15) 7 2 = 2) ∧
    queuePlace { ground with parts := [(0, { bootPart with carves := [(0, 0), (0, 0), (0, levelSize 2)] })] } 128 = none ∧
    (let s := { commanded 8 [63] with queues := synced.queues }
     (mfind s.queues 63).any (fun q => q.part = 0 && q.items ≠ []) = true) ∧
    ((argBlock (commanded 10 [1])).2 = some (block [1]) ∧ enabled (commanded 10 [1]) 2 = true ∧
      enabled (commanded 10 [1] bootPart 0) 2 = false) ∧
    (commanded 11 []).control.fcmd = some (11, 0) := by
  decide +kernel

theorem witness_MappingCommand :
    (let ws := [2 ^ 37, 0x40000, 1, 6]
     let s := deep ws
     s.control.fcmd = some (9, 0) ∧ (argBlock s).2 = some (block ws) ∧ pmapBad (block ws) = false ∧ mget s.kettles 0 [] ≠ [] ∧
     (mfind s.parts 0).any (fun p => p.shutter = none && (mapPages s p (block ws) 0 false 1).2 = (true, 1)) = true) ∧
    (let ws := [2 ^ 37 + 2 ^ 17, 0x40000, 1, 6]
     (mfind (deep ws).parts 0).any (fun p => (mapPages (deep ws) p (block ws) 0 false 1).2 = (false, 1)) = true) ∧
    mfind ({ deep [] with parts := [] } : State).parts 0 = none ∧ pmapBad (block []) = true ∧
    (mfind (deep []).parts 0).any (fun p => (entryFor (deep []) p.dom (2 ^ 37) p.ptroot [47, 37, 27]).2 = some 0x106000) = true ∧
    mget (deep []).owners 2 0 = 0 ∧ (deep []).retiredFrames.contains 2 = false ∧
    ({ deep [] with retiredFrames := [2] } : State).retiredFrames.contains 2 = true ∧
    mget ({ deep [] with owners := [(2, 3)] } : State).owners 2 0 = 3 := by
  decide +kernel

/-- Stream 0 of partition 0, its ring at 0x40000 holding words. -/
def streaming (ws : List Nat) (stream : Stream := {}) (s : State := tables) : State :=
  { s with
    mem := writeNat s.mem 0x40000 (8 * ws.length) (ofElems 64 ws)
    streams := [(0, { stream with base := 0x40000, en := true, tail := 8 * ws.length })] }

theorem witness_StreamsAndPackets :
    ground.control.mstate ≠ .failed ∧
    ((getStream (streaming [0]) 0 0).en = true ∧ (getStream ground 0 0).en = false ∧ bitOf 0x200 9 = true ∧ bitOf 0 9 = false) ∧
    (let s := streaming (List.replicate 32 0)
     let t := getStream s 0 0
     t.halt = false ∧ t.begun = false ∧ t.fetched = [] ∧ t.buffers = [] ∧ t.vaAt 0 t.head % 64 = 0 ∧ 3 * 64 < 256 ∧ 3 * 64 < t.roomAt 0 ∧
     (streamPa s 0 (t.vaAt 0 (t.head + 3 * 64)) 1).2 = some 0x400C0 ∧ 256 ≤ 4 * 64 - t.vaAt 0 t.head % 64 ∧ t.loops = []) ∧
    ([([10], 1), ([1], 2), ([3 + 2 * 2 ^ 8 + 2 ^ 16, 0, 0], 8)] : List (List Nat × Nat)).all (fun e =>
      (nextPacket (streaming e.1) 0 0).2 = some (.inl e.1) && pktBad e.1 = some e.2) = true ∧
    (nextPacket { streaming [0] with mem := [] } 0 0).2 = some (.inr 0x40000) ∧
    pktBad [3 + 2 * 2 ^ 8, 8, 0] = none := by
  decide +kernel

theorem witness_PacketResults :
    ([[0 + 3 * 2 ^ 8], [2 + 2 ^ 8, 0x50000], [2 + 2 ^ 8 + 2 ^ 16, 0], [3 + 2 * 2 ^ 8, 0x50000, 9],
      [9 + 2 * 2 ^ 8 + 0x7F * 2 ^ 16, 0x50000, 1], [9 + 2 * 2 ^ 8, 0, 1], [4 + 3 * 2 ^ 8, 0x50000, 0, 1],
      [4 + 3 * 2 ^ 8 + 2 ^ 16, 0x50000, 0, 1], [5 + 3 * 2 ^ 8 + 0xFF00 * 2 ^ 16, 0x50000, 0, 1], [6 + 2 * 2 ^ 8, 0x60000, 8], [7],
      [8]] : List (List Nat)).all (fun ws =>
        (nextPacket (streaming (ws ++ List.replicate 3 0)) 0 0).2 = some (.inl ws) && (pktBad ws).isNone) = true ∧
    (streamPa (streaming []) 0 0x50000 2).2 = some 0x50000 ∧ (streamPa (streaming []) 0 (2 ^ 40) 2).2 = none ∧
    isMmio 0x50000 = false ∧ isNowhere 0x50000 = false ∧
    (compareWord (streaming []) 0 [4 + 3 * 2 ^ 8, 0x50000, 0, 1]).2 = some 0 ∧
    (compareWord (streaming []) 0 [4 + 3 * 2 ^ 8, 2 ^ 40, 0, 1]).2 = none ∧
    (let s := streaming [4 + 3 * 2 ^ 8, 0x50000, 0, 1] { wait := some 1 } { tables with time := 2 ^ 40 }
     (nextPacket s 0 0).2 = some (.inl [4 + 3 * 2 ^ 8, 0x50000, 0, 1]) ∧ (getStream s 0 0).wait = some 1 ∧ 1 ≤ timeNs s) ∧
    (getStream (streaming [0] { created := true }) 0 0).created = true ∧
    hostStoresOut (storeAt { streaming [] with replicas := [(1, 2)] } .host 0 0x50000 8 1 (ones 8)) = true ∧
    (let s := streaming [7 + 2 * 2 ^ 16, 0, 0, 0]
     (loopBody s 0 0 0 8 2 8).2 = some (.inl [0, 0]) ∧ (loopBody s 0 0 0 8 33 8).2 = none ∧
     (loopBody (streaming [7 + 2 * 2 ^ 16, 8, 0]) 0 0 0 8 2 8).2 = some (.inr (4, 0)) ∧ (getStream s 0 0).level = 0) ∧
    (let s := { streaming [6 + 2 * 2 ^ 8, 0x60000, 8] with
        streams := [(0, { base := 0x40000, en := true, buffers := [⟨0x40000, 24, 0⟩, ⟨0x40000, 24, 0⟩] })] }
     (nextPacket s 0 0).2 = some (.inl [6 + 2 * 2 ^ 8, 0x60000, 8]) ∧ (getStream s 0 0).level = 2) := by
  decide +kernel

/-- A LAUNCH with an ACT and RELOAD, of region 5 with its RCB at 0x60000 and a CR, in a machine with TASK queue 63 as told. -/
def launching (act reload cr : Nat) (items : List Nat) (regions : Map Region) : State :=
  streaming [1 + 2 * 2 ^ 8 + (5 + act * 2 ^ 12 + reload * 2 ^ 14) * 2 ^ 16, 0x60000, cr] {} { tables with
    mem := writeNat (writeNat (writeNat tables.mem 0x60000 8 (0xFFFF + 2 ^ 48)) 0x60058 8 0x80) 0x60090 1 63
    regions := regions
    queues := [(63, { part := 0, task := true, scope := .dev, home := 0, cap := 1, items := items, waiters := [] })] }
/-- The words of that packet. -/
def launch (act reload cr : Nat) : List Nat := [1 + 2 * 2 ^ 8 + (5 + act * 2 ^ 12 + reload * 2 ^ 14) * 2 ^ 16, 0x60000, cr]
/-- Region 5, with TASK queue 63. -/
def launched (live : Nat) : Map Region := [(5, { noRegion with islands := 1, tq := 63, live := live })]

theorem witness_LaunchResults :
    ([(0, 0, 0), (0, 1, 0x40000), (1, 0, 0x40000), (2, 0, 0), (3, 0, 0)] : List (Nat × Nat × Nat)).all (fun e =>
      (nextPacket (launching e.1 e.2.1 e.2.2 [] []) 0 0).2 = some (.inl (launch e.1 e.2.1 e.2.2)) &&
      (pktBad (launch e.1 e.2.1 e.2.2)).isNone) = true ∧
    (let s := launching 0 1 0 [] []
     (getStream s 0 0).reloaded = false ∧ (getStream s 0 0).created = false ∧
     (readRcb s 0 0x60000).2.any (fun r => r.1 = 0x60000 && refusal s 0 5 r.2 = 0) = true) ∧
    ((readRcb (launching 0 1 0 [] (launched 0)) 0 0x60000).2.any (fun r => refusal (launching 0 1 0 [] (launched 0)) 0 5 r.2 ≠ 0)) = true ∧
    (readRcb (launching 0 1 0 [] []) 0 (2 ^ 40)).2 = none ∧
    (let s := launching 1 0 0x40000 [] (launched 0)
     (mfind s.regions (regionKey 0 5)).isSome ∧ mfind s.queues (getRegion s 5).tq ≠ none ∧
     (mfind s.queues (getRegion s 5).tq).all (fun q => q.items.length < q.cap) = true) ∧
    (mfind (launching 1 0 0x40000 [7] (launched 0)).queues 63).any (fun q => q.cap ≤ q.items.length) = true ∧
    (releaseReady (launching 2 0 0 [] (launched 0)) 0 5).2 = false ∧
    (let s := { launching 2 0 0 [] [(5, { noRegion with ready := [9] })] with
        tasks := [(9, newTask 5 0 0 [1, 0])], stores := [{ store [1] with agent := .cache 0 }] }
     (releaseReady s 0 5).2 = true) ∧
    (mfind (launched 0) (regionKey 0 5)).any (fun r => r.live = 0) = true ∧ (mfind (launched 1) (regionKey 0 5)).any (fun r => r.live ≠ 0) = true := by
  decide +kernel

/-! ### The machine as a whole -/

/-- Core 0 about to issue the bundle at address 0, one word beside nothing. -/
def fetching (w : BitVec 32) : State :=
  { ground with
    agenda := [.bundleIssue 0], latch := { slot := 3 }, ctxs := [(0, { status := .ready })]
    cores := [(0, { owner := some 0, blocks := [⟨0, 0, [(0, 0)], writeNat [] 0 16 (w.toNat * 2 ^ 96)⟩] })] }

theorem witness_StepRunsDecodedInstruction :
    (let s := fetching 0x0F040000
     (getCore s s.focus).owner = some 0 ∧ (getCtx s 0 0).gang = false ∧ s.latch.hdr = none ∧
     (blockAt s 0 0 0).any (fun b => bundleWords b 0 = setAt [0, 0, 0, 0] 3 0x0F040000) = true) ∧
    decodeSlot 0x0F040000 = .ok (.br 15 0) :=
  ⟨by decide +kernel, rfl⟩

theorem witness_DecodeEncode : (Instr.add 15 1 63 63 63).wellFormed = true ∧ (encode (.add 15 1 63 63 63)).isSome := by decide

theorem witness_BundlesThatDoNothing :
    (let s := stand (.add 15 0 1 2 3) { works := [piece (.value 0 0)] }
     Ready s 0 ∧ Quiet s ∧ classOf (.add 15 0 1 2 3) = some 1 ∧ (slotInfo (.add 15 0 1 2 3)).any (fun f =>
      decodeFault false 0 (oneCell s.latch 1 f) = none && waiting s 0 0 0 [onePlaced s.latch 1 f] ≠ []) = true) ∧
    (let s := stand (.add 10 0 1 2 3)
     (slotInfo (.add 10 0 1 2 3)).any (fun f => decodeFault false 0 (oneCell s.latch 1 f) = none &&
      waiting s 0 0 0 [onePlaced s.latch 1 f] = [] && !isLive s 0 0 0 (onePlaced s.latch 1 f)) = true) ∧
    -- a branch outside slot 3
    (let s := ({ stand (.br 15 0) with latch := {} } : State)
     Ready s 0 ∧ classOf (.br 15 0) = some 0 ∧ (slotInfo (.br 15 0)).any (fun f => (decodeFault false 0 (oneCell s.latch 0 f)).isSome) = true) :=
  ⟨⟨ready_of_readyB (by decide +kernel), quiet_of_quietB (by decide +kernel), by decide +kernel, by decide +kernel⟩, by decide +kernel,
    ready_of_readyB (by decide +kernel), by decide +kernel, by decide +kernel⟩

theorem witness_FaultsAtIssue :
    AllOn [.ldgW 15 0 1 0 2 0, .stgW 15 1 0 2 0, .stS 15 1 0 2 0, .spawn 15 0 1 7] ∧
    (let s := stand (.ldgW 15 0 1 0 2 0)
     checkGlobal s (issuer s 0) 0 (globalOff (latchExt s) (issuer s 0) 2 4) 4 true false {} = .fault { code := codePerm } ∧
     checkGlobal s (issuer s 0) 0 (globalOff (latchExt s) (issuer s 0) 2 4) 4 false true {} = .fault { code := codePerm } ∧
     (placedAt s (.ldgW 15 0 1 0 2 0)).any (fun p => match p.info.run (portOf s s.focus 0 s.focus p) s with
      | .trap t => !t.deferred
      | _ => false) = true) ∧
    (let s := stand (.stS 15 1 0 2 0)
     guardMeets s s.focus (spadAddr (latchExt s) (issuer s 0) 0 2 4) 4 true = false ∧
     inCarve s (issuer s 0) 0 (spadAddr (latchExt s) (issuer s 0) 0 2 4) 4 = false) ∧
    occupied { stand (.spawn 15 0 1 7) with ctxs := [(0, { status := .ready }), (7, { status := .ready })] } 0 7 = true ∧
    (let k := ({ h := [(0, { valid := true, perm := 2 }), (1, { fault := codePerm })] } : Ctx)
     (readH k 0).valid = true ∧ (readH k 0).pending = false ∧ (readH k 0).fault = 0 ∧ (readH k 0).bind.toNat < 2 ^ 12 ∧
     (readH k 0).perm.getLsbD 0 = false ∧ (readH k 0).perm.getLsbD 1 = true ∧ (readH k 1).fault ≠ 0 ∧
     (readH k 2).valid = false ∧ (readH k 2).revoked = false ∧ (readH k 2).fault = 0) :=
  ⟨allOn (by decide +kernel), by decide +kernel, by decide +kernel, by decide +kernel, by decide +kernel⟩

theorem witness_SoundMemoryKept : SoundMemory State.reset ∧ ∃ t, step State.reset = .next t :=
  ⟨⟨rfl, rfl, fun _ => rfl, fun _ => rfl, fun _ => rfl⟩, ⟨_, rfl⟩⟩

end Sys2Proof.Tests
end

/-! What the accesses of the other scratchpad levels, of lane-private memory and of the tile banks do once they issue (R98,
R199, R200, R202, R203). -/

namespace Sys2Proof.Machine.LevelAndBank

/-! ### The post-increment and the bytes of elements -/

/-- No fault travels with a post-increment. -/
theorem postOut_fault {k : Ctx} {m : BitVec 2} {a : BitVec 6} {z : Nat} (o : Out) (ho : o ∈ postOut k m a z) :
    o.fault = none := by
  unfold postOut at ho
  dsimp only at ho
  split at ho
  · exact absurd ho List.not_mem_nil
  · split at ho
    · rw [List.mem_singleton.mp ho]
    · split at ho <;> rw [List.mem_singleton.mp ho]

/-- Byte `j` of element `n` of 32 bytes is a byte of the whole. -/
theorem byte_elem (v n j : Nat) (hj : j < 32) : elem 256 v n / 256 ^ j % 256 = v / 256 ^ (32 * n + j) % 256 := by
  have hwhole : 2 ^ 256 = 256 ^ 32 := by decide
  have hsplit : 2 ^ 256 = 256 ^ j * 256 ^ (32 - j) := by rw [hwhole, ← Nat.pow_add, show j + (32 - j) = 32 by omega]
  have hstart : 2 ^ (256 * n) = 256 ^ (32 * n) := by rw [Nat.pow_mul, Nat.pow_mul, hwhole]
  have hdvd : 256 ∣ 256 ^ (32 - j) := Nat.dvd_of_pow_dvd (by omega) (Nat.dvd_refl _)
  unfold elem
  rw [hsplit, Nat.mod_mul_right_div_self, Nat.mod_mod_of_dvd _ hdvd, hstart, Nat.div_div_eq_div_mul, ← Nat.pow_add]

/-! ### Stores to lane-private memory (R200) -/

/-- A core after lane group `n` has taken its 32 bytes of a vector at an address. -/
def laneWritten (a v n : Nat) (c : Core) : Core :=
  { c with
    lane := writeNat c.lane (n * 2 ^ 16 + a) 32 (elem 256 v n)
    poison := c.poison.filter (· ≠ lanePoison n a) }

theorem laneStore_eq (s : State) (c a v n : Nat) :
    laneStore s c n a 32 (elem 256 v n) = modCore s c (laneWritten a v n) := rfl

theorem keepsCore_laneWritten (a v n : Nat) : KeepsCore (laneWritten a v n) := by constructor <;> intros <;> rfl

theorem keepsCore_comp {g h : Core → Core} (hg : KeepsCore g) (hh : KeepsCore h) : KeepsCore (h ∘ g) where
  probe k d := (congrArg h (hg.probe k d)).trans (hh.probe _ d)
  tnext k := (hh.tnext _).trans (hg.tnext k)
  chains k := (hh.chains _).trans (hg.chains k)
  cur k := (hh.cur _).trans (hg.cur k)

/-- Changes of a core in turn leave alone what each leaves alone. -/
theorem keepsCore_foldl {α : Type} {g : α → Core → Core} (l : List α) (hg : ∀ n, KeepsCore (g n)) :
    KeepsCore fun c => l.foldl (fun c n => g n c) c := by
  induction l with
  | nil => exact keepsCore_id
  | cons n t ih => exact keepsCore_comp (hg n) ih

/-- Changes of one core in turn act as one change of it. -/
theorem acts_foldl {α : Type} {g : α → Core → Core} (l : List α) (c x : Nat) (hg : ∀ n, KeepsCore (g n)) :
    Acts (fun s => l.foldl (fun s n => modCore s c (g n)) s) c x id fun k => l.foldl (fun k n => g n k) k := by
  induction l with
  | nil => exact acts_id c x
  | cons n t ih => exact acts_comp (acts_core c x (g n)) ih (keepsCore_foldl t hg)

/-- The first `m` lane groups hold their part of a vector at the address; every other byte reads as before. -/
theorem mget_lanesWritten (a v m : Nat) (ha : a + 32 ≤ 2 ^ 16) (c : Core) (b : Nat) :
    (mget ((List.range m).foldl (fun c n => laneWritten a v n c) c).lane b 0).toNat =
      if b / 2 ^ 16 < m ∧ a ≤ b % 2 ^ 16 ∧ b % 2 ^ 16 < a + 32 then
        v / 256 ^ (32 * (b / 2 ^ 16) + (b % 2 ^ 16 - a)) % 256
      else (mget c.lane b 0).toNat := by
  induction m with
  | zero => rw [if_neg (by omega)]; rfl
  | succ m ih =>
    rw [List.range_succ, List.foldl_append, List.foldl_cons, List.foldl_nil]
    show (mget (writeNat _ (m * 2 ^ 16 + a) 32 (elem 256 v m)) b 0).toNat = _
    rw [mget_writeNat]
    by_cases hb : m * 2 ^ 16 + a ≤ b ∧ b < m * 2 ^ 16 + a + 32
    · have hgroup : b / 2 ^ 16 = m := by omega
      have hbyte : b - (m * 2 ^ 16 + a) = b % 2 ^ 16 - a := by omega
      rw [if_pos hb, if_pos (by omega), BitVec.toNat_ofNat, hgroup, hbyte]
      exact byte_elem v m _ (by omega)
    · have hgroups : (b / 2 ^ 16 < m + 1 ∧ a ≤ b % 2 ^ 16 ∧ b % 2 ^ 16 < a + 32) ↔
          (b / 2 ^ 16 < m ∧ a ≤ b % 2 ^ 16 ∧ b % 2 ^ 16 < a + 32) := by omega
      rw [if_neg hb, ih]
      simp only [hgroups]

/-- The four lane groups lie below 2^18. -/
theorem mget_fourLanes (a v : Nat) (ha : a + 32 ≤ 2 ^ 16) (c : Core) (b : Nat) :
    (mget ((upTo 4).foldl (fun c n => laneWritten a v n c) c).lane b 0).toNat =
      if b < 2 ^ 18 ∧ a ≤ b % 2 ^ 16 ∧ b % 2 ^ 16 < a + 32 then
        v / 256 ^ (32 * (b / 2 ^ 16) + (b % 2 ^ 16 - a)) % 256
      else (mget c.lane b 0).toNat := by
  have hgroups : b / 2 ^ 16 < 4 ↔ b < 2 ^ 18 := by omega
  have h := mget_lanesWritten a v 4 ha c b
  simp only [hgroups] at h
  exact h

/-- What lies in the carve of a level lies in the level. -/
theorem inCarve_fits {s : State} {k : Ctx} {l a n : Nat} (h : inCarve s k l a n = true) : a + n ≤ levelSize l := by
  unfold inCarve at h
  simp only [Bool.and_eq_true, decide_eq_true_eq] at h
  exact h.2

/-! ### The accesses -/

/-- An instruction executes in the context that issues it, on the core in focus. -/
theorem portAt_reads (s : State) (x : Nat) (i : SlotInfo) : (portAt s x i).reads s = issuer s x := rfl
theorem portAt_core (s : State) (x : Nat) (i : SlotInfo) : (portAt s x i).core = s.focus := rfl
theorem portAt_ctx (s : State) (x : Nat) (i : SlotInfo) : (portAt s x i).ctx = x := rfl

section
variable {s : State} {x : Nat} {g : BitVec 4} {q : BitVec 1} {d : BitVec 6} {o : BitVec 4} {a : BitVec 6} {m : BitVec 2}

/-- A load of a level inside the carve is put in hand. -/
theorem did_levelLoad {i : Instr} {l : Level} {b : Bool} (hI : Issues s x i) (hq : Quiet s) (hc : classOf i = some 10)
    (hf : slotInfo i = some (levelLoadOp l b g q d o a m))
    (hin : inCarve s (issuer s x) l.index (spadAddr (latchExt s) (issuer s x) o a 128) 128 = true) :
    Did s x i {
      sq := q = 1
      works := [{ reg := .v d.toNat, kind := .levelLoad l (spadAddr (latchExt s) (issuer s x) o a 128) }]
      outs := postOut (issuer s x) m a 128 } :=
  did_work hI hq hc hf (if_pos hin) rfl rfl postOut_fault

/-- A store to a level inside the carve is put in hand. -/
theorem did_levelStore {i : Instr} {l : Level} {b : Bool} (hI : Issues s x i) (hq : Quiet s) (hc : classOf i = some 10)
    (hf : slotInfo i = some (levelStoreOp l b g d o a m))
    (hin : inCarve s (issuer s x) l.index (spadAddr (latchExt s) (issuer s x) o a 128) 128 = true) :
    Did s x i {
      works := [{ reg := .none
                  kind := .levelStore l (spadAddr (latchExt s) (issuer s x) o a 128) (readV (issuer s x) d.toNat).toNat }]
      outs := postOut (issuer s x) m a 128 } :=
  did_work hI hq hc hf (if_pos hin) rfl rfl postOut_fault

/-- A load of lane-private memory reads the four groups at one address. -/
theorem did_vldL (hI : Issues s x (.vldL g q d o a m)) (hq : Quiet s)
    (hin : inCarve s (issuer s x) 3 (spadAddr (latchExt s) (issuer s x) o a 32) 32 = true)
    (hok : ∀ n, n < 4 → laneBad s s.focus n (spadAddr (latchExt s) (issuer s x) o a 32) = false) :
    Did s x (.vldL g q d o a m) {
      sq := q = 1
      outs := { reg := .v d.toNat, lat := 4,
                val := ofElems 256 ((upTo 4).map fun n =>
                  readNat (getCore s s.focus).lane (n * 2 ^ 16 + spadAddr (latchExt s) (issuer s x) o a 32) 32) } ::
        postOut (issuer s x) m a 32 } := by
  have hnone : (upTo 4).any (fun n => laneBad s s.focus n (spadAddr (latchExt s) (issuer s x) o a 32)) = false :=
    List.any_eq_false.mpr fun n hn => Bool.eq_false_iff.mp (hok n (List.mem_range.mp hn))
  refine did_plain hI hq rfl rfl ?_ rfl (Nat.zero_le _) (fun _ h => absurd h List.not_mem_nil)
    (List.forall_mem_cons.mpr ⟨rfl, postOut_fault⟩) rfl
  simp only [opVldL, memSlot, portAt_reads, portAt_core, hin, hnone, not_true, Bool.false_eq_true, if_false]
  rfl

/-- A store to lane-private memory gives each group its part of the vector. -/
theorem did_vstL (hI : Issues s x (.vstL g d o a m)) (hq : Quiet s)
    (hin : inCarve s (issuer s x) 3 (spadAddr (latchExt s) (issuer s x) o a 32) 32 = true) :
    Did s x (.vstL g d o a m) {
      outs := postOut (issuer s x) m a 32
      core := fun c => (upTo 4).foldl (fun c n =>
        laneWritten (spadAddr (latchExt s) (issuer s x) o a 32) (readV (issuer s x) d.toNat).toNat n c) c } := by
  refine did_ctx hI hq rfl rfl (if_pos hin) ?_ (keeps_id _) (keepsCore_foldl _ (keepsCore_laneWritten _ _)) rfl
    postOut_fault rfl rfl (.inl rfl)
  have h := acts_foldl (upTo 4) s.focus x
    (keepsCore_laneWritten (spadAddr (latchExt s) (issuer s x) o a 32) (readV (issuer s x) d.toNat).toNat)
  simp only [← laneStore_eq] at h
  exact h

/-- PLST lays the pieces of its column over the core scratchpad, and holds issue one cycle more. -/
theorem goes_plst (hI : Issues s x (.plst g d o a)) {f : MatFmt} (hfmt : matFmt (issuer s x).mfmt.toNat = some f)
    {b : Nat} (hb : b = (readS (issuer s x) a.toNat).toNat / 64 * 64) {ps : List (Nat × Nat × Nat)}
    (hps : ps = columnPieces f o.toNat (elems f.b.bits (readV (issuer s x) d.toNat).toNat f.k))
    (hguard : ∀ p ∈ ps, guardMeets s s.focus (b + p.1) p.2.1 true = false)
    (hin : firstOutside s (issuer s x) (ps.map fun p => (b + p.1, p.2.1)) = none) :
    Goes s x (.plst g d o a) {
      words := ps.flatMap fun p => spadWords (b + p.1) p.2.1
      heldMore := 1
      act := fun u => ps.foldl (fun u p => spadStore u s.focus (b + p.1) p.2.1 p.2.2) u } := by
  subst hb hps
  have hfree := List.any_eq_false.mpr fun p hp => Bool.eq_false_iff.mp (hguard p hp)
  refine goes hI rfl rfl ?_
  simp only [opPlst, memSlot, portAt_reads, portAt_core, hfmt, hfree, hin, Bool.false_eq_true, if_false]

/-- VLDB reads a row of a bank, which is busy until the result lands. -/
theorem did_vldb (hI : Issues s x (.vldb g q d o a m)) (hq : Quiet s) {w : Nat}
    (hrow : bankRow s s.focus x (spadAddr (latchExt s) (issuer s x) o a 128) = .inl w)
    (hok : bankBad (getCore s s.focus) w = false) :
    Did s x (.vldb g q d o a m) {
      sq := q = 1
      outs := { reg := .v d.toNat, val := tileWords (getCore s s.focus).tiles w 32, lat := 6 } :: postOut (issuer s x) m a 128
      core := fun c => { c with vbusy := c.vbusy ++ [(w / 2048, 6)] } } := by
  refine did_ctx hI hq rfl rfl ?_ (acts_core s.focus x fun c => { c with vbusy := c.vbusy ++ [(w / 2048, 6)] }) (keeps_id _)
    (by constructor <;> intros <;> rfl) rfl (List.forall_mem_cons.mpr ⟨rfl, postOut_fault⟩) rfl rfl (.inl rfl)
  simp only [opVldb, memSlot, portAt_reads, portAt_core, portAt_ctx, hrow, hok, Bool.false_eq_true, if_false]
  rfl

/-- VSTB writes a row of a bank, which clears the poison of the array rows it overlays. -/
theorem did_vstb (hI : Issues s x (.vstb g d o a m)) (hq : Quiet s) {w : Nat}
    (hrow : bankRow s s.focus x (spadAddr (latchExt s) (issuer s x) o a 128) = .inl w) :
    Did s x (.vstb g d o a m) {
      outs := postOut (issuer s x) m a 128
      core := fun c => { c with
        tiles := tileWrite c.tiles w 32 (readV (issuer s x) d.toNat).toNat
        badRows := c.badRows.filter fun r => r ≠ w / 16 ∧ r ≠ w / 16 + 1 } } := by
  refine did_ctx hI hq rfl rfl ?_ (acts_core s.focus x fun c => { c with
      tiles := tileWrite c.tiles w 32 (readV (issuer s x) d.toNat).toNat
      badRows := c.badRows.filter fun r => r ≠ w / 16 ∧ r ≠ w / 16 + 1 }) (keeps_id _)
    (by constructor <;> intros <;> rfl) rfl postOut_fault rfl rfl (.inl rfl)
  simp only [opVstb, memSlot, portAt_reads, portAt_core, portAt_ctx, hrow]
  rfl

end

/-- Settles O21: each access by its own rule; a lane store reads back by induction on the groups written. -/
theorem levelAndBankAccesses : Obligations.LevelAndBankAccesses := by
  unfold Obligations.LevelAndBankAccesses
  refine ⟨fun s x g q d o a m hq => ⟨?loads, ?stores, ?laneLoad, ?laneStore⟩,
    fun s x g q d o a m hq => ⟨?plane, fun w hrow => ⟨?bankLoad, ?bankStore⟩⟩⟩
  case loads =>
    intro e he hI hin
    simp only [levelLoadTable, List.mem_cons, List.not_mem_nil, or_false] at he
    obtain rfl | rfl := he <;> exact did_levelLoad hI hq rfl rfl hin
  case stores =>
    intro e he hI hin
    simp only [levelStoreTable, List.mem_cons, List.not_mem_nil, or_false] at he
    obtain rfl | rfl := he <;> exact did_levelStore hI hq rfl rfl hin
  case laneLoad => exact fun hI hin hok => did_vldL hI hq hin hok
  case laneStore => exact fun hI hin => ⟨did_vstL hI hq hin, mget_fourLanes _ _ (inCarve_fits hin)⟩
  case plane => exact fun hI f hfmt hguard hin => goes_plst hI hfmt rfl rfl hguard hin
  case bankLoad => exact fun hI hok => did_vldb hI hq hrow hok
  case bankStore => exact fun hI => did_vstb hI hq hrow

end Sys2Proof.Machine.LevelAndBank

/-! What the scalar integer and float instructions do once they issue (R103–R122). -/

namespace Sys2Proof.Machine.ScalarResults

/-! ### The model's integer functions in terms of the word operations -/

/-- A choice by signed order is a choice by strict order, where equal words leave no choice. -/
theorem ite_toInt_le {a b c d : Word} (htie : a = b → c = d) :
    (if a.toInt ≤ b.toInt then c else d) = if a.slt b then c else d := by
  by_cases heq : a = b
  · rw [htie heq, ite_self, ite_self]
  · have hne : a.toInt ≠ b.toInt := fun h => heq (BitVec.eq_of_toInt_eq h)
    have hiff : a.toInt ≤ b.toInt ↔ a.slt b = true := by rw [BitVec.slt_iff_toInt_lt]; omega
    simp only [hiff]

/-- The same of unsigned order. -/
theorem ite_toNat_le {a b c d : Word} (htie : a = b → c = d) :
    (if a.toNat ≤ b.toNat then c else d) = if a.ult b then c else d := by
  by_cases heq : a = b
  · rw [htie heq, ite_self, ite_self]
  · have hne : a.toNat ≠ b.toNat := fun h => heq (BitVec.eq_of_toNat_eq h)
    have hiff : a.toNat ≤ b.toNat ↔ a.ult b = true := by rw [BitVec.ult_iff_toNat_lt]; omega
    simp only [hiff]

theorem shadd_mul (n : Nat) (a b : Word) : (a <<< n) + b = a * BitVec.twoPow 64 n + b := by
  rw [BitVec.shiftLeft_eq_mul_twoPow]

/-- The signed quotient wraps where it overflows (R109). -/
theorem divSigned_eq (a b : Word) : divSigned a b = if b = 0 then BitVec.allOnes 64 else a.sdiv b := by
  have hquot : wordOfInt (a.toInt.tdiv b.toInt) = a.sdiv b :=
    BitVec.eq_of_toInt_eq ((BitVec.toInt_ofInt _).trans (BitVec.toInt_sdiv a b).symm)
  rw [divSigned, hquot]

theorem divUnsigned_eq (a b : Word) : divUnsigned a b = if b = 0 then BitVec.allOnes 64 else a / b := by
  rw [divUnsigned, ← BitVec.udiv_def]

theorem remSigned_eq (a b : Word) : remSigned a b = if b = 0 then a else a.srem b := by
  rw [remSigned, wordOfInt, ← BitVec.toInt_srem, BitVec.ofInt_toInt]

theorem remUnsigned_eq (a b : Word) : remUnsigned a b = if b = 0 then a else a % b := by
  rw [remUnsigned, ← BitVec.umod_def]

/-- A number's low bits read as signed are the two's complement value of those bits. -/
theorem signed_eq_toInt (n x : Nat) : signed (n + 1) x = (BitVec.ofNat (n + 1) x).toInt := by
  have hhalf : x % 2 ^ (n + 1) < 2 ^ n ↔ 2 * (x % 2 ^ (n + 1)) < 2 ^ (n + 1) := by rw [Nat.pow_succ]; omega
  have hpow : ((2 ^ (n + 1) : Nat) : Int) = 2 ^ (n + 1) := Int.natCast_pow 2 (n + 1)
  simp only [signed, BitVec.toInt_eq_toNat_cond, BitVec.toNat_ofNat, Nat.add_sub_cancel, hhalf, hpow]

theorem signed_word (n : Nat) (a : Word) :
    wordOfInt (signed (n + 1) a.toNat) = (a.setWidth (n + 1)).signExtend 64 := by
  rw [signed_eq_toInt, BitVec.ofNat_toNat]; rfl

theorem toNat_ofNat_mod (a : Word) (m : Nat) : (BitVec.ofNat 64 (a.toNat % m)).toNat = a.toNat % m := by
  rw [BitVec.toNat_ofNat, Nat.mod_eq_of_lt (Nat.lt_of_le_of_lt (Nat.mod_le _ _) a.isLt)]

/-! ### What an instruction of each shape does -/

section
variable {s : State} {x : Nat} {i : Instr} {g : BitVec 4} {q : BitVec 1} {ok : Bool} {reads : List Reg} {r : Reg} {lat : Nat}

/-- A scalar instruction of fixed latency puts the result of its operands in flight. -/
theorem did_scalarOp {f : Ctx → Nat × Nat} (hI : Issues s x i) (hq : Quiet s)
    (hf : slotInfo i = some (scalarOp g q ok reads r lat f)) :
    Did s x i (scalarDeed q r lat (f (issuer s x)).1 (f (issuer s x)).2) := by
  obtain ⟨cls, _, hc, _⟩ := hI.2
  exact did_out hI hq hc hf rfl rfl rfl

/-- An interlocked scalar instruction puts in hand the result of the operands it reads at issue. -/
theorem did_scalarLong {f : Ctx → Nat × Nat} (hI : Issues s x i) (hq : Quiet s)
    (hf : slotInfo i = some (scalarLong g q reads r f)) :
    Did s x i (longDeed q r (f (issuer s x)).1 (f (issuer s x)).2) := by
  obtain ⟨cls, _, hc, _⟩ := hI.2
  exact did_work hI hq hc hf rfl rfl rfl (fun _ h => absurd h List.not_mem_nil)

end

/-! ### Each instruction has its shape, with the result that its table gives -/

/-- The shape that an instruction has, with its result function given in another way. -/
theorem slotInfo_congr {α : Type} {f f' : α} {i : TwoReg}
    (shape : α → BitVec 4 → BitVec 1 → BitVec 6 → BitVec 6 → BitVec 6 → Op)
    (hi : ∀ g q d a b, slotInfo (i g q d a b) = some (shape f g q d a b)) (h : f = f') :
    ∀ g q d a b, slotInfo (i g q d a b) = some (shape f' g q d a b) := h ▸ hi

theorem slotInfo_congr_word {f f' : Word → Word → Word} {i : TwoReg}
    (shape : (Word → Word → Word) → BitVec 4 → BitVec 1 → BitVec 6 → BitVec 6 → BitVec 6 → Op)
    (hi : ∀ g q d a b, slotInfo (i g q d a b) = some (shape f g q d a b)) (h : ∀ a b, f a b = f' a b) :
    ∀ g q d a b, slotInfo (i g q d a b) = some (shape f' g q d a b) :=
  slotInfo_congr shape hi (funext fun a => funext (h a))

theorem slotInfo_integer : ∀ e ∈ integerTable, ∀ g q d a b, slotInfo (e.1 g q d a b) = some (alu e.2.1 e.2.2 g q d a b) := by
  simp only [integerTable, List.forall_mem_cons]
  refine ⟨?add, ?sub, ?mul, ?mulh, ?mulhn, ?and, ?or, ?xor, ?andn, ?shl, ?shr, ?sar, ?rol, ?min, ?max, ?minn, ?maxn,
    ?shadd1, ?shadd2, ?shadd3, ?bfx, ?bfxn, List.forall_mem_nil _⟩
  case min => exact slotInfo_congr_word (alu 1) (fun _ _ _ _ _ => rfl) fun _ _ => ite_toInt_le id
  case max => exact slotInfo_congr_word (alu 1) (fun _ _ _ _ _ => rfl) fun _ _ => ite_toInt_le Eq.symm
  case minn => exact slotInfo_congr_word (alu 1) (fun _ _ _ _ _ => rfl) fun _ _ => ite_toNat_le id
  case maxn => exact slotInfo_congr_word (alu 1) (fun _ _ _ _ _ => rfl) fun _ _ => ite_toNat_le Eq.symm
  case shadd1 => exact slotInfo_congr_word (alu 1) (fun _ _ _ _ _ => rfl) (shadd_mul 1)
  case shadd2 => exact slotInfo_congr_word (alu 1) (fun _ _ _ _ _ => rfl) (shadd_mul 2)
  case shadd3 => exact slotInfo_congr_word (alu 1) (fun _ _ _ _ _ => rfl) (shadd_mul 3)
  all_goals exact fun _ _ _ _ _ => rfl

theorem slotInfo_unary : ∀ e ∈ unaryTable, ∀ g q d a, slotInfo (e.1 g q d a) = some (alu1 e.2 g q d a) := by
  simp only [unaryTable, List.forall_mem_cons]
  exact ⟨fun _ _ _ _ => rfl, fun _ _ _ _ => rfl, fun _ _ _ _ => rfl, fun _ _ _ _ => rfl, List.forall_mem_nil _⟩

theorem slotInfo_sext (g : BitVec 4) (q : BitVec 1) (d a n : BitVec 6) : slotInfo (.sext g q d a n) =
    some (alu1 (fun a => (a.setWidth (n.toNat + 1)).signExtend 64) g q d a) :=
  congrArg (fun f => some (alu1 f g q d a)) (funext (signed_word n.toNat))

theorem slotInfo_zext (g : BitVec 4) (q : BitVec 1) (d a n : BitVec 6) : slotInfo (.zext g q d a n) =
    some (alu1 (fun a => BitVec.ofNat 64 (a.toNat % 2 ^ (n.toNat + 1))) g q d a) := rfl

theorem slotInfo_divide : ∀ e ∈ divideTable, ∀ g q d a b, slotInfo (e.1 g q d a b) = some (aluLong e.2 g q d a b) := by
  simp only [divideTable, List.forall_mem_cons]
  refine ⟨?div, ?divn, ?rem, ?remn, List.forall_mem_nil _⟩
  case div => exact slotInfo_congr_word aluLong (fun _ _ _ _ _ => rfl) divSigned_eq
  case divn => exact slotInfo_congr_word aluLong (fun _ _ _ _ _ => rfl) divUnsigned_eq
  case rem => exact slotInfo_congr_word aluLong (fun _ _ _ _ _ => rfl) remSigned_eq
  case remn => exact slotInfo_congr_word aluLong (fun _ _ _ _ _ => rfl) remUnsigned_eq

theorem slotInfo_float : ∀ e ∈ floatTable, ∀ g q d a b, slotInfo (e.1 g q d a b) = some (falu e.2.1 e.2.2 g q d a b) := by
  simp only [floatTable, List.forall_mem_cons]
  exact ⟨fun _ _ _ _ _ => rfl, fun _ _ _ _ _ => rfl, fun _ _ _ _ _ => rfl, fun _ _ _ _ _ => rfl, fun _ _ _ _ _ => rfl,
    List.forall_mem_nil _⟩

theorem slotInfo_floatUnary :
    ∀ e ∈ floatUnaryTable, ∀ g q d a, slotInfo (e.1 g q d a) = some (falu1 e.2.1 e.2.2 g q d a) := by
  simp only [floatUnaryTable, List.forall_mem_cons]
  exact ⟨fun _ _ _ _ => rfl, fun _ _ _ _ => rfl, fun _ _ _ _ => rfl, fun _ _ _ _ => rfl, List.forall_mem_nil _⟩

/-- What a float compare answers of an order, absent where a NaN leaves the operands unordered (R119). -/
def orderAnswer (f : Int → Bool) (unordered : Bool) (c : Option Int) : Bool := c.elim unordered f

theorem orderAnswer_eq {f : Int → Bool} {unordered : Bool} {h : Option Int → Bool} (hnone : h none = unordered)
    (hsome : ∀ c, h (some c) = f c) : h = orderAnswer f unordered := funext fun c => c.casesOn hnone hsome

theorem orderAnswer_operands (f : Int → Bool) (unordered : Bool) (x y : Nat) :
    orderAnswer f unordered (if (decodeF fmtF32 x).isNan || (decodeF fmtF32 y).isNan then none
      else some (cmpV (decodeF fmtF32 x) (decodeF fmtF32 y))) = floatOrder f unordered x y :=
  apply_ite (orderAnswer f unordered) ..

theorem slotInfo_floatCompare : ∀ e ∈ floatCompareTable, ∀ g q p a b,
    slotInfo (e.1 g q p a b) = some (fcmp (orderAnswer e.2.1 e.2.2) g q p a b) := by
  simp only [floatCompareTable, List.forall_mem_cons]
  refine ⟨?equal, ?less, ?lessEqual, ?unordered, List.forall_mem_nil _⟩ <;>
    exact slotInfo_congr fcmp (fun _ _ _ _ _ => rfl) (orderAnswer_eq rfl fun _ => rfl)

/-- The word of a class 1 instruction of three registers: its class, its fields and its operation's number (R39, R103). -/
theorem pack_threeReg (n : Nat) (g : BitVec 4) (q : BitVec 1) (d a b : BitVec 6) :
    pack (2 ^ 28 + n * 2 ^ 18) [(g.toNat, 24), (q.toNat, 23), (d.toNat, 12), (a.toNat, 6), (b.toNat, 0)] =
      BitVec.ofNat 32 (2 ^ 28 + g.toNat * 2 ^ 24 + q.toNat * 2 ^ 23 + n * 2 ^ 18 + d.toNat * 2 ^ 12 + a.toNat * 2 ^ 6 +
        b.toNat) := by
  have hsum : 2 ^ 28 + n * 2 ^ 18 + g.toNat * 2 ^ 24 + q.toNat * 2 ^ 23 + d.toNat * 2 ^ 12 + a.toNat * 2 ^ 6 + b.toNat * 2 ^ 0 =
      2 ^ 28 + g.toNat * 2 ^ 24 + q.toNat * 2 ^ 23 + n * 2 ^ 18 + d.toNat * 2 ^ 12 + a.toNat * 2 ^ 6 + b.toNat := by omega
  exact congrArg (BitVec.ofNat 32) hsum

theorem encode_divide (g : BitVec 4) (q : BitVec 1) (d a b : BitVec 6) :
    ∀ e ∈ ([(5, .div), (6, .divn), (7, .rem), (8, .remn)] : List (Nat × TwoReg)), encode (e.2 g q d a b) =
      some (BitVec.ofNat 32 (2 ^ 28 + g.toNat * 2 ^ 24 + q.toNat * 2 ^ 23 + e.1 * 2 ^ 18 +
        d.toNat * 2 ^ 12 + a.toNat * 2 ^ 6 + b.toNat)) := by
  simp only [List.forall_mem_cons]
  refine ⟨?div, ?divn, ?rem, ?remn, List.forall_mem_nil _⟩
  case div => exact congrArg some (pack_threeReg 5 g q d a b)
  case divn => exact congrArg some (pack_threeReg 6 g q d a b)
  case rem => exact congrArg some (pack_threeReg 7 g q d a b)
  case remn => exact congrArg some (pack_threeReg 8 g q d a b)

/-! ### The obligations -/

/-- Settles O1: every instruction has its table's shape with the result of its rule; the sign extension and the wrapped quotient
are the word operations' own. -/
theorem integerResults : Obligations.IntegerResults := by
  unfold Obligations.IntegerResults
  refine ⟨?two, fun s x g q d a b hq => ⟨?one, ?sext, ?zext, ?bfi⟩, fun s x g q d a b hq => ⟨?divide, ?words⟩⟩
  case two => exact fun s x g q d a b e he hI hq => did_scalarOp hI hq (slotInfo_integer e he g q d a b)
  case one => exact fun e he hI => did_scalarOp hI hq (slotInfo_unary e he g q d a)
  case sext => exact fun hI => did_scalarOp hI hq (slotInfo_sext g q d a b)
  case zext =>
    intro hI
    rw [← toNat_ofNat_mod]
    exact did_scalarOp hI hq (slotInfo_zext g q d a b)
  case bfi => exact fun hI => did_scalarOp hI hq rfl
  case divide => exact fun e he hI => did_scalarLong hI hq (slotInfo_divide e he g q d a b)
  case words => exact encode_divide g q d a b

/-- Settles O3: every instruction has its shape with the rounded result and flags; a compare answers of the order or its
absence. -/
theorem floatResults : Obligations.FloatResults := by
  unfold Obligations.FloatResults
  refine fun s x g q d a b hq => ⟨?two, ?one, ?fma, ?div, ?sqrt, ?fromInt, ?toInt, ?compare⟩
  case two => exact fun e he hI => did_scalarOp hI hq (slotInfo_float e he g q d a b)
  case one => exact fun e he hI => did_scalarOp hI hq (slotInfo_floatUnary e he g q d a)
  case fma => exact fun hI => did_scalarOp hI hq rfl
  case div => exact fun hI => did_scalarLong hI hq rfl
  case sqrt => exact fun hI => did_scalarLong hI hq rfl
  case fromInt => exact fun c hI => did_scalarOp hI hq rfl
  case toInt => exact fun c hI => did_scalarOp hI hq rfl
  case compare =>
    intro e he hI
    rw [← orderAnswer_operands]
    exact did_scalarOp hI hq (slotInfo_floatCompare e he g q d a b)

end Sys2Proof.Machine.ScalarResults

/-! What the vector instructions beyond the elementwise ones do once they issue (R81, R130, R132–R143, R146–R148). -/

namespace Sys2Proof.Machine.VectorResults

/-! ### Lists of elements by their index -/

theorem length_map_upTo {α : Type} (f : Nat → α) (n : Nat) : ((upTo n).map f).length = n := by
  rw [List.length_map, upTo, List.length_range]

theorem nth_eq_getElem {α : Type} (l : List α) (i : Nat) (d : α) (h : i < l.length) : nth l i d = l[i] := by
  induction l generalizing i with
  | nil => exact absurd h (Nat.not_lt_zero i)
  | cons a t ih => cases i with
    | zero => rfl
    | succ i => exact ih i (Nat.lt_of_succ_lt_succ h)

theorem nth_map_upTo {α : Type} (f : Nat → α) {n i : Nat} (d : α) (h : i < n) : nth ((upTo n).map f) i d = f i := by
  rw [nth_eq_getElem _ _ _ (by rwa [length_map_upTo]), List.getElem_map]
  exact congrArg f (List.getElem_range _)

theorem map_upTo_congr {α : Type} {f g : Nat → α} {n : Nat} (h : ∀ i, i < n → f i = g i) : (upTo n).map f = (upTo n).map g :=
  List.map_congr_left fun i hi => h i (List.mem_range.mp hi)

theorem replicate_eq_map_upTo {α : Type} (n : Nat) (c : α) : List.replicate n c = (upTo n).map fun _ => c := by
  rw [List.map_const', upTo, List.length_range]

theorem zipIdx_map_upTo {α : Type} (f : Nat → α) (n : Nat) : ((upTo n).map f).zipIdx = (upTo n).map fun i => (f i, i) := by
  refine List.ext_getElem (by rw [List.length_zipIdx, length_map_upTo, length_map_upTo]) fun i _ _ => ?_
  simp only [upTo, List.getElem_zipIdx, List.getElem_map, List.getElem_range, Nat.zero_add]

theorem zip_cons_map_upTo {α β : Type} (f : Nat → α) (g : Nat → β) (c : β) (n : Nat) :
    ((upTo n).map f).zip (c :: (upTo n).map g) = (upTo n).map fun i => (f i, if i = 0 then c else g (i - 1)) := by
  have hlen : (((upTo n).map f).zip (c :: (upTo n).map g)).length = n := by
    rw [List.length_zip, List.length_cons, length_map_upTo, length_map_upTo]
    omega
  refine List.ext_getElem (hlen.trans (length_map_upTo ..).symm) fun i _ _ => ?_
  cases i <;> simp [upTo]

/-- The elements after the first, and then the first of another list. -/
theorem drop_append_take_map_upTo {α : Type} (f g : Nat → α) (n : Nat) :
    ((upTo n).map f).drop 1 ++ ((upTo n).map g).take 1 = (upTo n).map fun i => if i + 1 < n then f (i + 1) else g 0 := by
  cases n with
  | zero => rfl
  | succ n =>
    have hlast : (upTo (n + 1)).map (fun i => if i + 1 < n + 1 then f (i + 1) else g 0) =
        (upTo n).map (fun i => f (i + 1)) ++ [g 0] := by
      rw [upTo, List.range_succ, List.map_append, ← upTo, map_upTo_congr fun i hi => if_pos (Nat.succ_lt_succ hi)]
      simp
    rw [hlast, upTo, List.range_succ_eq_map]
    simp [upTo]

/-- The elements at even positions. -/
theorem filter_even_map_upTo {α : Type} (f : Nat → α) (m : Nat) :
    ((upTo (2 * m)).map fun i => (f i, i)).filter (fun z => z.2 % 2 = 0) = (upTo m).map fun i => (f (2 * i), 2 * i) := by
  induction m with
  | zero => rfl
  | succ m ih =>
    have hsplit : upTo (2 * (m + 1)) = upTo (2 * m) ++ [2 * m, 2 * m + 1] := by
      simp [upTo, Nat.mul_succ, List.range_succ]
    rw [hsplit, List.map_append, List.filter_append, ih, upTo, upTo, List.range_succ, List.map_append]
    simp

/-- A list of `m` elements and then another's. -/
theorem append_map_upTo {α : Type} (f g : Nat → α) (m : Nat) :
    (upTo m).map f ++ (upTo m).map g = (upTo (2 * m)).map fun i => if i < m then f i else g (i - m) := by
  rw [Nat.two_mul, upTo, upTo, List.range_add, List.map_append, List.map_map, ← upTo,
    map_upTo_congr (n := m) fun i hi => if_pos hi]
  refine congrArg ((upTo m).map f ++ ·) (List.map_congr_left fun i _ => ?_)
  rw [Function.comp, if_neg (Nat.not_lt.mpr (Nat.le_add_right m i)), Nat.add_sub_cancel_left]

/-- Two lists packed: the low parts of the elements at even positions of one, and then of the other. -/
theorem pack_map_upTo {f g : Nat → Nat} {e m n : Nat} (hn : 2 * m = n) (hf : ∀ i, f i % 2 ^ e = f i)
    (hg : ∀ i, g i % 2 ^ e = g i) :
    let half := fun (l : List Nat) => (l.zipIdx.filter (fun z => z.2 % 2 = 0)).map (fun z => (⟨z.1 % 2 ^ e, 0⟩ : FRes))
    half ((upTo n).map f) ++ half ((upTo n).map g) =
      (upTo n).map fun i => ⟨if i < m then f (2 * i) else g (2 * (i - m)), 0⟩ := by
  subst hn
  dsimp only
  rw [zipIdx_map_upTo, zipIdx_map_upTo, filter_even_map_upTo, filter_even_map_upTo, List.map_map, List.map_map,
    append_map_upTo]
  refine map_upTo_congr fun i _ => ?_
  dsimp only [Function.comp]
  rw [hf, hg, apply_ite (FRes.mk · 0)]

/-- `m` elements from the one at `o` on. -/
theorem take_drop_map_upTo {α : Type} (f : Nat → α) {o m n : Nat} (h : o + m ≤ n) :
    (((upTo n).map f).drop o).take m = (upTo m).map fun i => f (o + i) := by
  have hlen : ((((upTo n).map f).drop o).take m).length = m := by
    rw [List.length_take, List.length_drop, length_map_upTo]
    omega
  refine List.ext_getElem (hlen.trans (length_map_upTo ..).symm) fun i _ _ => ?_
  simp only [upTo, List.getElem_take, List.getElem_drop, List.getElem_map, List.getElem_range]

/-- The elements of one list that the other selects. -/
theorem filter_zip_map_upTo {α : Type} (f : Nat → α) (p : Nat → Bool) (n : Nat) :
    ((((upTo n).map f).zip ((upTo n).map p)).filter (·.2)).map (·.1) = ((upTo n).filter p).map f := by
  rw [List.zip_map', List.filter_map, List.map_map]
  rfl

theorem countIf_map {α β : Type} (p : β → Bool) (f : α → β) (l : List α) : countIf p (l.map f) = countIf (fun a => p (f a)) l := by
  induction l with
  | nil => rfl
  | cons a t ih => rw [List.map_cons, countIf, countIf, ih]

/-- Elements rearranged by index: position `i` takes the element of index `k i`. -/
theorem map_nth_map_upTo (f k : Nat → Nat) {m n : Nat} (hk : ∀ i, i < m → k i < n) :
    (upTo m).map (fun i => (⟨nth ((upTo n).map f) (k i) 0, 0⟩ : FRes)) = (upTo m).map fun i => ⟨f (k i), 0⟩ :=
  map_upTo_congr fun i hi => congrArg (FRes.mk · 0) (nth_map_upTo f 0 (hk i hi))

/-! ### Element widths and counts (R42, R124) -/

/-- An element is as wide as its type. -/
theorem vx_bits_t (v : VX) : v.t.bits = v.e := by
  cases h : v.ty <;> simp [VX.t, VX.e, h, VTy.bits]

theorem typeOf_bits {table t : Nat} {ty : VTy} (h : typeOf table t = some ty) :
    ty.bits = 4 ∨ ty.bits = 8 ∨ ty.bits = 16 ∨ ty.bits = 32 := by
  unfold typeOf at h
  split at h
  · split at h <;> cases h <;> decide
  · split at h
    · split at h <;> cases h <;> decide
    · cases h

/-- Elements come in pairs. -/
theorem vx_twice_half_n (e : Ext) (t : BitVec 3) : 2 * ((vx e t).n / 2) = (vx e t).n := by
  have he : (vx e t).e = 4 ∨ (vx e t).e = 8 ∨ (vx e t).e = 16 ∨ (vx e t).e = 32 := by
    unfold VX.e
    cases h : (vx e t).ty with
    | none => exact .inr (.inl rfl)
    | some ty => exact typeOf_bits h
  have hw : (vx e t).w = 1024 ∨ (vx e t).w = 512 ∨ (vx e t).w = 256 := by
    dsimp only [vx]
    split
    · exact .inl rfl
    · split
      · exact .inr (.inl rfl)
      · exact .inr (.inr rfl)
  unfold VX.n
  rcases he with he | he | he | he <;> rcases hw with hw | hw | hw <;> rw [he, hw]

theorem vElem_mod (s : State) (x : Nat) (v : VX) (r i : Nat) : vElem s x v r i % 2 ^ v.e = vElem s x v r i := Nat.mod_mod _ _

/-! ### What an instruction of each shape does -/

section
variable {s : State} {x : Nat} {i : Instr} {g : BitVec 4} {q : BitVec 1} {t : BitVec 3} {d a b : BitVec 5}

/-- An operation on the elements of va and vb as wholes, that names its registers to the bundle itself. -/
theorem did_vecWhole_reads {set : VTy → Bool} {lat : Nat} {useB : Bool} {f : VTy → List Nat → List Nat → List FRes} {o : Op}
    {h : Nat → FRes} (reads : List Reg) (hI : Issues s x i) (hq : Quiet s) (hi : slotInfo i = some o)
    (ho : o (latchExt s) = { vecWhole set lat useB f g q t d a b (latchExt s) with reads := reads })
    (hf : let v := vx (latchExt s) t
      f v.t (vElems s x v (a.toNat + v.a5)) (if useB then vElems s x v (b.toNat + v.b5) else []) = (upTo v.n).map h) :
    let v := vx (latchExt s) t
    Did s x i (vecDeed s x g q v (d.toNat + v.d5) lat v.e 0 ((upTo v.n).map h)) := by
  obtain ⟨cls, _, hc, _⟩ := hI.2
  refine did_vec hI hq hc hi (by rw [ho]; rfl) (by rw [ho]; rfl) ?_
  dsimp only
  rw [srcElems_map, srcElems_map]
  exact hf

/-- An operation on the elements of va and vb as wholes. -/
theorem did_vecWhole {set : VTy → Bool} {lat : Nat} {useB : Bool} {f : VTy → List Nat → List Nat → List FRes} {h : Nat → FRes}
    (hI : Issues s x i) (hq : Quiet s) (hi : slotInfo i = some (vecWhole set lat useB f g q t d a b))
    (hf : let v := vx (latchExt s) t
      f v.t (vElems s x v (a.toNat + v.a5)) (if useB then vElems s x v (b.toNat + v.b5) else []) = (upTo v.n).map h) :
    let v := vx (latchExt s) t
    Did s x i (vecDeed s x g q v (d.toNat + v.d5) lat v.e 0 ((upTo v.n).map h)) :=
  did_vecWhole_reads _ hI hq hi rfl hf

/-- A compare into lane predicates. -/
theorem did_vecCmp {set : VTy → Bool} {f : VTy → Nat → Nat → Bool} (hI : Issues s x i) (hq : Quiet s)
    (ho : slotInfo i = some (vecCmp set true f g q t d a b)) :
    let v := vx (latchExt s) t
    Did s x i (lanesDeed s x g q v d.toNat ((upTo v.n).map fun i =>
      f v.t (vElem s x v (a.toNat + v.a5) i) (vElem s x v (b.toNat + v.b5) i))) := by
  obtain ⟨cls, _, hc, _⟩ := hI.2
  refine did_lanes hI hq hc ho rfl rfl ?_
  dsimp only
  rw [srcElems_map, if_pos rfl, srcElems_map, List.zip_map', List.map_map]
  rfl

/-- Lane-predicate logic. -/
theorem did_qLogic {f : QWord → QWord → QWord} {m n : BitVec 4} (hI : Issues s x i) (hq : Quiet s)
    (ho : slotInfo i = some (qLogic f g q t d m n)) :
    let v := vx (latchExt s) t
    Did s x i {
      sq := q = 1
      outs := [{ reg := .q (d.toNat / 2), val := (f (readQ (issuer s x) m.toNat) (readQ (issuer s x) n.toNat)).toNat, lat := 1,
                 mask := (placeQ (readQ (issuer s x) g.toNat) v.lo (max 8 v.e) 0
                   (List.replicate (v.w / max 8 v.e) true)).1 }] } := by
  obtain ⟨cls, _, hc, _⟩ := hI.2
  exact did_out hI hq hc ho rfl rfl rfl

/-- A result in the low part of the width, whose elements are given in another way. -/
theorem did_low {v : VX} {r lat e n : Nat} {o : Op} {l l' : List FRes} (hI : Issues s x i) (hq : Quiet s) (ho : slotInfo i = some o)
    (hrun : (o (latchExt s)).run (portAt s x (o (latchExt s))) s = .go { outs := (lowDeed s x g q v r lat e n l).outs })
    (hsq : (o (latchExt s)).squash = decide (q = 1)) (h : l = l') : Did s x i (lowDeed s x g q v r lat e n l') := by
  subst h
  obtain ⟨cls, _, hc, _⟩ := hI.2
  exact did_out hI hq hc ho hrun hsq rfl

/-- A conversion between types of the widths its form relates. -/
theorem did_vecCvt {sat : Bool} {rel : Nat → Nat → Bool} {c : BitVec 4} {src : VTy} (hI : Issues s x i) (hq : Quiet s)
    (ho : slotInfo i = some (vecCvt sat rel g q t d a c)) (hsrc : typeOf (c.toNat / 8) (c.toNat % 8) = some src) :
    let v := vx (latchExt s) t
    let n := v.w / max src.bits v.e
    Did s x i (lowDeed s x g q v (d.toNat + v.d5) 4 v.e n ((upTo n).map fun i =>
      convert sat src v.t (elem src.bits ((readV (issuer s x) (a.toNat + v.a5)).toNat / 2 ^ v.lo) i))) := by
  intro v n
  have hwider : (if src.bits < v.e then v.e else src.bits) = max src.bits v.e := by
    rw [Nat.max_def]; split <;> split <;> omega
  refine did_low (l := (srcElems (readV (issuer s x) (a.toNat + v.a5)) v.lo src.bits n).map (convert sat src v.t))
    hI hq ho ?_ rfl ?_
  · show (vecCvt sat rel g q t d a c (latchExt s)).run _ s = _
    simp only [vecCvt, vecSlot, hsrc, Option.getD_some]
    simp only [v] at hwider
    rw [hwider]
    rfl
  · rw [srcElems_map, List.map_map]
    rfl

/-- A scale operation. -/
theorem did_vecScale {set : VTy → Bool} {es ed : VTy → Nat} {f : VTy → Nat → FVal × FVal → FRes} {j : BitVec 2}
    (hI : Issues s x i) (hq : Quiet s) (ho : slotInfo i = some (vecScale set es ed f g q t d a j)) :
    let v := vx (latchExt s) t
    let n := v.w / 32
    Did s x i (lowDeed s x g q v (d.toNat + v.d5) 6 (ed v.t) n ((upTo n).map fun i =>
      f v.t (elem (es v.t) ((readV (issuer s x) (a.toNat + v.a5)).toNat / 2 ^ v.lo) i)
        (scales (issuer s x) (a.toNat + v.a5 == 63) j.toNat (8 * v.g + i)))) := by
  refine did_low hI hq ho rfl rfl ?_
  rw [srcElems_map, zipIdx_map_upTo, List.map_map]
  rfl

end

/-! ### Each instruction has its shape -/

section
variable (g : BitVec 4) (q : BitVec 1) (t : BitVec 3) (d a b : BitVec 5)

theorem slotInfo_vectorCompare : ∀ e ∈ vectorCompareTable,
    slotInfo (e.1 g q t d a b) = some (vecCmp setIFF8 true (vcond e.2.1 e.2.2) g q t d a b) := by
  simp only [vectorCompareTable, List.forall_mem_cons]
  exact ⟨rfl, rfl, rfl, rfl, List.forall_mem_nil _⟩

theorem slotInfo_laneLogic (m n : BitVec 4) : ∀ e ∈ laneLogicTable,
    slotInfo (e.1 g q t d m n) = some (qLogic e.2 g q t d m n) := by
  simp only [laneLogicTable, List.forall_mem_cons]
  exact ⟨rfl, rfl, rfl, List.forall_mem_nil _⟩

theorem slotInfo_convert (c : BitVec 4) : ∀ e ∈ convertTable, ∃ rel,
    slotInfo (e.1 g q t d a c) = some (vecCvt e.2 rel g q t d a c) := by
  simp only [convertTable, List.forall_mem_cons]
  exact ⟨⟨_, rfl⟩, ⟨_, rfl⟩, ⟨_, rfl⟩, ⟨_, rfl⟩, List.forall_mem_nil _⟩

theorem slotInfo_scale (j : BitVec 2) : ∀ e ∈ scaleTable, ∃ set,
    slotInfo (e.1 g q t d a j) = some (vecScale set e.2.1 e.2.2.1 e.2.2.2 g q t d a j) := by
  simp only [scaleTable, List.forall_mem_cons]
  exact ⟨⟨_, rfl⟩, ⟨_, rfl⟩, ⟨_, rfl⟩, List.forall_mem_nil _⟩

/-- A reduction gives each place its result of the whole list. -/
theorem slotInfo_reduce : ∀ e ∈ reduceTable, ∃ set f,
    slotInfo (e.1 g q t d a) = some (vecWhole set e.2.1 false f g q t d a 0) ∧
    ∀ ty l, f ty l [] = (upTo l.length).map (e.2.2 ty l) := by
  simp only [reduceTable, List.forall_mem_cons]
  exact ⟨⟨_, _, rfl, fun _ _ => replicate_eq_map_upTo ..⟩, ⟨_, _, rfl, fun _ _ => replicate_eq_map_upTo ..⟩,
    ⟨_, _, rfl, fun _ _ => replicate_eq_map_upTo ..⟩, ⟨_, _, rfl, fun _ _ => replicate_eq_map_upTo ..⟩,
    ⟨_, _, rfl, fun _ _ => rfl⟩, List.forall_mem_nil _⟩

end

/-! ### The obligations -/

/-- Settles O5: an element of the result is that of the elements at its place. -/
theorem vectorWideResults : Obligations.VectorWideResults := by
  unfold Obligations.VectorWideResults
  refine fun s x g q t d a b hq => ⟨fun hI => did_vec hI hq rfl rfl rfl rfl ?dot, fun hI => did_vec hI hq rfl rfl rfl rfl ?wide⟩
  case dot => rfl
  case wide =>
    dsimp only
    rw [srcElems_map, srcElems_map, List.zip_map', List.map_map]
    rfl

/-- Settles O6: a compare or a selection takes its elements in pairs by index; a broadcast gives every place one value. -/
theorem laneAndMoveResults : Obligations.LaneAndMoveResults := by
  unfold Obligations.LaneAndMoveResults
  refine ⟨fun s x g q t d a b m n hq => ⟨?compare, ?classes, ?logic, ?copy⟩,
    fun s x g q t d a b m hq => ⟨?select, ?broadcast, ?iota, ?insert, ?scalar, ?count⟩⟩
  case compare => exact fun e he hI => did_vecCmp hI hq (slotInfo_vectorCompare g q t d a b e he)
  case classes =>
    intro hI
    refine did_lanes hI hq rfl rfl rfl rfl ?_
    dsimp only
    rw [srcElems_map, if_neg Bool.false_ne_true, List.map_map, List.zip_map', List.map_map]
    rfl
  case logic => exact fun e he hI => did_qLogic hI hq (slotInfo_laneLogic g q t d m n e he)
  case copy => exact fun hI => did_qLogic (f := fun a _ => a) (n := 14) hI hq rfl
  case select =>
    intro hI
    refine did_vec hI hq rfl rfl rfl rfl ?_
    dsimp only
    rw [srcElems_map, srcElems_map, List.zip_map', zipIdx_map_upTo, List.map_map]
    rfl
  case broadcast => exact fun hI => did_vec hI hq rfl rfl rfl rfl (replicate_eq_map_upTo ..)
  case iota => exact fun hI => did_vec hI hq rfl rfl rfl rfl rfl
  case insert => exact fun hI => did_vec hI hq rfl rfl rfl rfl rfl
  case scalar => exact fun hI => did_out hI hq rfl rfl rfl rfl rfl
  case count =>
    intro hI
    refine did_vec hI hq rfl rfl rfl rfl ((replicate_eq_map_upTo ..).trans ?_)
    rw [selects, countIf_map]
    rfl

/-- Settles O7: every instruction has its table's shape, with the element function that the table gives. -/
theorem convertAndScaleResults : Obligations.ConvertAndScaleResults := by
  unfold Obligations.ConvertAndScaleResults
  refine fun s x g q t d a hq => ⟨fun e he c src hsrc hI => ?convert, fun e he j hI => ?scale⟩
  case convert =>
    obtain ⟨rel, hi⟩ := slotInfo_convert g q t d a c e he
    exact did_vecCvt hI hq hi hsrc
  case scale =>
    obtain ⟨set, hi⟩ := slotInfo_scale g q t d a j e he
    exact did_vecScale hI hq hi

/-- Settles O8: a permutation rearranges elements by index; packing rests on their even number, unpacking on a half fitting twice;
a reduction gives each place its result of the whole list. -/
theorem vectorAcrossResults : Obligations.VectorAcrossResults := by
  unfold Obligations.VectorAcrossResults
  intro s x g q t d a b hq v A B
  refine ⟨fun hI => did_vecWhole hI hq rfl ?perm, fun hI => did_vecWhole_reads _ hI hq rfl rfl ?rotate,
    fun hI => did_vecWhole hI hq rfl ?slide, fun hI => did_vecWhole hI hq rfl ?transpose,
    fun hI => did_vecWhole hI hq rfl ?pack, fun h hI => did_vec hI hq rfl rfl rfl rfl ?unpack, ?reductions,
    fun hI => did_vecWhole_reads _ hI hq rfl rfl ?rank,
    fun hI => did_vec hI hq rfl rfl rfl rfl ?lookup, fun m hI => did_vec hI hq rfl rfl rfl rfl ?expand⟩
  case perm =>
    dsimp only [vElems]
    rw [length_map_upTo, if_pos rfl, List.map_map]
    exact map_nth_map_upTo A (fun i => B i % v.n) fun i hi => Nat.mod_lt _ (Nat.zero_lt_of_lt hi)
  case rotate =>
    dsimp only [vElems]
    rw [length_map_upTo]
    exact map_nth_map_upTo A (fun i => (i + v.n - (b.toNat + v.b5) % v.n) % v.n) fun i hi => Nat.mod_lt _ (Nat.zero_lt_of_lt hi)
  case slide =>
    dsimp only [vElems]
    rw [if_pos rfl, drop_append_take_map_upTo, List.map_map]
    rfl
  case transpose =>
    dsimp only [vElems]
    rw [if_pos rfl, zip_cons_map_upTo, zipIdx_map_upTo, List.map_map]
    refine map_upTo_congr fun i _ => congrArg (FRes.mk · 0) ?_
    cases i <;> rfl
  case pack =>
    dsimp only [vElems]
    rw [if_pos rfl, vx_bits_t]
    exact pack_map_upTo (vx_twice_half_n _ t) (vElem_mod s x v _) (vElem_mod s x v _)
  case unpack =>
    have hfits : h.toNat * (v.n / 2) + v.n / 2 ≤ v.n := by
      have hh : h.toNat * (v.n / 2) ≤ 1 * (v.n / 2) := Nat.mul_le_mul_right _ (by omega)
      omega
    rw [srcElems_map, take_drop_map_upTo _ hfits, List.map_map]
    rfl
  case reductions =>
    intro e he hI
    obtain ⟨set, f, hi, hf⟩ := slotInfo_reduce g q t d a e he
    have hlen : (vElems s x v (a.toNat + v.a5)).length = v.n := length_map_upTo ..
    exact did_vecWhole hI hq hi ((hf ..).trans (by rw [hlen]; rfl))
  case rank =>
    dsimp only [vElems]
    rw [length_map_upTo]
    refine map_upTo_congr fun r _ => ?_
    generalize (if r < b.toNat + v.b5 + 1 then rankIndex v.t ((upTo v.n).map A) r else none) = o
    cases o <;> rfl
  case lookup =>
    rw [srcElems_map, List.map_map]
    rfl
  case expand =>
    rw [srcElems_map]
    rfl

/-- Settles O9: the elements kept are those of the selected indices, and each bit of the word is that of an element and its index. -/
theorem compressAndControlWord : Obligations.CompressAndControlWord := by
  unfold Obligations.CompressAndControlWord
  intro s x g q t d a b m hq v kept lanes p
  refine ⟨fun hI => ?compress, fun hI hroom => did_out hI hq rfl rfl ?word rfl rfl⟩
  case compress =>
    have hkept : (((srcElems (readV (issuer s x) (d.toNat + v.d5)) v.lo v.e v.n).zip
        (selects (readQ (issuer s x) m.toNat) v.lo v.e v.n)).filter (·.2)).map (·.1) = kept := by
      rw [srcElems_map]
      exact filter_zip_map_upTo ..
    refine did_plain hI hq rfl rfl ?_ rfl (Nat.zero_le _) (fun _ h => absurd h List.not_mem_nil)
      (List.forall_mem_cons.mpr ⟨rfl, List.forall_mem_cons.mpr ⟨rfl, List.forall_mem_nil _⟩⟩) rfl
    dsimp only [p]
    rw [← hkept]
    rfl
  case word =>
    refine (if_neg (Nat.not_le.mpr hroom)).trans ?_
    rw [srcElems_map, zipIdx_map_upTo, List.map_map]
    rfl

end Sys2Proof.Machine.VectorResults

/-! What fences and the hatch instructions do once they issue: the holds they leave before the next bundle, and what becomes of
the hatch (R213–R222). -/

namespace Sys2Proof.Machine.OrderingRules

/-! ### Holds -/

/-- A hold before the next bundle changes its context alone. -/
theorem acts_addHold (p : Port) (hold : Hold) :
    Acts (fun s => addHold s p hold) p.core p.ctx (fun k => { k with hold := k.hold ++ [hold] }) id :=
  acts_ctx p.core p.ctx fun k => { k with hold := k.hold ++ [hold] }

/-- A hold leaves alone where the stream stands and what the array does. -/
theorem keeps_hold (pc : BitVec 57) (hold : Hold) : Keeps pc fun k => { k with hold := k.hold ++ [hold] } where
  pc _ := rfl
  branch _ := rfl
  loops _ _ h := h
  status _ := rfl
  part _ := rfl
  mopen _ := rfl
  mq _ := rfl
  giving _ := rfl

/-! ### The grant at the slice (R218) -/

/-- A hatch whose OWNER the acquisition of a port's context has written, its request gone from the queue. -/
def ownerGiven (p : Port) (k : Ctx) (pl : Place) (owner : Nat) (u : State) : State :=
  writeHatch (sliceFetchAll { u with hatchq := u.hatchq.filter fun r => r ≠ (pl.pa, p.core, p.ctx, k.part) } k.task pl.pa 128)
    (.ctx p.core p.ctx) k.task pl.pa { readHatch u pl.pa with owner := owner }

/-- An exclusive grant writes the tag and gives the core its holding of the bound region (R215). -/
theorem hacqTake_exclusive {p : Port} {k : Ctx} {pl : Place} {u : State} {b : Binding}
    (hb : bindingOf (ownerGiven p k pl (2 ^ 63 + k.cr % 2 ^ 48) u) k.part pl.pa (readHatch u pl.pa) = some b) :
    hacqTake p k pl true u =
      addHold (modCore (ownerGiven p k pl (2 ^ 63 + k.cr % 2 ^ 48) u) p.core fun c => { c with holdings := c.holdings ++
        [{ hatch := pl.pa, lo := b.pa, len := b.len, va := pl.va, tag := k.cr, sig := 0 }] }) p (.hatch pl true) := by
  unfold ownerGiven at hb ⊢
  simp only [hacqTake, if_true, hb]

/-- A shared grant counts one reader more and records it with the task, whatever the hatch is bound to. -/
theorem hacqTake_shared (p : Port) (k : Ctx) (pl : Place) (u : State) :
    hacqTake p k pl false u =
      addHold (modTask (ownerGiven p k pl ((readHatch u pl.pa).owner + 2 ^ 48) u) k.task fun t =>
        { t with shared := t.shared ++ [(p.core, pl.pa)] }) p (.hatch pl false) := by
  unfold ownerGiven
  simp only [hacqTake, Bool.false_eq_true, if_false]
  split <;> rfl

/-- Of a port, an acquisition meets only its core and context. -/
theorem hacqTake_congr {p p' : Port} (hcore : p.core = p'.core) (hctx : p.ctx = p'.ctx) : hacqTake p = hacqTake p' := by
  funext k pl excl u
  simp only [hacqTake, addHold, hcore, hctx]

theorem hacqTake_portAt (s : State) (x : Nat) (i : SlotInfo) : hacqTake (portAt s x i) = hacqTake (here s x) :=
  hacqTake_congr rfl rfl

/-! ### What the hatch slots answer -/

section
variable {s : State} {p : Port} {e : Ext} {g h : BitVec 4} {a d : BitVec 6} {pl : Place}

/-- HBIND answers its status, where no write-back of the hatch's line would be held at its slice. -/
theorem hbind_run (hpl : hatchPlace s p e h a = .ok pl)
    (hclean : lineDirty s p.core (pl.pa / 128) = false ∨ replicasOf s pl.pa = []) {v : Int}
    (hrun : (hbindRun s p.core p.ctx pl).2 = .inl v) :
    (opHbind g h a d e).run p s =
      .go { works := [statusWork d v], act := statusAct p fun u => hbindRun u p.core p.ctx pl, turn := true } := by
  have hfree : (lineDirty s p.core (pl.pa / 128) && decide (replicasOf s pl.pa ≠ [])) = false := by
    obtain hline | hrep := hclean
    · rw [hline, Bool.false_and]
    · rw [hrep, decide_eq_false (not_not_intro rfl), Bool.and_false]
  cases hres : hbindRun s p.core p.ctx pl with
  | mk u r =>
    obtain rfl : r = .inl v := by rw [hres] at hrun; exact hrun
    simp only [opHbind, hatchSlot, memSlot, hpl, hfree, hres, Bool.false_eq_true, if_false]

/-- An acquisition of a bound hatch that may be granted now is granted; an exclusive one needs a free holding. -/
theorem hacq_run {excl : Bool} {k : Ctx} (hk : p.reads s = k) (hpl : hatchPlace s p e h a = .ok pl) (hrel : releasing k = false)
    (hbound : (bindingOf s k.part pl.pa (readHatch s pl.pa)).isSome = true)
    (hother : ¬ ((readHatch s pl.pa).excl = true ∧ (readHatch s pl.pa).tag = k.cr))
    (hroom : excl = true → (getCore s p.core).holdings.length < 16) (hready : hacqReady s p.core p.ctx pl excl = true) :
    (hacqOp excl g h a d e).run p s = .go {
      works := [statusWork d (readHatch s pl.pa).seq], act := hacqTake p k pl excl, turn := true } := by
  subst hk
  have hfree : ¬ (excl = true ∧ 16 ≤ (getCore s p.core).holdings.length) := fun hfull =>
    Nat.not_le.mpr (hroom hfull.1) hfull.2
  simp only [hacqOp, hatchSlot, memSlot, hpl, hrel, Option.isNone_eq_false_iff.mpr hbound, hother, hfree, hready, or_self,
    Bool.false_eq_true, if_false, if_true]

/-- A release of what the context holds is put in hand, its kind fixed. -/
theorem hrel_run (hpl : hatchPlace s p e h a = .ok pl)
    (hbound : (bindingOf s (p.reads s).part pl.pa (readHatch s pl.pa)).isSome = true)
    (hheld : (readHatch s pl.pa).excl = true ∧ (readHatch s pl.pa).tag = (p.reads s).cr ∨
      (readHatch s pl.pa).excl = false ∧ 0 < (readHatch s pl.pa).shared) :
    (opHrel g h a d e).run p s =
      .go { works := [{ reg := sReg d.toNat, kind := .unit (.hrel pl (readHatch s pl.pa).excl) }] } := by
  simp only [opHrel, hatchSlot, memSlot, hpl, Option.isNone_eq_false_iff.mpr hbound, Bool.false_eq_true, if_false]
  obtain ⟨hexcl, htag⟩ | ⟨hexcl, hcount⟩ := hheld
  · simp only [hexcl, htag, if_true]
  · simp only [hexcl, hcount, Bool.false_eq_true, if_false, if_true]

end

/-! ### The instructions -/

section
variable {s : State} {x : Nat} {g h : BitVec 4} {a d : BitVec 6} {pl : Place}

/-- A fence holds back the bundles after it. -/
theorem did_fence {i : Instr} {kind : Nat} {sc : BitVec 2} (hI : Issues s x i) (hq : Quiet s) (hc : classOf i = some 11)
    (hf : slotInfo i = some (fenceOp kind g sc)) :
    Did s x i { ctx := fun k => { k with hold := k.hold ++ [.fence kind (scopeOf sc.toNat)] } } :=
  did_ctx hI hq hc hf rfl (acts_addHold (here s x) _) (keeps_hold _ _) keepsCore_id rfl
    (fun _ ho => absurd ho List.not_mem_nil) rfl rfl (.inl rfl)

/-- HBIND binds or unbinds as it issues. -/
theorem goes_hbind (hI : Issues s x (.hbind g h a d)) (hpl : hatchPlace s (here s x) (latchExt s) h a = .ok pl)
    (hclean : lineDirty s s.focus (pl.pa / 128) = false ∨ replicasOf s pl.pa = []) {v : Int}
    (hrun : (hbindRun s s.focus x pl).2 = .inl v) :
    Goes s x (.hbind g h a d) {
      works := [statusWork d v], act := statusAct (here s x) fun u => hbindRun u s.focus x pl } :=
  goes_turn hI rfl rfl (hbind_run (p := portAt s x (opHbind g h a d (latchExt s))) (g := g) hpl hclean hrun) (.inl rfl)

/-- An acquisition that may be granted takes its hatch as it issues. -/
theorem goes_hacq {i : Instr} {excl : Bool} (hI : Issues s x i) (hc : classOf i = some 11)
    (hf : slotInfo i = some (hacqOp excl g h a d)) (hpl : hatchPlace s (here s x) (latchExt s) h a = .ok pl)
    (hrel : releasing (issuer s x) = false)
    (hbound : (bindingOf s (issuer s x).part pl.pa (readHatch s pl.pa)).isSome = true)
    (hother : ¬ ((readHatch s pl.pa).excl = true ∧ (readHatch s pl.pa).tag = (issuer s x).cr))
    (hroom : excl = true → (getCore s s.focus).holdings.length < 16) (hready : hacqReady s s.focus x pl excl = true) :
    Goes s x i { works := [statusWork d (readHatch s pl.pa).seq], act := hacqTake (here s x) (issuer s x) pl excl } := by
  rw [← hacqTake_portAt s x (hacqOp excl g h a d (latchExt s))]
  have hrun := hacq_run (g := g) (d := d) (LevelAndBank.portAt_reads s x (hacqOp excl g h a d (latchExt s))) hpl hrel hbound
    hother hroom hready
  exact goes_turn hI hc hf hrun (.inl rfl)

/-- HREL is put in hand for what its context holds. -/
theorem did_hrel (hI : Issues s x (.hrel g h a d)) (hq : Quiet s) (hpl : hatchPlace s (here s x) (latchExt s) h a = .ok pl)
    (hbound : (bindingOf s (issuer s x).part pl.pa (readHatch s pl.pa)).isSome = true)
    (hheld : (readHatch s pl.pa).excl = true ∧ (readHatch s pl.pa).tag = (issuer s x).cr ∨
      (readHatch s pl.pa).excl = false ∧ 0 < (readHatch s pl.pa).shared) :
    Did s x (.hrel g h a d) (asks (sReg d.toNat) (.hrel pl (readHatch s pl.pa).excl)) :=
  did_work hI hq rfl rfl (hrel_run hpl hbound hheld) rfl rfl fun _ ho => absurd ho List.not_mem_nil

end

/-- Settles O27: each instruction by its own rule; the two grants by what the acquisition does at the slice. -/
theorem fencesAndHatches : Obligations.FencesAndHatches := by
  unfold Obligations.FencesAndHatches
  intro s x g h sc a d pl hq k hh fence placed granted
  refine ⟨fun hI => did_fence hI hq rfl rfl, fun hI => did_fence hI hq rfl rfl, fun hI => did_fence hI hq rfl rfl,
    fun hI hpl hclean _ hrun => goes_hbind hI hpl hclean hrun, ?exclusive, fun _ _ hb => hacqTake_exclusive hb,
    ?shared, hacqTake_shared (here s x) k pl, fun hI hpl hbound hheld => did_hrel hI hq hpl hbound hheld⟩
  case exclusive =>
    exact fun hI hpl hrel hbound hroom hother hready =>
      goes_hacq hI rfl rfl hpl hrel hbound hother (fun _ => hroom) hready
  case shared =>
    exact fun hI hpl hrel hbound hother hready =>
      goes_hacq hI rfl rfl hpl hrel hbound hother (fun hexcl => absurd hexcl Bool.false_ne_true) hready

end Sys2Proof.Machine.OrderingRules

/-! What barriers, hardware queues, timelines and tags do once they issue: the work put in hand, and the holds that a wait
leaves once its condition holds (R233, R244–R246, R299–R304). -/

namespace Sys2Proof.Machine.SyncRules

open OrderingRules

/-! ### What the slots answer -/

section
variable {s : State} {p : Port} {e : Ext} {g : BitVec 4} {a b d : BitVec 6}

/-- An arrival at a barrier that the region owns is put in hand. -/
theorem bara_run (hb : (barrierOf s p.core (p.reads s) ((readS (p.reads s) a.toNat).toNat % 32)).isSome = true) :
    (opBara g d a e).run p s = .go {
      works := [{ reg := sReg d.toNat, kind := .unit (.bara ((readS (p.reads s) a.toNat).toNat % 32)) }] } := by
  obtain ⟨r, hr⟩ := Option.isSome_iff_exists.mp hb
  simp only [opBara, unitSlot, memSlot, hr]

/-- A wait at a barrier whose phase has moved leaves the acquire at the barrier's scope. -/
theorem barw_run {r : Barrier} (hr : barrierOf s p.core (p.reads s) ((readS (p.reads s) a.toNat).toNat % 32) = some r)
    (hphase : r.phase ≠ (readS (p.reads s) b.toNat).toNat % 2 ^ 32) :
    (opBarw g a b e).run p s = .go {
      act := fun u => addHold u p (.fence 1 (barrierScope ((readS (p.reads s) a.toNat).toNat % 32))) } := by
  simp only [opBarw, unitSlot, memSlot, hr, hphase, if_true, ne_eq, not_false_eq_true]

/-- A push to a queue in scope is put in hand with its value. -/
theorem qpush_run (hq : (queueOf s p.core (p.reads s) ((readS (p.reads s) a.toNat).toNat % 64)).isSome = true) :
    (opQpush g d a b e).run p s = .go {
      works := [{ reg := sReg d.toNat, kind := .unit (.qpush ((readS (p.reads s) a.toNat).toNat % 64)
        (readS (p.reads s) b.toNat).toNat) }] } := by
  obtain ⟨q, hq⟩ := Option.isSome_iff_exists.mp hq
  simp only [opQpush, unitSlot, memSlot, hq]

/-- A pop of a value queue that holds an entry, with no other's pop before it, takes the entry as it issues. -/
theorem qpop_run {q : Queue} (hq : queueOf s p.core (p.reads s) ((readS (p.reads s) a.toNat).toNat % 64) = some q)
    (htask : q.task = false) (hitems : q.items ≠ []) (hfirst : popAhead s q p.core p.ctx = false) :
    (opQpop g d a e).run p s = .go {
      works := [{ reg := sReg d.toNat, kind := .unit (.qpop ((readS (p.reads s) a.toNat).toNat % 64) none) }]
      act := popIssue p ((readS (p.reads s) a.toNat).toNat % 64), turn := true } := by
  simp only [opQpop, unitSlot, memSlot, hq, htask, hitems, hfirst, ne_eq, not_false_eq_true, and_self, if_true,
    Bool.false_eq_true, if_false]

/-- A wait for a number that the timeline has reached leaves the acquire of the timeline. -/
theorem tlwait_run {n : BitVec 3}
    (hreached : (readS (p.reads s) b.toNat).toNat ≤ (getEngine s (engineOf s p n.toNat)).counter) :
    (opTlwait g n b e).run p s = .go {
      act := fun u => addHold u p (.tlwait n.toNat (readS (p.reads s) b.toNat).toNat) } := by
  simp only [opTlwait, unitSlot, memSlot, hreached, if_true]
  rfl

/-- A wait for tags that are all set passes. -/
theorem tagw_run (hset : (getCore s p.core).tags &&& readS (p.reads s) a.toNat = readS (p.reads s) a.toNat) :
    (opTagw g a e).run p s = .go {} := by
  simp only [opTagw, unitSlot, memSlot, hset, if_true]

end

/-! ### The instructions -/

section
variable {s : State} {x : Nat} {g : BitVec 4} {a b d : BitVec 6} {e : BitVec 3}

/-- Of a port, a pop meets only where its bundle stands. -/
theorem popIssue_portAt (s : State) (x : Nat) (i : SlotInfo) : popIssue (portAt s x i) = popIssue (here s x) := rfl

/-- A slot that answers with a hold alone holds back the bundles after it. -/
theorem did_hold {i : Instr} {cls : Nat} {f : Op} {hold : Hold} (hI : Issues s x i) (hq : Quiet s) (hc : classOf i = some cls)
    (hf : slotInfo i = some f)
    (hrun : (f (latchExt s)).run (portAt s x (f (latchExt s))) s =
      .go { act := fun u => addHold u (portAt s x (f (latchExt s))) hold })
    (hsq : (f (latchExt s)).squash = false) :
    Did s x i { ctx := fun k => { k with hold := k.hold ++ [hold] } } :=
  did_ctx hI hq hc hf hrun (acts_addHold _ hold) (keeps_hold _ hold) keepsCore_id hsq
    (fun _ ho => absurd ho List.not_mem_nil) rfl rfl (.inl rfl)

/-- A slot that asks a unit for one thing puts it in hand. -/
theorem did_ask {i : Instr} {cls : Nat} {f : Op} {r : Reg} {u : UnitOp} (hI : Issues s x i) (hq : Quiet s)
    (hc : classOf i = some cls) (hf : slotInfo i = some f)
    (hrun : (f (latchExt s)).run (portAt s x (f (latchExt s))) s = .go { works := [{ reg := r, kind := .unit u }] })
    (hsq : (f (latchExt s)).squash = false) : Did s x i (asks r u) :=
  did_work hI hq hc hf hrun hsq rfl fun _ ho => absurd ho List.not_mem_nil

/-- A slot that changes the tags of its core and does nothing else. -/
theorem did_tags {i : Instr} {cls : Nat} {f : Op} {tags : BitVec 64 → BitVec 64} (hI : Issues s x i) (hq : Quiet s)
    (hc : classOf i = some cls) (hf : slotInfo i = some f)
    (hrun : (f (latchExt s)).run (portAt s x (f (latchExt s))) s =
      .go { act := fun u => modCore u s.focus fun c => { c with tags := tags c.tags } })
    (hsq : (f (latchExt s)).squash = false) : Did s x i { core := fun c => { c with tags := tags c.tags } } :=
  did_ctx hI hq hc hf hrun (acts_core s.focus x _) (keeps_id _) (by constructor <;> intros <;> rfl) hsq
    (fun _ ho => absurd ho List.not_mem_nil) rfl rfl (.inl rfl)

/-- A wait for tags that are all set passes and does nothing. -/
theorem did_tagw (hI : Issues s x (.tagw g a)) (hq : Quiet s)
    (hset : (getCore s s.focus).tags &&& operand s x a = operand s x a) : Did s x (.tagw g a) {} :=
  did_plain hI hq rfl rfl (tagw_run hset) rfl (Nat.zero_le _) (fun _ hw => absurd hw List.not_mem_nil)
    (fun _ ho => absurd ho List.not_mem_nil) rfl

/-- A pop of a queue that serves it takes the entry as it issues. -/
theorem goes_qpop (hI : Issues s x (.qpop g d a)) {q : Queue}
    (hq : queueOf s s.focus (issuer s x) ((operand s x a).toNat % 64) = some q)
    (htask : q.task = false) (hitems : q.items ≠ []) (hfirst : popAhead s q s.focus x = false) :
    Goes s x (.qpop g d a) {
      works := [{ reg := sReg d.toNat, kind := .unit (.qpop ((operand s x a).toNat % 64) none) }]
      act := popIssue (here s x) ((operand s x a).toNat % 64) } := by
  rw [← popIssue_portAt s x (opQpop g d a (latchExt s))]
  exact goes_turn hI rfl rfl (qpop_run (p := portAt s x (opQpop g d a (latchExt s))) hq htask hitems hfirst) (.inl rfl)

end

/-- Settles O28: each instruction by its own rule; the waits by the hold they leave. -/
theorem barriersQueuesAndTags : Obligations.BarriersQueuesAndTags := by
  unfold Obligations.BarriersQueuesAndTags
  intro s x g a b d e hq k va vb tags
  refine ⟨?arrive, ?barrier, ?push, ?pop, ?timeline, ?counter, ?status, ?statusCleared, ?tags, ?clear, ?set⟩
  case arrive => exact fun hI hb => did_ask hI hq rfl rfl (bara_run hb) rfl
  case barrier => exact fun hI ⟨r, hr, hphase⟩ => did_hold hI hq rfl rfl (barw_run hr hphase) rfl
  case push => exact fun hI hqueue => did_ask hI hq rfl rfl (qpush_run hqueue) rfl
  case pop => exact fun hI ⟨q, hqueue, htask, hitems, hfirst⟩ => goes_qpop hI hqueue htask hitems hfirst
  case timeline => exact fun hI hreached => did_hold hI hq rfl rfl (tlwait_run hreached) rfl
  case counter => exact fun hI => did_ask hI hq rfl rfl rfl rfl
  case status => exact fun hI => did_ask hI hq rfl rfl rfl rfl
  case statusCleared => exact fun hI => did_ask hI hq rfl rfl rfl rfl
  case tags => exact fun hI hset => did_tagw hI hq hset
  case clear => exact fun hI => did_tags (tags := fun t => t &&& ~~~ operand s x a) hI hq rfl rfl rfl rfl
  case set => exact fun hI => did_tags (tags := fun t => t ||| operand s x a) hI hq rfl rfl rfl rfl

end Sys2Proof.Machine.SyncRules

/-! What engines do: CPY and MVX accepted in an engine context, and the start and end of its first operation, with the bytes
that it writes (R231–R252). -/

namespace Sys2Proof.Machine.EngineRules

/-! ### Engine contexts -/

theorem getEngine_modEngine (s : State) (key j : Nat) (f : Engine → Engine) :
    getEngine (modEngine s key f) j = if key = j then f (getEngine s key) else getEngine s j := mget_mset ..
@[simp] theorem getEngine_modEngine_same (s : State) (key : Nat) (f : Engine → Engine) :
    getEngine (modEngine s key f) key = f (getEngine s key) := by simp [getEngine_modEngine]
theorem getEngine_modEngine_other (s : State) {key j : Nat} (f : Engine → Engine) (h : j ≠ key) :
    getEngine (modEngine s key f) j = getEngine s j := by simp [getEngine_modEngine, Ne.symm h]
@[simp] theorem getEngine_modCore (s : State) (c j : Nat) (f : Core → Core) : getEngine (modCore s c f) j = getEngine s j := rfl

/-- Changes of one engine context in turn are one change of it. -/
theorem modEngine_modEngine (s : State) (key : Nat) (f g : Engine → Engine) :
    modEngine (modEngine s key f) key g = modEngine s key (g ∘ f) := by
  show ({ s with engines := _ } : State) = { s with engines := _ }
  congr 1
  rw [getEngine_modEngine_same]
  exact mset_mset ..

/-! ### Acceptance (R232–R235, R244) -/

/-- The operation that an engine context takes in: with the next number, and the handles it names. -/
def taken (p : Port) (mvx : Bool) (e : Nat) (ws : List Nat) (hs : List (Option Nat)) (u : State) : EngineOp :=
  let k := getCtx u p.core p.ctx
  { n := (getEngine u (engineKey (islandOf p.core) k.part e)).accepted + 1, core := p.core, ctx := p.ctx, part := k.part
    task := k.task, mvx := mvx, desc := ws, handles := hs.map fun h => match h with | some n => readH k n | none => {}
    started := false }

/-- An acceptance without a tag changes its engine context alone. -/
theorem acceptOp_none (p : Port) (mvx : Bool) (e : Nat) (ws : List Nat) (hs : List (Option Nat)) (u : State) :
    acceptOp p mvx e ws hs none u =
      modEngine u (engineKey (islandOf p.core) (getCtx u p.core p.ctx).part e) fun g =>
        { g with accepted := g.accepted + 1, ops := g.ops ++ [taken p mvx e ws hs u] } := rfl

/-- An acceptance with a tag clears and counts it besides. -/
theorem acceptOp_some (p : Port) (mvx : Bool) (e : Nat) (ws : List Nat) (hs : List (Option Nat)) (t : Nat) (u : State) :
    acceptOp p mvx e ws hs (some t) u =
      modCore (acceptOp p mvx e ws hs none u) p.core fun c => { c with
        tags := c.tags &&& ~~~ BitVec.twoPow 64 t, counts := mset c.counts t (mget c.counts t 0 + 1) } := rfl

/-- With or without a tag, the operation stands last in its engine context. -/
theorem getEngine_acceptOp (p : Port) (mvx : Bool) (e : Nat) (ws : List Nat) (hs : List (Option Nat)) (tag : Option Nat)
    (u : State) (j : Nat) :
    getEngine (acceptOp p mvx e ws hs tag u) j =
      getEngine (modEngine u (engineKey (islandOf p.core) (getCtx u p.core p.ctx).part e) fun g =>
        { g with accepted := g.accepted + 1, ops := g.ops ++ [taken p mvx e ws hs u] }) j := by
  cases tag with
  | none => rw [acceptOp_none]
  | some t => rw [acceptOp_some, getEngine_modCore, acceptOp_none]

/-- An acceptance changes engine contexts and cores alone. -/
theorem acceptOp_frame (p : Port) (mvx : Bool) (e : Nat) (ws : List Nat) (hs : List (Option Nat)) (tag : Option Nat)
    (u : State) : acceptOp p mvx e ws hs tag u = { u with
      engines := (acceptOp p mvx e ws hs tag u).engines, cores := (acceptOp p mvx e ws hs tag u).cores } := by
  cases tag <;> rfl

section
variable {s : State} {x : Nat} {g : BitVec 4} {d a : BitVec 6}

/-- A descriptor that can be read: its three cycles of reading are past, no earlier write to it is queued, and it lies in the
carve. -/
structure DescReady (s : State) (p : Port) (at_ n : Nat) : Prop where
  cycles : 3 ≤ (p.reads s).preStall
  free : guardMeets s p.core at_ n false = false
  inside : inCarve s (p.reads s) 0 at_ n = true

/-- A CPY in rule, its engine context with room, is accepted with the next number. -/
theorem cpy_run {p : Port} {ext : Ext} {at_ : Nat} (hat : (readS (p.reads s) a.toNat).toNat / 256 * 256 = at_)
    (hready : DescReady s p at_ 256) {ws : List Nat} (hws : elems 64 (readNat (getCore s p.core).scratch at_ 256) 32 = ws)
    {m : CpyDesc} (hm : readCpy ws = some m)
    (hcheck : checkCpy s (p.reads s) m (trapOf codeDescriptor (at_ % 2 ^ 57) m.ectx) = .ok) {key : Nat}
    (hkey : engineKey (islandOf p.core) (p.reads s).part m.ectx = key) (hroom : (getEngine s key).ops.length < 32) :
    (opCpy g d a ext).run p s = .go {
      works := [{ reg := sReg d.toNat, kind := .timed (BitVec.ofNat 1024 ((getEngine s key).accepted + 1)) 2 }]
      act := acceptOp p false m.ectx ws [m.src.handle, m.dst.handle, m.pub.map Prod.fst] m.tag, turn := true } := by
  subst hat hkey
  simp only [opCpy, engineSlot, memSlot, descWaits, spadLoad, Nat.not_lt.mpr hready.cycles, hready.free, hready.inside, hws, hm,
    hcheck, Nat.not_le.mpr hroom, Nat.reduceDiv, nextOp, not_true_eq_false, Bool.false_eq_true, if_false]

/-- An MVX in rule, its engine context with room, is accepted with the next number. -/
theorem mvx_run {p : Port} {ext : Ext} {at_ : Nat} (hat : (readS (p.reads s) a.toNat).toNat / 128 * 128 = at_)
    (hready : DescReady s p at_ 128) {ws : List Nat} (hws : elems 64 (readNat (getCore s p.core).scratch at_ 128) 16 = ws)
    {m : MvxDesc} (hm : readMvx ws (fun h => (readH (p.reads s) h).va.toNat) = some m)
    (hcheck : checkMvx s (p.reads s) m (trapOf codeDescriptor (at_ % 2 ^ 57) m.ectx) = .ok) {key : Nat}
    (hkey : engineKey (islandOf p.core) (p.reads s).part m.ectx = key) (hroom : (getEngine s key).ops.length < 32) :
    (opMvx g d a ext).run p s = .go {
      works := [{ reg := sReg d.toNat, kind := .timed (BitVec.ofNat 1024 ((getEngine s key).accepted + 1)) 2 }]
      act := acceptOp p true m.ectx ws [m.x.handle, m.y.handle, m.pub.map Prod.fst, some m.wh] none, turn := true } := by
  subst hat hkey
  simp only [opMvx, engineSlot, memSlot, descWaits, spadLoad, Nat.not_lt.mpr hready.cycles, hready.free, hready.inside, hws, hm,
    hcheck, Nat.not_le.mpr hroom, Nat.reduceDiv, nextOp, not_true_eq_false, Bool.false_eq_true, if_false, if_true]

end

/-- Settles O29: the two instructions by what their slot answers; acceptance by what it leaves of each part. -/
theorem engineOperations : Obligations.EngineOperations := by
  unfold Obligations.EngineOperations
  refine ⟨fun s x g d a => ?_, fun p mvx e ws hs tag u => ?_⟩
  · intro k at_ ws ready key number through
    refine ⟨fun hI ⟨hcycles, hfree, hin⟩ m hm hcheck hroom => ?_, fun hI ⟨hcycles, hfree, hin⟩ m hm hcheck hroom => ?_⟩
    · exact goes_turn hI rfl rfl (cpy_run (p := portAt s x (opCpy g d a (latchExt s))) rfl ⟨hcycles, hfree, hin⟩ rfl hm hcheck
        rfl hroom) (.inl rfl)
    · exact goes_turn hI rfl rfl (mvx_run (p := portAt s x (opMvx g d a (latchExt s))) rfl ⟨hcycles, hfree, hin⟩ rfl hm hcheck
        rfl hroom) (.inl rfl)
  · intro k key v
    refine ⟨?_, fun j hj => ?_, fun t ht => ?_, fun hnone c => ?_, acceptOp_frame ..⟩
    · exact (getEngine_acceptOp ..).trans (getEngine_modEngine_same ..)
    · exact (getEngine_acceptOp ..).trans (getEngine_modEngine_other _ _ hj)
    · subst ht
      exact getCore_modCore_same ..
    · subst hnone
      rfl

/-! ### The bits of bytes -/

theorem bitOf_eq_testBit (x i : Nat) : bitOf x i = x.testBit i := Nat.testBit_eq_decide_div_mod_eq.symm

/-- Bit `i` of byte `j` of a number is a bit of the number. -/
theorem getLsbD_byte (v j : Nat) {i : Nat} (hi : i < 8) : (BitVec.ofNat 8 (v / 256 ^ j)).getLsbD i = bitOf v (8 * j + i) := by
  have hbase : 256 ^ j = 2 ^ (8 * j) := by rw [Nat.pow_mul]
  rw [bitOf_eq_testBit, BitVec.getLsbD_ofNat, hbase, Nat.testBit_div_two_pow, decide_eq_true hi, Bool.true_and, Nat.add_comm]

/-- A byte whose nibble `i` has been replaced has the new bits there and the old ones elsewhere. -/
theorem getLsbD_nibble {o i k : Nat} (v : Nat) (ho : o < 256) (hi : i < 2) (hk : k < 8) :
    (BitVec.ofNat 8 (o - elem 4 o i * 16 ^ i + v % 16 * 16 ^ i)).getLsbD k =
      if 4 * i ≤ k ∧ k < 4 * i + 4 then bitOf v (k - 4 * i) else bitOf o k := by
  have hlow : ∀ y j, (y % 16).testBit j = (decide (j < 4) && y.testBit j) := fun y j => Nat.testBit_mod_two_pow y 4 j
  have hhigh : ∀ y j, (y / 16).testBit j = y.testBit (j + 4) := fun y j => Nat.testBit_div_two_pow (n := 4) y j
  have hjoin : ∀ y z j, (16 * y + z % 16).testBit j = if j < 4 then (z % 16).testBit j else y.testBit (j - 4) := fun y z j =>
    Nat.testBit_two_pow_mul_add (i := 4) y (Nat.mod_lt z (by decide)) j
  rw [BitVec.getLsbD_ofNat, decide_eq_true hk, Bool.true_and, bitOf_eq_testBit, bitOf_eq_testBit]
  obtain rfl | rfl : i = 0 ∨ i = 1 := by omega
  · have hnew : o - elem 4 o 0 * 16 ^ 0 + v % 16 * 16 ^ 0 = 16 * (o / 16) + v % 16 := by simp only [elem]; omega
    rw [hnew, hjoin, hlow, hhigh]
    by_cases h4 : k < 4
    · simp [h4]
    · rw [if_neg h4, if_neg (by omega), Nat.sub_add_cancel (by omega)]
  · have hnew : o - elem 4 o 1 * 16 ^ 1 + v % 16 * 16 ^ 1 = 16 * (v % 16) + o % 16 := by simp only [elem]; omega
    rw [hnew, hjoin, hlow, hlow]
    by_cases h4 : k < 4
    · rw [if_pos h4, if_neg (by omega), decide_eq_true h4, Bool.true_and]
    · rw [if_neg h4, if_pos (by omega), decide_eq_true (by omega), Bool.true_and]

/-! ### Bytes to be written -/

/-- Byte `b` of a memory once the bytes to be written have been. -/
def byteOver (w : Pending) (m : Map Byte) (b : Nat) : Byte := match mfind w b with | some e => e.1 | none => mget m b 0

theorem byteOver_of_mfind_some {w : Pending} {b : Nat} {e : Byte × Bool} (h : mfind w b = some e) (m : Map Byte) :
    byteOver w m b = e.1 := by unfold byteOver; rw [h]
theorem byteOver_of_mfind_none {w : Pending} {b : Nat} (h : mfind w b = none) (m : Map Byte) : byteOver w m b = mget m b 0 := by
  unfold byteOver; rw [h]

theorem byteOver_mset (w : Pending) (m : Map Byte) (a b : Nat) (x : Byte) (bad : Bool) :
    byteOver (mset w a (x, bad)) m b = if a = b then x else byteOver w m b := by
  unfold byteOver
  rw [mfind_mset]
  by_cases h : a = b
  · rw [if_pos h, if_pos h]
  · rw [if_neg h, if_neg h]

/-- A run of bytes entered from its `k`-th on. -/
theorem byteOver_bytes (w : Pending) (m : Map Byte) (a v n k b : Nat) (bad : Bool) :
    byteOver (((natBytes v n).zipIdx k).foldl (fun w e => mset w (a + e.2) (e.1, bad)) w) m b =
      if a + k ≤ b ∧ b < a + k + n then BitVec.ofNat 8 (v / 256 ^ (b - (a + k))) else byteOver w m b := by
  induction n generalizing v k w with
  | zero => rw [if_neg (by omega)]; rfl
  | succ n ih =>
    rw [natBytes, List.zipIdx_cons, List.foldl_cons, ih, byteOver_mset]
    by_cases hfirst : a + k = b
    · subst hfirst
      rw [if_neg (by omega), if_pos rfl, if_pos (by omega), Nat.sub_self, Nat.pow_zero, Nat.div_one]
    · rw [if_neg hfirst]
      by_cases hin : a + k ≤ b ∧ b < a + k + (n + 1)
      · have hdist : b - (a + k) = (b - (a + (k + 1))) + 1 := by omega
        rw [if_pos (by omega), if_pos hin, hdist, Nat.div_div_eq_div_mul, Nat.pow_succ, Nat.mul_comm (256 ^ _)]
      · rw [if_neg (by omega), if_neg hin]

theorem mrising_bytes {w : Pending} (hw : mrising w 0 = true) (a v n k : Nat) (bad : Bool) :
    mrising (((natBytes v n).zipIdx k).foldl (fun w e => mset w (a + e.2) (e.1, bad)) w) 0 = true := by
  generalize (natBytes v n).zipIdx k = l
  induction l generalizing w with
  | nil => exact hw
  | cons e t ih => exact ih (mrising_mset w (a + e.2) 0 _ hw (Nat.zero_le _))

/-! ### Pieces and the bytes that lay them -/

/-- The bytes to be written lay these pieces over a memory, each address once. -/
structure Lays (m : Map Byte) (w : Pending) (ps : List (Nat × Nat × Nat)) : Prop where
  rising : mrising w 0 = true
  bits : ∀ n, (byteOver w m (n / 8)).getLsbD (n % 8) = laid ps n (memBit m n)

theorem laid_append (ps qs : List (Nat × Nat × Nat)) (n : Nat) (old : Bool) : laid (ps ++ qs) n old = laid qs n (laid ps n old) :=
  List.foldl_append

theorem lays_nil (m : Map Byte) : Lays m [] [] := ⟨rfl, fun _ => rfl⟩

/-- A run of bytes is a piece laid over what stood there. -/
theorem lays_putBytes {m : Map Byte} {w : Pending} {ps : List (Nat × Nat × Nat)} (h : Lays m w ps) (a v n : Nat) (bad : Bool) :
    Lays m (putBytes a v n bad w) (ps ++ [(8 * a, 8 * n, v)]) := by
  refine ⟨mrising_bytes h.rising a v n 0 bad, fun q => ?_⟩
  have hrun := byteOver_bytes w m a v n 0 (q / 8) bad
  unfold putBytes
  rw [hrun, laid_append, ← h.bits]
  show _ = if 8 * a ≤ q ∧ q < 8 * a + 8 * n then bitOf v (q - 8 * a) else _
  by_cases hin : 8 * a ≤ q ∧ q < 8 * a + 8 * n
  · have hbit : 8 * (q / 8 - (a + 0)) + q % 8 = q - 8 * a := by omega
    rw [if_pos hin, if_pos (by omega), getLsbD_byte _ _ (Nat.mod_lt q (by decide)), hbit]
  · rw [if_neg hin, if_neg (by omega)]

/-- The width of an element in the units of a side: a nibble, or whole bytes. -/
def WidthOk (r : Reach) (t : VTy) : Prop := if r.nib then t.bits = 4 else 8 * (t.bits / 8) = t.bits

/-- One element is a piece laid over what stood there. -/
theorem lays_putElem {m : Map Byte} {w : Pending} {ps : List (Nat × Nat × Nat)} (h : Lays m w ps) {r : Reach} {t : VTy}
    (hwidth : WidthOk r t) (u : Int) (v : Nat) (bad : Bool) :
    Lays m (putElem m r t u v bad w) (ps ++ [(bitAt r u, t.bits, v)]) := by
  unfold WidthOk at hwidth
  cases hnib : r.nib with
  | false =>
    rw [hnib, if_neg Bool.false_ne_true] at hwidth
    have hrun := lays_putBytes h (r.byte u) v (t.bits / 8) bad
    have hat : bitAt r u = 8 * r.byte u := by simp [bitAt, hnib]
    rw [hwidth] at hrun
    rw [hat]
    simpa [putElem, hnib, putBytes] using hrun
  | true =>
    rw [hnib, if_pos rfl] at hwidth
    generalize hi : (u % 2).toNat = i
    have hi2 : i < 2 := by omega
    have hat : bitAt r u = 8 * r.byte u + 4 * i := by simp [bitAt, hnib, hi]
    have hput : ∃ f, putElem m r t u v bad w = mset w (r.byte u) (BitVec.ofNat 8
        ((byteOver w m (r.byte u)).toNat - elem 4 (byteOver w m (r.byte u)).toNat i * 16 ^ i + v % 16 * 16 ^ i), f) := by
      unfold putElem byteOver
      rw [if_pos hnib, hi]
      cases mfind w (r.byte u) <;> exact ⟨_, rfl⟩
    obtain ⟨f, hput⟩ := hput
    rw [hput, hat, hwidth]
    refine ⟨mrising_mset w _ 0 _ h.rising (Nat.zero_le _), fun q => ?_⟩
    rw [byteOver_mset, laid_append, ← h.bits]
    show _ = if 8 * r.byte u + 4 * i ≤ q ∧ q < 8 * r.byte u + 4 * i + 4 then bitOf v (q - (8 * r.byte u + 4 * i)) else _
    by_cases hbyte : r.byte u = q / 8
    · rw [if_pos hbyte, hbyte, getLsbD_nibble v (byteOver w m (q / 8)).isLt hi2 (Nat.mod_lt q (by decide))]
      by_cases hin : 4 * i ≤ q % 8 ∧ q % 8 < 4 * i + 4
      · have hbit : q % 8 - 4 * i = q - (8 * (q / 8) + 4 * i) := by omega
        rw [if_pos hin, if_pos (by omega), hbit]
      · rw [if_neg hin, if_neg (by omega), bitOf_eq_testBit, BitVec.testBit_toNat]
    · rw [if_neg hbyte, if_neg (by omega)]

/-- Steps that each lay their pieces lay them all, in their order. -/
theorem lays_foldl {α β : Type} {m : Map Byte} {bytes : β → Pending} {f : β → α → β} {g : α → List (Nat × Nat × Nat)}
    (l : List α) (hf : ∀ acc a ps, Lays m (bytes acc) ps → Lays m (bytes (f acc a)) (ps ++ g a)) (acc : β)
    (ps : List (Nat × Nat × Nat)) (h : Lays m (bytes acc) ps) : Lays m (bytes (l.foldl f acc)) (ps ++ l.flatMap g) := by
  induction l generalizing acc ps with
  | nil => simpa using h
  | cons a t ih =>
    rw [List.foldl_cons, List.flatMap_cons, ← List.append_assoc]
    exact ih (f acc a) (ps ++ g a) (hf acc a ps h)

/-! ### Maps by key -/

section
variable {β : Type}

theorem mfind_below {m : Map β} {lo b : Nat} (h : mrising m lo = true) (hb : b < lo) : mfind m b = none := by
  induction m generalizing lo with
  | nil => rfl
  | cons e t ih =>
    obtain ⟨k, x⟩ := e
    simp only [mrising, Bool.and_eq_true, decide_eq_true_eq] at h
    simp only [mfind]
    rw [if_neg (by omega)]
    exact ih h.2 (by omega)

theorem mrising_of_le {m : Map β} {lo hi : Nat} (h : mrising m lo = true) (hall : ∀ e ∈ m, hi ≤ e.1) : mrising m hi = true := by
  cases m with
  | nil => rfl
  | cons e t =>
    obtain ⟨k, x⟩ := e
    simp only [mrising, Bool.and_eq_true, decide_eq_true_eq] at h ⊢
    exact ⟨hall _ (List.mem_cons_self ..), h.2⟩

theorem mfind_filter_key (m : Map β) (q : Nat → Bool) (b : Nat) :
    mfind (m.filter fun e => q e.1) b = if q b = true then mfind m b else none := by
  induction m with
  | nil => simp [mfind]
  | cons e t ih =>
    obtain ⟨k, x⟩ := e
    by_cases hkb : k = b
    · subst hkb
      by_cases hk : q k = true <;> simp [mfind, hk, ih]
    · by_cases hk : q k = true <;> simp [mfind, hk, hkb, ih]

theorem mem_of_mfind {m : Map β} {b : Nat} {x : β} (h : mfind m b = some x) : (b, x) ∈ m := by
  induction m with
  | nil => simp [mfind] at h
  | cons e t ih =>
    obtain ⟨k, y⟩ := e
    simp only [mfind] at h
    split at h
    · subst_vars; cases h; exact List.mem_cons_self ..
    · exact List.mem_cons_of_mem _ (ih h)

end

/-! ### A line of bytes as a value and a mask -/

/-- Digit `p` of a number to which a digit has been added above its own. -/
theorem digit_add {B a x q : Nat} (p : Nat) (ha : a < B ^ q) (hx : x < B) :
    (a + x * B ^ q) / B ^ p % B = if p < q then a / B ^ p % B else if p = q then x else 0 := by
  have hB : 0 < B := Nat.zero_lt_of_lt hx
  obtain hlt | rfl | hgt := Nat.lt_trichotomy p q
  · have hsplit : x * B ^ q = B ^ p * (B * (B ^ (q - p - 1) * x)) := by
      rw [← Nat.mul_assoc, ← Nat.mul_assoc, ← Nat.pow_succ, ← Nat.pow_add, Nat.mul_comm, show p + 1 + (q - p - 1) = q by omega]
    rw [if_pos hlt, hsplit, Nat.add_mul_div_left _ _ (Nat.pow_pos hB), Nat.add_mul_mod_self_left]
  · rw [if_neg (Nat.lt_irrefl _), if_pos rfl, Nat.add_mul_div_right _ _ (Nat.pow_pos hB), Nat.div_eq_of_lt ha, Nat.zero_add,
      Nat.mod_eq_of_lt hx]
  · have hsum : a + x * B ^ q < B ^ p :=
      calc a + x * B ^ q < (x + 1) * B ^ q := by rw [Nat.add_mul, Nat.one_mul]; omega
        _ ≤ B * B ^ q := Nat.mul_le_mul_right _ hx
        _ = B ^ (q + 1) := by rw [Nat.pow_succ, Nat.mul_comm]
        _ ≤ B ^ p := Nat.pow_le_pow_right hB hgt
    rw [if_neg (by omega), if_neg (by omega), Nat.div_eq_of_lt hsum, Nat.zero_mod]

/-- A number whose digits are added by their place in a line, from those in a list of bytes. -/
def lineSum (B : Nat) (g : Byte × Bool → Nat) (a : Nat) (l : Pending) : Nat :=
  l.foldl (fun a e => a + g e.2 * B ^ (e.1 % 128)) a

/-- Where a line's bytes rise, each digit is that of the byte at its place. -/
theorem digit_lineSum {B : Nat} {g : Byte × Bool → Nat} (hg : ∀ e, g e < B) {line j a p : Nat} (l : Pending)
    (hrise : mrising l (line * 128 + j) = true) (hline : ∀ e ∈ l, e.1 / 128 = line) (ha : a < B ^ j) :
    lineSum B g a l / B ^ p % B =
      if p < j then a / B ^ p % B else match mfind l (line * 128 + p) with | some e => g e | none => 0 := by
  induction l generalizing a j with
  | nil =>
    by_cases hpj : p < j
    · rw [if_pos hpj]; rfl
    · have hB : 0 < B := Nat.zero_lt_of_lt (hg (0, false))
      rw [if_neg hpj]
      show a / B ^ p % B = 0
      rw [Nat.div_eq_of_lt (Nat.lt_of_lt_of_le ha (Nat.pow_le_pow_right hB (by omega))), Nat.zero_mod]
  | cons e t ih =>
    obtain ⟨k, x⟩ := e
    simp only [mrising, Bool.and_eq_true, decide_eq_true_eq] at hrise
    have hk : k / 128 = line := hline (k, x) (List.mem_cons_self ..)
    generalize hq : k % 128 = q
    have hkq : k = line * 128 + q := by omega
    have hB : 0 < B := Nat.zero_lt_of_lt (hg (0, false))
    have haq : a < B ^ q := Nat.lt_of_lt_of_le ha (Nat.pow_le_pow_right hB (by omega))
    have hsum : a + g x * B ^ q < B ^ (q + 1) := by
      have := Nat.mul_le_mul_right (B ^ q) (hg x)
      rw [Nat.succ_mul] at this
      rw [Nat.pow_succ']
      omega
    have hrest := ih (j := q + 1) (a := a + g x * B ^ q) (by rw [← Nat.add_assoc, ← hkq]; exact hrise.2)
      (fun e he => hline e (List.mem_cons_of_mem _ he)) hsum
    have hstep : lineSum B g a ((k, x) :: t) = lineSum B g (a + g x * B ^ q) t := by simp only [lineSum, List.foldl_cons, hq]
    rw [hstep, hrest, digit_add p haq (hg x)]
    simp only [mfind]
    obtain hlt | rfl | hgt := Nat.lt_trichotomy p q
    · by_cases hpj : p < j
      · rw [if_pos (by omega), if_pos hlt, if_pos hpj]
      · have hzero : a / B ^ p % B = 0 := by
          rw [Nat.div_eq_of_lt (Nat.lt_of_lt_of_le ha (Nat.pow_le_pow_right hB (by omega))), Nat.zero_mod]
        rw [if_pos (by omega), if_pos hlt, if_neg hpj, if_neg (by omega), mfind_below hrise.2 (by omega), hzero]
    · rw [if_pos (by omega), if_neg (by omega), if_pos rfl, if_neg (by omega), if_pos hkq]
    · rw [if_neg (by omega), if_neg (by omega), if_neg (by omega)]

/-- The value and the mask of a line are sums of its bytes' digits. -/
theorem lineOf_eq (w : Pending) (line : Nat) :
    lineOf w line = (lineSum 256 (fun e => e.1.toNat) 0 (w.filter fun e => e.1 / 128 = line),
      lineSum 2 (fun _ => 1) 0 (w.filter fun e => e.1 / 128 = line)) := by
  have hfold : ∀ (l : Pending) (a b : Nat),
      l.foldl (fun a e => (a.1 + e.2.1.toNat * 2 ^ (8 * (e.1 % 128)), a.2 + 2 ^ (e.1 % 128))) (a, b) =
        (lineSum 256 (fun e => e.1.toNat) a l, lineSum 2 (fun _ => 1) b l) := by
    intro l
    induction l with
    | nil => intro _ _; rfl
    | cons e t ih =>
      intro a b
      have hbase : 2 ^ (8 * (e.1 % 128)) = 256 ^ (e.1 % 128) := by rw [Nat.pow_mul]
      rw [List.foldl_cons, ih, hbase]
      simp only [lineSum, List.foldl_cons, Nat.one_mul]
  exact hfold _ 0 0

/-- What the digits of a line come to at a byte of the line. -/
theorem digit_line {B : Nat} {g : Byte × Bool → Nat} (hg : ∀ e, g e < B) {w : Pending} (hw : mrising w 0 = true) (b : Nat) :
    lineSum B g 0 (w.filter fun e => e.1 / 128 = b / 128) / B ^ (b % 128) % B =
      match mfind w b with | some e => g e | none => 0 := by
  have hline : ∀ e ∈ w.filter (fun e => e.1 / 128 = b / 128), e.1 / 128 = b / 128 := fun e he => by
    simpa using (List.mem_filter.mp he).2
  have hrise : mrising (w.filter fun e => e.1 / 128 = b / 128) (b / 128 * 128 + 0) = true :=
    mrising_of_le (mrising_filter w _ 0 hw) fun e he => by have := hline e he; omega
  have hfind : mfind (w.filter fun e => e.1 / 128 = b / 128) b = mfind w b := by
    have h := mfind_filter_key w (fun k => decide (k / 128 = b / 128)) b
    rw [if_pos (decide_eq_true rfl)] at h
    exact h
  rw [digit_lineSum hg _ hrise hline (Nat.pow_pos (Nat.zero_lt_of_lt (hg (0, false)))), if_neg (by omega),
    show b / 128 * 128 + b % 128 = b by omega, hfind]

/-- A line written over a memory changes the bytes to be written there, and no other. -/
theorem mget_writeLine {w : Pending} (hw : mrising w 0 = true) (m : Map Byte) (line b : Nat) :
    mget (writeMasked m (line * 128) 128 (lineOf w line).1 (lineOf w line).2) b 0 =
      if b / 128 = line then byteOver w m b else mget m b 0 := by
  rw [mget_writeMasked, lineOf_eq]
  by_cases hin : b / 128 = line
  · subst hin
    have hoff : b - b / 128 * 128 = b % 128 := by omega
    have hmask := digit_line (B := 2) (g := fun _ => 1) (fun _ => by decide) hw b
    have hval := digit_line (B := 256) (g := fun e => e.1.toNat) (fun e => e.1.isLt) hw b
    rw [if_pos rfl, hoff]
    unfold bitOf
    dsimp only
    rw [hmask]
    cases hfind : mfind w b with
    | none =>
      rw [byteOver_of_mfind_none hfind, if_neg]
      simp
    | some e =>
      rw [hfind] at hval
      rw [byteOver_of_mfind_some hfind, if_pos ⟨by omega, by omega, by simp⟩]
      apply BitVec.eq_of_toNat_eq
      rw [BitVec.toNat_ofNat]
      exact hval
  · rw [if_neg (by omega), if_neg hin]

/-- A memory over which these lines of the bytes to be written have been written. -/
def writeLines (w : Pending) (lines : List Nat) (m : Map Byte) : Map Byte :=
  lines.foldl (fun m l => writeMasked m (l * 128) 128 (lineOf w l).1 (lineOf w l).2) m

theorem mget_writeLines {w : Pending} (hw : mrising w 0 = true) (lines : List Nat) (m : Map Byte) (b : Nat) :
    mget (writeLines w lines m) b 0 = if b / 128 ∈ lines then byteOver w m b else mget m b 0 := by
  induction lines generalizing m with
  | nil => rfl
  | cons l t ih =>
    have hline := mget_writeLine hw m l b
    rw [show writeLines w (l :: t) m = writeLines w t (writeMasked m (l * 128) 128 (lineOf w l).1 (lineOf w l).2) from rfl, ih]
    generalize writeMasked m (l * 128) 128 (lineOf w l).1 (lineOf w l).2 = m' at hline ⊢
    have hover : byteOver w m' b = byteOver w m b := by
      cases hfind : mfind w b with
      | none =>
        rw [byteOver_of_mfind_none hfind] at hline
        rw [byteOver_of_mfind_none hfind, byteOver_of_mfind_none hfind, hline, ite_self]
      | some e => rw [byteOver_of_mfind_some hfind, byteOver_of_mfind_some hfind]
    rw [hover, hline]
    by_cases hl : b / 128 = l
    · rw [if_pos hl, ite_self, if_pos (List.mem_cons.mpr (.inl hl))]
    · simp only [List.mem_cons, hl, false_or, if_false]

/-- The lines of the bytes to be written hold them all. -/
theorem mget_writeAllLines {w : Pending} (hw : mrising w 0 = true) (m : Map Byte) (b : Nat) :
    mget (writeLines w (linesOf w) m) b 0 = byteOver w m b := by
  rw [mget_writeLines hw]
  by_cases hin : b / 128 ∈ linesOf w
  · rw [if_pos hin]
  · have hnone : mfind w b = none := by
      cases hfind : mfind w b with
      | none => rfl
      | some e =>
        exact absurd (List.mem_eraseDups.mpr (List.mem_map.mpr ⟨(b, e), mem_of_mfind hfind, rfl⟩)) hin
    rw [if_neg hin, byteOver_of_mfind_none hnone]

/-- The bytes to be written, written one by one. -/
theorem mget_writeBytes {w : Pending} {lo : Nat} (hw : mrising w lo = true) (m : Map Byte) (b : Nat) :
    mget (w.foldl (fun m e => writeByte m e.1 e.2.1) m) b 0 = byteOver w m b := by
  induction w generalizing m lo with
  | nil => rfl
  | cons e t ih =>
    obtain ⟨k, x⟩ := e
    simp only [mrising, Bool.and_eq_true, decide_eq_true_eq] at hw
    rw [List.foldl_cons, ih hw.2]
    by_cases hk : k = b
    · subst hk
      rw [byteOver_of_mfind_none (mfind_below hw.2 (Nat.lt_succ_self k)), mget_writeByte, if_pos rfl]
      exact (byteOver_of_mfind_some (by simp [mfind]) m).symm
    · unfold byteOver
      simp only [mfind, if_neg hk]
      cases mfind t b with
      | none => rw [mget_writeByte, if_neg hk]
      | some _ => rfl

/-! ### What accesses at a slice leave alone -/

/-- Cores that hold the same bytes outside their scratchpads. -/
structure SameBanks (k k' : Core) : Prop where
  lane : k'.lane = k.lane
  tiles : k'.tiles = k.tiles
  lines : k'.lines = k.lines

theorem sameBanks_refl (k : Core) : SameBanks k k := ⟨rfl, rfl, rfl⟩
theorem SameBanks.trans {k k' k'' : Core} (h : SameBanks k k') (h' : SameBanks k' k'') : SameBanks k k'' :=
  ⟨h'.lane.trans h.lane, h'.tiles.trans h.tiles, h'.lines.trans h.lines⟩

/-- A state whose levels, line caches, banks and engine contexts, and whose stores on their way, are another's. -/
structure Beside (s t : State) : Prop where
  chip : t.chip = s.chip
  cluster : t.cluster = s.cluster
  engines : t.engines = s.engines
  stores : t.stores = s.stores
  replicas : t.replicas = s.replicas
  scratch : ∀ c, (getCore t c).scratch = (getCore s c).scratch
  core : ∀ c, SameBanks (getCore s c) (getCore t c)

/-- The memory of LPDDR-6 and the host besides. -/
structure Unwritten (s t : State) : Prop extends Beside s t where
  mem : t.mem = s.mem

theorem Beside.trans {s t u : State} (h : Beside s t) (h' : Beside t u) : Beside s u where
  chip := h'.chip.trans h.chip
  cluster := h'.cluster.trans h.cluster
  engines := h'.engines.trans h.engines
  stores := h'.stores.trans h.stores
  replicas := h'.replicas.trans h.replicas
  scratch c := (h'.scratch c).trans (h.scratch c)
  core c := (h.core c).trans (h'.core c)

theorem Unwritten.trans {s t u : State} (h : Unwritten s t) (h' : Unwritten t u) : Unwritten s u :=
  ⟨h.toBeside.trans h'.toBeside, h'.mem.trans h.mem⟩

/-- Where the cores are the same, what stands in them is. -/
theorem beside_of_cores {s t : State} (hcores : t.cores = s.cores) (hchip : t.chip = s.chip) (hcluster : t.cluster = s.cluster)
    (hengines : t.engines = s.engines) (hstores : t.stores = s.stores) (hreplicas : t.replicas = s.replicas) : Beside s t := by
  have hcore : ∀ c, getCore t c = getCore s c := fun c => by unfold getCore; rw [hcores]
  exact ⟨hchip, hcluster, hengines, hstores, hreplicas, fun c => by rw [hcore], fun c => by rw [hcore]; exact sameBanks_refl _⟩

theorem beside_refl (s : State) : Beside s s := beside_of_cores rfl rfl rfl rfl rfl rfl
theorem unwritten_refl (s : State) : Unwritten s s := ⟨beside_refl s, rfl⟩

/-- A state that differs in its lines, its accounts, its peepholes and its faults alone. -/
theorem unwritten_of_cores {s t : State} (hcores : t.cores = s.cores) (hchip : t.chip = s.chip)
    (hcluster : t.cluster = s.cluster) (hengines : t.engines = s.engines) (hstores : t.stores = s.stores)
    (hreplicas : t.replicas = s.replicas) (hmem : t.mem = s.mem) : Unwritten s t :=
  ⟨beside_of_cores hcores hchip hcluster hengines hstores hreplicas, hmem⟩

theorem unwritten_foldl {α : Type} {f : State → α → State} (l : List α) (hf : ∀ s a, Unwritten s (f s a)) (s : State) :
    Unwritten s (l.foldl f s) := by
  induction l generalizing s with
  | nil => exact unwritten_refl s
  | cons a t ih => exact (hf s a).trans (ih (f s a))

/-! ### Lines fetched and made dirty -/

theorem unwritten_chargeLines (s : State) (task n : Nat) : Unwritten s (chargeLines s task n) := by
  unfold chargeLines
  split <;> exact unwritten_of_cores rfl rfl rfl rfl rfl rfl rfl

theorem unwritten_sliceRoom (s : State) (task line : Nat) : Unwritten s (sliceRoom s task line) :=
  unwritten_of_cores rfl rfl rfl rfl rfl rfl rfl

theorem unwritten_sliceFetch (s : State) (task line : Nat) : Unwritten s (sliceFetch s task line) := by
  unfold sliceFetch
  split
  · exact unwritten_refl s
  · exact unwritten_of_cores rfl rfl rfl rfl rfl rfl rfl

theorem unwritten_sliceDirty (s : State) (task line : Nat) : Unwritten s (sliceDirty s task line) :=
  unwritten_of_cores rfl rfl rfl rfl rfl rfl rfl

/-- An engine's reads fetch lines and change no byte. -/
theorem unwritten_engineFetch (s : State) (r : Reach) (task at_ n : Nat) (allocate : Bool) :
    Unwritten s (engineFetch s r task at_ n allocate) := by
  unfold engineFetch
  split
  · exact unwritten_refl s
  · split
    · exact unwritten_foldl _ (fun s i => unwritten_sliceFetch s task _) s
    · exact unwritten_chargeLines ..

/-! ### Triggers -/

theorem unwritten_faultNoCtx (s : State) (part region code va obj : Nat) :
    Unwritten s (faultNoCtx s part region code va obj) := by
  unfold faultNoCtx modPart
  split <;> exact unwritten_of_cores rfl rfl rfl rfl rfl rfl rfl

theorem unwritten_peeps (s : State) (peeps : Map Peep) : Unwritten s { s with peeps := peeps } :=
  unwritten_of_cores rfl rfl rfl rfl rfl rfl rfl

theorem unwritten_triggerEntry (s : State) (e va : Nat) (lines : List Nat) (host win : Bool) :
    Unwritten s (triggerEntry s e va lines host win) := by
  unfold triggerEntry
  split
  · exact unwritten_refl s
  · split
    · exact unwritten_refl s
    · split
      · exact (unwritten_peeps s _).trans (unwritten_faultNoCtx ..)
      · exact unwritten_peeps s _

theorem unwritten_triggerAll (s : State) (words lines : List Nat) (host win : Bool) :
    Unwritten s (triggerAll s words lines host win) := by
  unfold triggerAll
  refine unwritten_foldl _ (fun u e => ?_) s
  split
  · exact unwritten_triggerEntry ..
  · exact unwritten_refl u

/-! ### Stores performed -/

/-- A state that differs from another by bytes stored in memory, and by what that brings with it at the slices. -/
structure Stored (s t : State) (pa n val mask : Nat) : Prop extends Beside s t where
  mem : t.mem = writeMasked s.mem pa n val mask

theorem Stored.unwritten {s t u : State} {pa n val mask : Nat} (h : Stored s t pa n val mask) (h' : Unwritten t u) :
    Stored s u pa n val mask := ⟨h.toBeside.trans h'.toBeside, h'.mem.trans h.mem⟩

theorem Unwritten.stored {s t u : State} {pa n val mask : Nat} (h : Unwritten s t) (h' : Stored t u pa n val mask) :
    Stored s u pa n val mask := ⟨h.toBeside.trans h'.toBeside, by rw [h'.mem, h.mem]⟩

theorem unwritten_ite {s t u : State} {c : Prop} [Decidable c] (ht : Unwritten s t) (hu : Unwritten s u) :
    Unwritten s (if c then t else u) := by split <;> assumption

theorem stored_writeMasked (s : State) (pa n val mask : Nat) :
    Stored s { s with mem := writeMasked s.mem pa n val mask } pa n val mask :=
  ⟨beside_of_cores rfl rfl rfl rfl rfl rfl, rfl⟩

theorem unwritten_badLines (s : State) (lines : List Nat) : Unwritten s { s with badLines := lines } :=
  unwritten_of_cores rfl rfl rfl rfl rfl rfl rfl

theorem stored_slicePut (s : State) (task pa n val mask : Nat) : Stored s (slicePut s task pa n val mask) pa n val mask := by
  unfold slicePut
  have hroom : Unwritten s (if ¬ isLpddr pa = true then s else
      if wholeLine pa n mask = true then sliceRoom s task (pa / 128) else sliceFetch s task (pa / 128)) :=
    unwritten_ite (unwritten_refl s) (unwritten_ite (unwritten_sliceRoom ..) (unwritten_sliceFetch ..))
  refine (hroom.stored (stored_writeMasked _ pa n val mask)).unwritten ?_
  dsimp only
  generalize ({ (if ¬ isLpddr pa = true then s else
    if wholeLine pa n mask = true then sliceRoom s task (pa / 128) else sliceFetch s task (pa / 128)) with mem := _ } : State) = u
  have hdirty : Unwritten u (if isLpddr pa = true then sliceDirty u task (pa / 128) else u) :=
    unwritten_ite (unwritten_sliceDirty ..) (unwritten_refl u)
  exact unwritten_ite (hdirty.trans (unwritten_badLines _ _)) hdirty

/-- A store that nothing holds back is performed as it arrives. -/
theorem stored_storeAt {s : State} (hstores : s.stores = []) (hreplicas : s.replicas = []) (agent : Agent)
    (task pa n val mask : Nat) (bad : Bool) : Stored s (storeAt s agent task pa n val mask bad) pa n val mask := by
  have hfree : storeHeld s agent pa = false := by simp [storeHeld, replicasOf, lineBusy, hstores, hreplicas]
  unfold storeAt
  rw [hfree, if_neg Bool.false_ne_true]
  have hstored : Stored s (sliceStore s agent task pa n val mask) pa n val mask :=
    (stored_slicePut s task pa n val mask).unwritten (unwritten_triggerAll ..)
  unfold markBad
  split
  · exact hstored.unwritten (unwritten_badLines _ _)
  · exact hstored

/-- Stores of lines in turn, none held back, write their lines in turn. -/
theorem storeAt_lines {w : Pending} {agent : Agent} {task : Nat} {bad : Nat → Bool} (lines : List Nat) {s : State}
    (hstores : s.stores = []) (hreplicas : s.replicas = []) :
    Beside s (lines.foldl (fun s l => storeAt s agent task (l * 128) 128 (lineOf w l).1 (lineOf w l).2 (bad l)) s) ∧
    (lines.foldl (fun s l => storeAt s agent task (l * 128) 128 (lineOf w l).1 (lineOf w l).2 (bad l)) s).mem =
      writeLines w lines s.mem := by
  induction lines generalizing s with
  | nil => exact ⟨beside_refl s, rfl⟩
  | cons l t ih =>
    have hput := stored_storeAt hstores hreplicas agent task (l * 128) 128 (lineOf w l).1 (lineOf w l).2 (bad l)
    have hrest := ih (hput.stores.trans hstores) (hput.replicas.trans hreplicas)
    exact ⟨hput.toBeside.trans hrest.1, hrest.2.trans (by rw [hput.mem]; rfl)⟩

/-! ### The bytes performed at their level -/

/-- The bytes to be written have been, at the level of a side, and no other byte of any memory has changed. -/
structure LevelWrote (s t : State) (r : Reach) (w : Pending) : Prop where
  bytes : ∀ b, mget (reachMem t r) b 0 = byteOver w (reachMem s r) b
  mem : r.lvl ≠ 3 → t.mem = s.mem
  chip : r.lvl ≠ 2 → t.chip = s.chip
  cluster : ∀ q, r.lvl ≠ 1 ∨ q ≠ islandOf r.core → mget t.cluster q [] = mget s.cluster q []
  scratch : ∀ c, r.lvl ≠ 0 ∨ c ≠ r.core → (getCore t c).scratch = (getCore s c).scratch
  core : ∀ c, SameBanks (getCore s c) (getCore t c)
  engines : t.engines = s.engines
  stores : t.stores = s.stores
  replicas : t.replicas = s.replicas

/-- The words to be written that are poisoned. -/
def badWords (w : Pending) : List Nat := ((w.filter fun e => e.2.2).map fun e => e.1 / 32).eraseDups

/-- A core's scratchpad holds another memory, and nothing else has changed that holds bytes. -/
structure SpadWrote (s t : State) (c : Nat) (m : Map Byte) : Prop where
  rest : t = { s with cores := t.cores }
  others : ∀ d, d ≠ c → getCore t d = getCore s d
  scratch : (getCore t c).scratch = m
  core : SameBanks (getCore s c) (getCore t c)

theorem spadWrote_refl (s : State) (c : Nat) : SpadWrote s s c (getCore s c).scratch :=
  ⟨rfl, fun _ _ => rfl, rfl, sameBanks_refl _⟩

/-- A change of a core's scratchpad that leaves its other memories alone. -/
theorem spadWrote_modCore {s t : State} {c : Nat} {m : Map Byte} (h : SpadWrote s t c m) {f : Core → Core}
    {upd : Map Byte → Map Byte} (hscratch : ∀ k, (f k).scratch = upd k.scratch)
    (hcore : ∀ k, SameBanks k (f k)) : SpadWrote s (modCore t c f) c (upd m) where
  rest := by
    conv => lhs; rw [h.rest]
    rfl
  others d hd := (getCore_modCore_other t f hd).trans (h.others d hd)
  scratch := by rw [getCore_modCore_same, hscratch, h.scratch]
  core := by
    rw [getCore_modCore_same]
    exact h.core.trans (hcore _)

/-- Lines written to a core's scratchpad in turn. -/
theorem spadWrote_lines {w : Pending} {c : Nat} {poison : Nat → List Nat → List Nat} (lines : List Nat) {s t : State}
    {m : Map Byte} (h : SpadWrote s t c m) :
    SpadWrote s (lines.foldl (fun s l => modCore s c fun k => { k with
        scratch := writeMasked k.scratch (l * 128) 128 (lineOf w l).1 (lineOf w l).2, poison := poison l k.poison }) t) c
      (writeLines w lines m) := by
  induction lines generalizing t m with
  | nil => exact h
  | cons l rest ih =>
    exact ih (spadWrote_modCore h (upd := fun m => writeMasked m (l * 128) 128 (lineOf w l).1 (lineOf w l).2) (fun _ => rfl)
      fun _ => ⟨rfl, rfl, rfl⟩)

theorem levelWrote_spad {r : Reach} (hlvl : r.lvl = 0) (s : State) (agent : Agent) (task : Nat) {w : Pending}
    (hw : mrising w 0 = true) : LevelWrote s (reachWrite s r agent task w) r w := by
  obtain ⟨_, core, org, nib⟩ := r
  subst hlvl
  have hwrote : SpadWrote s (reachWrite s ⟨0, core, org, nib⟩ agent task w) core _ :=
    spadWrote_modCore (f := fun k => { k with poison := (k.poison ++ badWords w).eraseDups }) (upd := id)
      (spadWrote_lines (w := w) (poison := fun l bad =>
        bad.filter fun p => ¬ (p < 2 ^ 32 ∧ p / 4 = l ∧ bitsOf (lineOf w l).2 (p % 4 * 32) 32 = ones 32))
        (linesOf w) (spadWrote_refl s core)) (fun _ => rfl) fun _ => ⟨rfl, rfl, rfl⟩
  generalize reachWrite s ⟨0, core, org, nib⟩ agent task w = t at hwrote
  have hrest := hwrote.rest
  exact {
    bytes := fun b => (congrArg (mget · b 0) hwrote.scratch).trans (mget_writeAllLines hw _ b)
    mem := fun _ => by rw [hrest]
    chip := fun _ => by rw [hrest]
    cluster := fun q _ => by rw [hrest]
    scratch := fun c hc => by rw [hwrote.others c (hc.resolve_left (not_not_intro rfl))]
    core := fun c => by
      by_cases hc : c = core
      · rw [hc]; exact hwrote.core
      · rw [hwrote.others c hc]; exact sameBanks_refl _
    engines := by rw [hrest]
    stores := by rw [hrest]
    replicas := by rw [hrest] }

theorem writeBytes_cluster (q : Nat) (w : Pending) (s : State) :
    let t := w.foldl (fun s e => { s with cluster := mset s.cluster q (writeByte (mget s.cluster q []) e.1 e.2.1) }) s
    t = { s with cluster := t.cluster } ∧
    mget t.cluster q [] = w.foldl (fun m e => writeByte m e.1 e.2.1) (mget s.cluster q []) ∧
    ∀ p, p ≠ q → mget t.cluster p [] = mget s.cluster p [] := by
  induction w generalizing s with
  | nil => exact ⟨rfl, rfl, fun _ _ => rfl⟩
  | cons e rest ih =>
    obtain ⟨hrest, hsame, hother⟩ := ih { s with cluster := mset s.cluster q (writeByte (mget s.cluster q []) e.1 e.2.1) }
    refine ⟨hrest, hsame.trans (by rw [mget_mset_same]; rfl), fun p hp => (hother p hp).trans ?_⟩
    exact mget_mset_other _ _ _ (Ne.symm hp)

theorem levelWrote_cluster {r : Reach} (hlvl : r.lvl = 1) (s : State) (agent : Agent) (task : Nat) {w : Pending}
    (hw : mrising w 0 = true) : LevelWrote s (reachWrite s r agent task w) r w := by
  obtain ⟨_, core, org, nib⟩ := r
  subst hlvl
  obtain ⟨hrest, hsame, hother⟩ := writeBytes_cluster (islandOf core) w s
  generalize hfold : w.foldl (fun s e => { s with
    cluster := mset s.cluster (islandOf core) (writeByte (mget s.cluster (islandOf core) []) e.1 e.2.1) }) s = u
    at hrest hsame hother
  have hwrote : ∃ bad, reachWrite s ⟨1, core, org, nib⟩ agent task w = { u with badCluster := bad } := by
    rw [← hfold]; exact ⟨_, rfl⟩
  obtain ⟨bad, hwrote⟩ := hwrote
  rw [hwrote]
  exact {
    bytes := fun b => (congrArg (mget · b 0) hsame).trans (mget_writeBytes hw _ b)
    mem := fun _ => by rw [hrest]
    chip := fun _ => by rw [hrest]
    cluster := fun q hq => hother q (hq.resolve_left (not_not_intro rfl))
    scratch := fun c _ => by rw [hrest]; rfl
    core := fun c => by rw [hrest]; exact ⟨rfl, rfl, rfl⟩
    engines := by rw [hrest]
    stores := by rw [hrest]
    replicas := by rw [hrest] }

theorem writeBytes_chip (w : Pending) (s : State) :
    w.foldl (fun s e => { s with chip := writeByte s.chip e.1 e.2.1 }) s =
      { s with chip := w.foldl (fun m e => writeByte m e.1 e.2.1) s.chip } := by
  induction w generalizing s with
  | nil => rfl
  | cons e rest ih => exact ih _

theorem levelWrote_chip {r : Reach} (hlvl : r.lvl = 2) (s : State) (agent : Agent) (task : Nat) {w : Pending}
    (hw : mrising w 0 = true) : LevelWrote s (reachWrite s r agent task w) r w := by
  obtain ⟨_, core, org, nib⟩ := r
  subst hlvl
  unfold reachWrite
  dsimp only
  rw [writeBytes_chip]
  exact {
    bytes := mget_writeBytes hw s.chip
    mem := fun _ => rfl
    chip := fun h => absurd rfl h
    cluster := fun _ _ => rfl
    scratch := fun _ _ => rfl
    core := fun _ => ⟨rfl, rfl, rfl⟩
    engines := rfl
    stores := rfl
    replicas := rfl }

theorem levelWrote_mem {r : Reach} (hlvl : r.lvl = 3) {s : State} (hstores : s.stores = []) (hreplicas : s.replicas = [])
    (agent : Agent) (task : Nat) {w : Pending} (hw : mrising w 0 = true) :
    LevelWrote s (reachWrite s r agent task w) r w := by
  obtain ⟨_, core, org, nib⟩ := r
  subst hlvl
  obtain ⟨hbeside, hmem⟩ := storeAt_lines (w := w) (agent := agent) (task := task)
    (bad := fun l => (badWords w).any fun x => x / 4 = l) (linesOf w) hstores hreplicas
  exact {
    bytes := fun b => by
      show mget (reachWrite s ⟨3, core, org, nib⟩ agent task w).mem b 0 = _
      exact (congrArg (mget · b 0) hmem).trans (mget_writeAllLines hw s.mem b)
    mem := fun h => absurd rfl h
    chip := fun _ => hbeside.chip
    cluster := fun q _ => congrArg (mget · q []) hbeside.cluster
    scratch := fun c _ => hbeside.scratch c
    core := hbeside.core
    engines := hbeside.engines
    stores := hbeside.stores
    replicas := hbeside.replicas }

/-- An engine's writes, none held at a slice, are performed at their level. -/
theorem levelWrote_reachWrite {r : Reach} (hlvl : r.lvl ≤ 3) {s : State} (hstores : s.stores = []) (hreplicas : s.replicas = [])
    (agent : Agent) (task : Nat) {w : Pending} (hw : mrising w 0 = true) :
    LevelWrote s (reachWrite s r agent task w) r w := by
  obtain h | h | h | h : r.lvl = 0 ∨ r.lvl = 1 ∨ r.lvl = 2 ∨ r.lvl = 3 := by omega
  · exact levelWrote_spad h s agent task hw
  · exact levelWrote_cluster h s agent task hw
  · exact levelWrote_chip h s agent task hw
  · exact levelWrote_mem h hstores hreplicas agent task hw

/-! ### Descriptors in rule (R236, R239, R240, R248) -/

/-- An element type is a nibble or whole bytes. -/
theorem engineType_bits {c : Nat} {t : VTy} (h : engineType c = some t) (hc : c < 16) : t.bits = 4 ∨ 8 * (t.bits / 8) = t.bits := by
  have hall : ∀ c, c < 16 → (engineType c).all fun t => t.bits = 4 || 8 * (t.bits / 8) = t.bits := by decide
  have := hall c hc
  rw [h] at this
  simpa using this

/-- What holds of a CPY's destination where its descriptor is in rule. -/
structure CpyOk (d : CpyDesc) : Prop where
  lvl : d.dst.lvl ≤ 3
  nib : d.dst.nib = (isNib d.dt && decide (d.mode ≠ 2))
  width : d.dt.bits = 4 ∨ 8 * (d.dt.bits / 8) = d.dt.bits
  planes : d.mode = 2 → ∃ f, transposeFmt d.dt = some f ∧ transposeOk f d.dst.lvl d.dst.base d.dims = true

theorem cpyOk_of_readCpy {ws : List Nat} {d : CpyDesc} (h : readCpy ws = some d) : CpyOk d := by
  unfold readCpy at h
  dsimp only at h
  cases hst : engineType (bitsOf (wordAt ws 0) 20 4) with
  | none => simp [hst] at h
  | some st =>
    cases hdt : engineType (bitsOf (wordAt ws 0) 24 4) with
    | none => simp [hst, hdt] at h
    | some dt =>
      rw [hst, hdt] at h
      dsimp only at h
      rw [Option.ite_none_left_eq_some] at h
      obtain ⟨hrule, hdesc⟩ := h
      simp only [not_or] at hrule
      obtain ⟨-, -, -, hlvl, -, -, hshape, -⟩ := hrule
      cases hdesc
      refine ⟨Nat.not_lt.mp hlvl, rfl, engineType_bits hdt (Nat.mod_lt _ (by decide)), fun hmode => ?_⟩
      dsimp only at hmode ⊢
      rw [hmode] at hshape
      cases hf : transposeFmt dt with
      | none => simp [hf] at hshape
      | some f => exact ⟨f, rfl, by simpa [hf] using hshape⟩

/-- An MVX's y is of one of the levels, and made of bytes. -/
theorem readMvx_y {ws : List Nat} {va : Nat → Nat} {d : MvxDesc} (h : readMvx ws va = some d) :
    d.y.lvl ≤ 3 ∧ d.y.nib = false := by
  unfold readMvx at h
  dsimp only at h
  split at h
  · cases h
  · rw [Option.ite_none_left_eq_some] at h
    obtain ⟨hrule, hdesc⟩ := h
    simp only [not_or] at hrule
    obtain ⟨-, -, hlvl, -⟩ := hrule
    cases hdesc
    exact ⟨Nat.not_lt.mp hlvl, rfl⟩

/-! ### The pieces of a CPY (R237–R239) -/

section
variable {s : State} {d : CpyDesc} {src dst : Reach}

theorem cpyPieces_elements (h : d.mode ≠ 2) : cpyPieces s d src dst =
    (walkDims d.dims).map fun o => (bitAt dst (d.dst.base + o.2), d.dt.bits, copied s d src (d.src.base + o.1)) := by
  unfold cpyPieces
  rw [decide_eq_false h]

/-- The elements of a raw or converting CPY are as wide as its destination's units. -/
theorem CpyOk.widthOk (hok : CpyOk d) (hmode : d.mode ≠ 2) (hnib : dst.nib = d.dst.nib) : WidthOk dst d.dt := by
  unfold WidthOk
  rw [hnib, hok.nib, decide_eq_true hmode, Bool.and_true, isNib]
  by_cases h4 : d.dt.bits = 4
  · rw [decide_eq_true h4, if_pos rfl]; exact h4
  · rw [decide_eq_false h4, if_neg Bool.false_ne_true]; exact hok.width.resolve_left h4

/-- The bytes of a raw or converting CPY lay its elements. -/
theorem lays_cpyElems (hok : CpyOk d) (hmode : d.mode ≠ 2) (hnib : dst.nib = d.dst.nib) :
    Lays (reachMem s dst) (cpyElems s d src dst).1 (cpyPieces s d src dst) := by
  rw [cpyPieces_elements hmode, List.map_eq_flatMap]
  refine lays_foldl (bytes := Prod.fst) (walkDims d.dims) (fun acc o ps h => ?_) ([], 0, false) [] (lays_nil _)
  have hvalue : copied s d src (d.src.base + o.1) =
      (if d.mode = 0 then (⟨readElem s src d.st (d.src.base + o.1), 0⟩ : FRes)
        else convert d.sat d.st d.dt (readElem s src d.st (d.src.base + o.1))).bits := by
    unfold copied; split <;> rfl
  rw [hvalue]
  exact lays_putElem h (hok.widthOk hmode hnib) _ _ _

/-- Bytes of a column's pieces in turn. -/
theorem lays_columns {m : Map Byte} (at_ : Nat) (bad : Bool) (pieces : List (Nat × Nat × Nat)) {w : Pending}
    {ps : List (Nat × Nat × Nat)} (h : Lays m w ps) :
    Lays m (pieces.foldl (fun w p => putBytes (at_ + p.1) p.2.2 p.2.1 bad w) w)
      (ps ++ pieces.map fun p => (8 * (at_ + p.1), 8 * p.2.1, p.2.2)) := by
  rw [List.map_eq_flatMap]
  exact lays_foldl (bytes := id) pieces (fun w p ps h => lays_putBytes h (at_ + p.1) p.2.2 p.2.1 bad) w ps h

/-- Position `k` of column `col` of a buffer of a plane transpose, with whether its source is poisoned. -/
def planeAt (s : State) (d : CpyDesc) (src : Reach) (off : Int) (col k : Nat) : FRes × Bool :=
  if (nth d.dims 0 ⟨0, 0, 0⟩).size ≤ k ∨ (nth d.dims 1 ⟨0, 0, 0⟩).size ≤ col then (⟨0, 0⟩, false)
  else
    let u := d.src.base + off + k * (nth d.dims 0 ⟨0, 0, 0⟩).src + col * (nth d.dims 1 ⟨0, 0, 0⟩).src
    (convert d.sat d.st d.dt (readElem s src d.st u), reachBad s src (src.byte u) (max 1 (d.st.bits / 8)))

theorem planeAt_bits (s : State) (d : CpyDesc) (src : Reach) (off : Int) (col k : Nat) :
    (planeAt s d src off col k).1.bits =
      if k < (nth d.dims 0 ⟨0, 0, 0⟩).size ∧ col < (nth d.dims 1 ⟨0, 0, 0⟩).size then
        (convert d.sat d.st d.dt (readElem s src d.st
          (d.src.base + off + k * (nth d.dims 0 ⟨0, 0, 0⟩).src + col * (nth d.dims 1 ⟨0, 0, 0⟩).src))).bits else 0 := by
  unfold planeAt
  by_cases hin : k < (nth d.dims 0 ⟨0, 0, 0⟩).size ∧ col < (nth d.dims 1 ⟨0, 0, 0⟩).size
  · rw [if_pos hin, if_neg (by omega)]
  · rw [if_neg hin, if_pos (by omega)]

/-- The bytes of a plane transpose lay the columns of its buffers. -/
theorem lays_cpyPlanes {f : MatFmt} (hmode : d.mode = 2) (hf : transposeFmt d.dt = some f) (m : Map Byte) :
    Lays m (cpyPlanes s d f src).1 (cpyPieces s d src dst) := by
  unfold cpyPieces
  rw [decide_eq_true hmode, hf]
  refine lays_foldl (bytes := Prod.fst) (walkDims (d.dims.drop 2)) (fun acc o ps h => ?_) ([], 0, false) [] (lays_nil _)
  refine lays_foldl (bytes := Prod.fst) (upTo 16) (fun acc col ps h => ?_) acc ps h
  simp only [← planeAt_bits]
  rw [show ((upTo f.k).map fun k => (planeAt s d src o.1 col k).1.bits) =
    ((upTo f.k).map (planeAt s d src o.1 col)).map fun x => x.1.bits by rw [List.map_map]; rfl]
  exact lays_columns _ _ _ h

/-- A CPY with an empty dimension has no element. -/
theorem walkDims_empty {l : List Dim} (h : l.any (fun x => x.size = 0) = true) : walkDims l = [] := by
  induction l with
  | nil => simp at h
  | cons x t ih =>
    rw [List.any_cons, Bool.or_eq_true, decide_eq_true_eq] at h
    obtain hx | ht := h
    · simp [walkDims, hx, upTo]
    · simp [walkDims, ih ht]

/-- The dimensions of a plane transpose's buffers are not empty: an empty one is beyond them. -/
theorem empty_drop {f : MatFmt} {lvl : Nat} {base : Int} {dims : List Dim} (hok : transposeOk f lvl base dims = true)
    (h : dims.any (fun x => x.size = 0) = true) : (dims.drop 2).any (fun x => x.size = 0) = true := by
  match dims with
  | [] => simp at h
  | [_] => simp [transposeOk] at hok
  | d0 :: d1 :: rest =>
    simp only [transposeOk, nth, Bool.and_eq_true] at hok
    obtain ⟨⟨⟨⟨⟨⟨-, h0⟩, -⟩, h1⟩, -⟩, -⟩, -⟩ := hok
    have hd0 : d0.size ≠ 0 := Nat.one_le_iff_ne_zero.mp (of_decide_eq_true h0)
    have hd1 : d1.size ≠ 0 := Nat.one_le_iff_ne_zero.mp (of_decide_eq_true h1)
    simpa [hd0, hd1] using h

/-- An empty CPY lays no piece. -/
theorem cpyPieces_empty (hok : CpyOk d) (h : d.empty = true) : cpyPieces s d src dst = [] := by
  by_cases hmode : d.mode = 2
  · obtain ⟨f, hf, hshape⟩ := hok.planes hmode
    unfold cpyPieces
    rw [decide_eq_true hmode, hf]
    dsimp only
    rw [walkDims_empty (empty_drop hshape h)]
    rfl
  · rw [cpyPieces_elements hmode, walkDims_empty h]
    rfl

end

/-! ### The pieces of an MVX (R249) -/

theorem startAcc_eq (f : MatFmt) (zero : Bool) (w : Nat) : startAcc f zero w = accInit f zero w := by
  have hone : ∀ x : FVal, added f {} [(x, false)] = accAdd (accUnit f) {} x := by
    intro x
    cases x with
    | nan => simp [added, accAdd, isum, scaleV, FVal.isNan]
    | inf n => cases n <;> simp [added, accAdd, isum, scaleV, FVal.isNan]
    | fin n m e => simp [added, accAdd, accUnit, isum, scaleV, FVal.isNan]
  unfold startAcc accInit
  rw [hone]

section
variable {s : State} {d : MvxDesc} {f : MatFmt} {w x y : Reach}

/-- The rows of an MVX lay their words over y. -/
theorem lays_mvxRows (hnib : y.nib = false) : Lays (reachMem s y) (mvxRows s d f w x y).1 (mvxPieces s d f w x y) := by
  have hpieces : mvxPieces s d f w x y = (upTo d.m).flatMap fun r =>
      if bitOf d.mask (bitsOf (w.byte (d.woff + (r * d.pitch : Nat))) 12 5) = true then
        [(8 * y.byte (d.y.base + (4 * r : Nat)), 32, mvxWord s d f w x y r)] else [] := by
    unfold mvxPieces
    induction upTo d.m with
    | nil => rfl
    | cons r t ih => rw [List.filter_cons, List.flatMap_cons, ← ih]; split <;> rfl
  rw [hpieces]
  refine lays_foldl (bytes := Prod.fst) (upTo d.m) (fun acc r ps h => ?_) ([], 0, false) [] (lays_nil _)
  dsimp only
  by_cases hrow : bitOf d.mask (bitsOf (w.byte (d.woff + (r * d.pitch : Nat))) 12 5) = true
  · rw [if_neg (not_not_intro hrow), if_pos hrow]
    have hat : bitAt y (d.y.base + (4 * r : Nat)) = 8 * y.byte (d.y.base + (4 * r : Nat)) := by simp [bitAt, hnib]
    have hwidth : WidthOk y (.int true 32) := by unfold WidthOk; rw [hnib]; rfl
    unfold mvxWord products
    rw [startAcc_eq, sumWord_eq_accWord, ← foldl_accProduct_eq_added, ← hat]
    exact lays_putElem h hwidth _ _ _
  · rw [if_pos hrow, if_neg hrow, List.append_nil]
    exact h

end

/-! ### The work of an operation (R237–R239, R249, R252) -/

section
variable {s t : State}

/-- Where no byte is written, every side reads as before. -/
theorem reachMem_unwritten (h : Unwritten s t) (r : Reach) : reachMem t r = reachMem s r := by
  unfold reachMem
  split
  · exact h.scratch r.core
  · rw [h.cluster]
  · exact h.chip
  · exact h.mem

theorem readElem_unwritten (h : Unwritten s t) (r : Reach) (ty : VTy) (u : Int) : readElem t r ty u = readElem s r ty u := by
  unfold readElem
  rw [reachMem_unwritten h]

theorem cpyPieces_unwritten (h : Unwritten s t) (d : CpyDesc) (src dst : Reach) :
    cpyPieces t d src dst = cpyPieces s d src dst := by
  unfold cpyPieces copied
  simp only [readElem_unwritten h]

theorem mvxPieces_unwritten (h : Unwritten s t) (d : MvxDesc) (f : MatFmt) (w x y : Reach) :
    mvxPieces t d f w x y = mvxPieces s d f w x y := by
  unfold mvxPieces mvxWord
  simp only [readElem_unwritten h, reachMem_unwritten h, h.mem]

end

/-- The work of an operation lays these pieces over its destination, and has fetched what it reads. -/
structure WorkLays (s : State) (w : EngineWork) (r : Reach) (ps : List (Nat × Nat × Nat)) (pub : Option (Nat × Int)) :
    Prop where
  state : Unwritten s w.state
  dst : w.dst = r
  lays : Lays (reachMem s r) w.bytes ps
  pub : w.pub = pub

/-- The weights of an MVX as its operation reaches them. -/
def weights (op : EngineOp) : Reach := { lvl := 3, core := op.core, org := handlePa (nth op.handles 3 {}) 0, nib := false }

/-- The work of a CPY lays its pieces. -/
theorem engineWork_cpy {s : State} {op : EngineOp} {w : EngineWork} {d : CpyDesc} (hmvx : op.mvx = false)
    (hd : readCpy op.desc = some d) (hw : engineWork s op = some w) :
    WorkLays s w (reachOf op d.dst 1) (cpyPieces s d (reachOf op d.src 0) (reachOf op d.dst 1)) d.pub := by
  have hok := cpyOk_of_readCpy hd
  unfold engineWork at hw
  simp only [hmvx, hd, Bool.false_eq_true, if_false] at hw
  split at hw
  · next hempty =>
    cases hw
    rw [cpyPieces_empty hok hempty]
    exact ⟨unwritten_refl s, rfl, lays_nil _, rfl⟩
  · split at hw
    · cases hw
    · have hstate : Unwritten s w.state := by
        cases hw
        exact unwritten_ite (unwritten_refl s) (unwritten_foldl _ (fun _ _ => unwritten_engineFetch ..) s)
      have hlays : Lays (reachMem w.state (reachOf op d.dst 1)) w.bytes
          (cpyPieces w.state d (reachOf op d.src 0) (reachOf op d.dst 1)) := by
        cases hw
        dsimp only
        generalize (if (reachOf op d.src 0).lvl ≠ 3 then s else _) = u
        split
        · next f hf =>
          split
          · next hmode => exact lays_cpyPlanes hmode hf _
          · next hmode => exact lays_cpyElems hok hmode rfl
        · next hf =>
          refine lays_cpyElems hok (fun hmode => ?_) rfl
          obtain ⟨f, hsome, -⟩ := hok.planes hmode
          rw [hf] at hsome
          cases hsome
      rw [cpyPieces_unwritten hstate, reachMem_unwritten hstate] at hlays
      cases hw
      exact ⟨hstate, rfl, hlays, rfl⟩

/-- The work of an MVX lays the words of its rows. -/
theorem engineWork_mvx {s : State} {op : EngineOp} {w : EngineWork} {d : MvxDesc} {f : MatFmt} (hmvx : op.mvx = true)
    (hd : readMvx op.desc (fun _ => (nth op.handles 1 {}).va.toNat) = some d) (hf : matFmt d.fmt = some f)
    (hw : engineWork s op = some w) :
    WorkLays s w (reachOf op d.y 1) (mvxPieces s d f (weights op) (reachOf op d.x 0) (reachOf op d.y 1)) d.pub := by
  have hnib := (readMvx_y hd).2
  unfold engineWork at hw
  simp only [hmvx, hd, hf, if_true] at hw
  split at hw
  · cases hw
  · cases hw
    have hlays : ∀ u, Unwritten s u → Lays (reachMem s (reachOf op d.y 1))
        (mvxRows u d f (weights op) (reachOf op d.x 0) (reachOf op d.y 1)).1
        (mvxPieces s d f (weights op) (reachOf op d.x 0) (reachOf op d.y 1)) := fun u hu => by
      rw [← mvxPieces_unwritten hu, ← reachMem_unwritten hu]
      exact lays_mvxRows hnib
    refine ⟨?fetched, rfl, hlays _ ?fetched, rfl⟩
    refine (unwritten_ite (unwritten_engineFetch ..) (unwritten_refl s)).trans (unwritten_foldl _ (fun u r => ?_) _)
    exact unwritten_ite (unwritten_ite ((unwritten_engineFetch ..).trans (unwritten_engineFetch ..))
      (unwritten_engineFetch ..)) (unwritten_refl u)

/-! ### The end of an operation (R242, R244) -/

/-- An operation's tag is counted down in its core, and set at 0 (R244). -/
theorem tagArrive_eq {s : State} {op : EngineOp} (hshadow : (getCore s op.core).shadow = none) (t : Nat) :
    tagArrive s op t = modCore s op.core fun c => { c with
      tags := if mget c.counts t 0 - 1 = 0 then c.tags ||| BitVec.twoPow 64 t else c.tags
      counts := mset c.counts t (mget c.counts t 0 - 1) } := by
  unfold tagArrive modCore
  simp only [hshadow]

/-- A change of a core that leaves its scratchpad and its other memories alone writes no byte. -/
theorem unwritten_modCore {s : State} {c : Nat} {f : Core → Core} (hscratch : ∀ k, (f k).scratch = k.scratch)
    (hbanks : ∀ k, SameBanks k (f k)) : Unwritten s (modCore s c f) := by
  refine ⟨⟨rfl, rfl, rfl, rfl, rfl, fun d => ?_, fun d => ?_⟩, rfl⟩ <;> rw [getCore_modCore] <;> split
  case isTrue h => rw [hscratch, h]
  case isFalse => rfl
  case isTrue h => rw [← h]; exact hbanks _
  case isFalse => exact sameBanks_refl _

/-- A tag's arrival, wherever it is counted, writes no byte. -/
theorem unwritten_tagArrive (s : State) (op : EngineOp) (t : Nat) : Unwritten s (tagArrive s op t) := by
  unfold tagArrive
  refine unwritten_modCore (fun k => ?_) fun k => ?_ <;> dsimp only <;> split
  case h_1 => split <;> rfl
  case h_2 => rfl
  case h_1 => split <;> exact ⟨rfl, rfl, rfl⟩
  case h_2 => exact ⟨rfl, rfl, rfl⟩

/-- The publish word, if there is one, as a piece (R242). -/
def pubPiece (pub : Option Nat) (n : Nat) : List (Nat × Nat × Nat) := match pub with | some pa => [(8 * pa, 64, n)] | none => []

/-- A word of memory stored lays its piece. -/
theorem memBit_writeMasked (m : Map Byte) (pa n b : Nat) :
    memBit (writeMasked m pa 8 n (ones 8)) b = laid [(8 * pa, 64, n)] b (memBit m b) := by
  show _ = if 8 * pa ≤ b ∧ b < 8 * pa + 64 then bitOf n (b - 8 * pa) else memBit m b
  have hmask : ∀ i, i < 8 → bitOf (ones 8) i = true := by decide
  unfold memBit
  rw [mget_writeMasked]
  by_cases hin : 8 * pa ≤ b ∧ b < 8 * pa + 64
  · have hbit : 8 * (b / 8 - pa) + b % 8 = b - 8 * pa := by omega
    rw [if_pos hin, if_pos ⟨by omega, by omega, hmask _ (by omega)⟩, getLsbD_byte _ _ (Nat.mod_lt b (by decide)), hbit]
  · rw [if_neg hin, if_neg (by omega)]

/-- What stands once an operation's tag and publish word are done. -/
structure Published (s t : State) (pub : Option Nat) (n : Nat) : Prop extends Beside s t where
  bits : ∀ b, memBit t.mem b = laid (pubPiece pub n) b (memBit s.mem b)

/-- The state of an operation's end once its tag, if it has one, has arrived. -/
def tagged (s : State) (op : EngineOp) (tag : Option Nat) : State := match tag with | some t => tagArrive s op t | none => s

/-- The state of an operation's end before its counter moves. -/
def tagAndPub (s : State) (agent : Agent) (op : EngineOp) (tag pub : Option Nat) : State :=
  match pub with
  | some pa => storeAt (tagged s op tag) agent op.task pa 8 op.n (ones 8)
  | none => tagged s op tag

theorem unwritten_tagged (s : State) (op : EngineOp) (tag : Option Nat) : Unwritten s (tagged s op tag) := by
  cases tag with
  | none => exact unwritten_refl s
  | some t => exact unwritten_tagArrive s op t

theorem published_tagAndPub {s : State} (hstores : s.stores = []) (hreplicas : s.replicas = []) (agent : Agent) (op : EngineOp)
    (tag pub : Option Nat) : Published s (tagAndPub s agent op tag pub) pub op.n := by
  have htag := unwritten_tagged s op tag
  cases pub with
  | none => exact ⟨htag.toBeside, fun b => congrArg (memBit · b) htag.mem⟩
  | some pa =>
    have hput := stored_storeAt (htag.stores.trans hstores) (htag.replicas.trans hreplicas) agent op.task pa 8 op.n (ones 8) false
    refine ⟨htag.toBeside.trans hput.toBeside, fun b => ?_⟩
    show memBit (storeAt (tagged s op tag) agent op.task pa 8 op.n (ones 8)).mem b = _
    rw [hput.mem, memBit_writeMasked, htag.mem]
    rfl

/-- What an operation has written once its bytes are performed, and then its tag and publish word. -/
theorem engineWrote_of {s t u : State} {dst : Reach} (hlvl : dst.lvl ≤ 3) {w : Pending} {ps : List (Nat × Nat × Nat)}
    {pub : Option Nat} {n key : Nat} {f : Engine → Engine} (hw : LevelWrote s t dst w) (hlays : Lays (reachMem s dst) w ps)
    (hpub : Published (modEngine t key f) u pub n) : EngineWrote s u dst ps n pub := by
  have hbits : ∀ b, memBit u.mem b = laid (pubPiece pub n) b (memBit t.mem b) := hpub.bits
  have hcluster : u.cluster = t.cluster := hpub.cluster
  have hscratch : ∀ c, (getCore u c).scratch = (getCore t c).scratch := hpub.scratch
  have hlaid : ∀ b, memBit (reachMem t dst) b = laid ps b (memBit (reachMem s dst) b) := fun b => by
    rw [← hlays.bits, ← hw.bytes]; rfl
  refine ⟨fun b => ?_, fun h b => ?_, fun h => ?_, fun q h => ?_, fun c h => ?_, fun c => ?_⟩
  · by_cases h3 : dst.lvl = 3
    · have hmem : ∀ v, reachMem v dst = v.mem := fun v => by unfold reachMem; rw [h3]; rfl
      rw [if_pos h3, laid_append, ← hlaid, hmem, hmem]
      exact hbits b
    · have hmem : reachMem u dst = reachMem t dst := by
        unfold reachMem
        obtain h | h | h : dst.lvl = 0 ∨ dst.lvl = 1 ∨ dst.lvl = 2 := by omega
        · rw [h]; exact hscratch _
        · rw [h]; show mget u.cluster _ [] = mget t.cluster _ []; rw [hcluster]
        · rw [h]; exact hpub.chip
      rw [if_neg h3, hmem, hlaid]
  · rw [hbits, hw.mem h]; rfl
  · exact hpub.chip.trans (hw.chip h)
  · rw [hcluster, hw.cluster q h]
  · rw [hscratch, hw.scratch c h]
  · obtain ⟨hlane, htiles, hlines⟩ := (hw.core c).trans (hpub.core c)
    exact ⟨hlane, htiles, hlines⟩

/-- Bytes performed in a state that has only fetched lines since another are performed in that one. -/
theorem LevelWrote.of_unwritten {s t u : State} {r : Reach} {w : Pending} (h : Unwritten s t) (h' : LevelWrote t u r w) :
    LevelWrote s u r w where
  bytes b := by rw [h'.bytes, reachMem_unwritten h]
  mem hlvl := (h'.mem hlvl).trans h.mem
  chip hlvl := (h'.chip hlvl).trans h.chip
  cluster q hq := (h'.cluster q hq).trans (by rw [h.cluster])
  scratch c hc := (h'.scratch c hc).trans (h.scratch c)
  core c := (h.core c).trans (h'.core c)
  engines := h'.engines.trans h.engines
  stores := h'.stores.trans h.stores
  replicas := h'.replicas.trans h.replicas

theorem engineOut_nil {s : State} (h : s.stores = []) (agent : Agent) : engineOut s agent = false := by simp [engineOut, h]

/-- An engine context whose first operation has ended: its counter shows the operation's number, and what it wrote is
remembered. -/
def opDone (n : Nat) (l : List EngineOp) (feet : List (Nat × Nat)) (g : Engine) : Engine :=
  { g with counter := n, ops := l, done := (g.done ++ [(n, feet)]).drop (g.done.length + 1 - 64) }

section
variable {s : State} {q part e : Nat} {op : EngineOp} {l : List EngineOp}

/-- The end of an operation in terms of the state its tag and publish word leave. -/
theorem opEnd_eq (tag pub : Option Nat) (feet : List (Nat × Nat)) :
    opEnd s q part e op l tag pub feet = modEngine (tagAndPub s (.engine q part e) op tag pub) (engineKey q part e) fun g =>
      if engineOut (tagAndPub s (.engine q part e) op tag pub) (.engine q part e) = true then
        { g with ops := { op with late := some (none, none, feet) } :: l }
      else opDone op.n l feet g := by
  cases tag <;> cases pub <;> rfl

/-- An operation ends where none of its writes is held. -/
theorem opEnd_free {tag pub : Option Nat} {feet : List (Nat × Nat)}
    (hout : engineOut (tagAndPub s (.engine q part e) op tag pub) (.engine q part e) = false) :
    opEnd s q part e op l tag pub feet =
      modEngine (tagAndPub s (.engine q part e) op tag pub) (engineKey q part e) (opDone op.n l feet) := by
  rw [opEnd_eq, hout]
  rfl

/-- An operation whose writes were held ends once they are performed. -/
theorem opComplete_late {feet : List (Nat × Nat)} (hops : (getEngine s (engineKey q part e)).ops = op :: l)
    (hstarted : op.started = true) (hlate : op.late = some (none, none, feet)) (hout : engineOut s (.engine q part e) = false) :
    opComplete s q part e = modEngine s (engineKey q part e) (opDone op.n l feet) := by
  unfold opComplete
  simp only [hops, hstarted, hlate, hout, not_true_eq_false, Bool.false_eq_true, or_self, if_false]
  exact opEnd_free (tag := none) (pub := none) hout

/-- Where nothing holds a store back, an operation that completes has laid its pieces and published its number, and is gone from
its context, whose status has gathered its bits. -/
theorem opComplete_wrote {w : EngineWork} {r : Reach} {ps : List (Nat × Nat × Nat)} {pub : Option (Nat × Int)}
    (hops : (getEngine s (engineKey q part e)).ops = op :: l) (hstarted : op.started = true) (hlate : op.late = none)
    (hstores : s.stores = []) (hreplicas : s.replicas = []) (hwork : engineWork s op = some w) (hlvl : r.lvl ≤ 3)
    (hlays : WorkLays s w r ps pub) :
    EngineWrote s (opComplete s q part e) r ps op.n (pub.map fun p => handlePa (nth op.handles 2 {}) p.2) ∧
    ∃ feet, getEngine (opComplete s q part e) (engineKey q part e) =
      opDone op.n l feet { getEngine s (engineKey q part e) with
        status := (getEngine s (engineKey q part e)).status ||| w.status } := by
  obtain ⟨hstate, rfl, hbytes, rfl⟩ := hlays
  have hwrote : LevelWrote s (reachWrite w.state w.dst (.engine q part e) op.task w.bytes) w.dst w.bytes :=
    .of_unwritten hstate (levelWrote_reachWrite hlvl (hstate.stores.trans hstores) (hstate.replicas.trans hreplicas) _ _
      hbytes.rising)
  unfold opComplete
  simp only [hops, hstarted, hlate, hwork, engineOut_nil hstores, not_true_eq_false, Bool.false_eq_true, or_self, if_false]
  generalize reachWrite w.state w.dst (.engine q part e) op.task w.bytes = t at hwrote ⊢
  generalize hu : modEngine t (engineKey q part e) (fun g => { g with status := g.status ||| w.status }) = u
  have hustores : u.stores = [] := by rw [← hu]; exact hwrote.stores.trans hstores
  have hureplicas : u.replicas = [] := by rw [← hu]; exact hwrote.replicas.trans hreplicas
  generalize (w.pub.map fun p => handlePa (nth op.handles 2 {}) p.2) = pub
  have hpub := published_tagAndPub hustores hureplicas (.engine q part e) op w.tag pub
  rw [engineOut_nil hustores, if_neg Bool.false_ne_true, opEnd_free (engineOut_nil (hpub.stores.trans hustores) _)]
  have hengine : getEngine (tagAndPub u (.engine q part e) op w.tag pub) (engineKey q part e) =
      { getEngine s (engineKey q part e) with status := (getEngine s (engineKey q part e)).status ||| w.status } := by
    unfold getEngine
    rw [hpub.engines, ← hu]
    show getEngine (modEngine t _ _) _ = _
    rw [getEngine_modEngine_same]
    unfold getEngine
    rw [hwrote.engines]
  rw [getEngine_modEngine_same, hengine]
  rw [← hu] at hpub ⊢
  have hdone := engineWrote_of hlvl hwrote hbytes hpub
  exact ⟨hdone, _, rfl⟩

/-- What the work of an operation is, whichever it is. -/
theorem workLays_of_engineWork {w : EngineWork} (hw : engineWork s op = some w) :
    ∃ r ps pub, r.lvl ≤ 3 ∧ WorkLays s w r ps pub := by
  cases hmvx : op.mvx with
  | false =>
    cases hd : readCpy op.desc with
    | none => simp only [engineWork, hmvx, hd, Bool.false_eq_true, if_false, reduceCtorEq] at hw
    | some d => exact ⟨_, _, _, (cpyOk_of_readCpy hd).lvl, engineWork_cpy hmvx hd hw⟩
  | true =>
    cases hd : readMvx op.desc (fun _ => (nth op.handles 1 {}).va.toNat) with
    | none => simp only [engineWork, hmvx, hd, if_true, reduceCtorEq] at hw
    | some d =>
      cases hf : matFmt d.fmt with
      | none => simp only [engineWork, hmvx, hd, hf, if_true, reduceCtorEq] at hw
      | some f => exact ⟨_, _, _, (readMvx_y hd).1, engineWork_mvx hmvx hd hf hw⟩

/-! ### The start of an operation (R232, R250, R355) -/

/-- An MVU takes up nothing of an operation that does not need it, or whose partition has not the turn. -/
theorem mvuBegin_idle {key i : Nat} (hops : (getEngine s key).ops = op :: l)
    (hleft : op.needs i = true → mget (mvuTurns s i) (turnKey op.part i) 0 ≤ 0) : mvuBegin key s i = s := by
  unfold mvuBegin
  rw [hops]
  dsimp only
  split
  · next hneeds => rw [if_pos (hleft hneeds)]
  · rfl

/-- An MVU whose turn it is takes up its part of an operation, which pays for it. -/
theorem mvuBegin_pays {key i : Nat} (hops : (getEngine s key).ops = op :: l) (hneeds : op.needs i = true)
    (hleft : 0 < mget (mvuTurns s i) (turnKey op.part i) 0) :
    mvuBegin key s i = modEngine { s with
      mvuCredit := mset (mvuTurns s i) (turnKey op.part i) (mget (mvuTurns s i) (turnKey op.part i) 0 - op.busyTime i) } key
        fun g => { g with ops := { op with begun := op.begun + 2 ^ i } :: l } := by
  unfold mvuBegin
  rw [hops]
  dsimp only
  rw [if_pos hneeds, if_neg (Int.not_le.mpr hleft)]

/-- A bit added where it was clear is set, and changes no other. -/
theorem bitOf_add_two_pow {x i : Nat} (hclear : bitOf x i = false) (j : Nat) :
    bitOf (x + 2 ^ i) j = (decide (j = i) || bitOf x j) := by
  have hpos : 0 < 2 ^ i := Nat.two_pow_pos i
  have hbit : x / 2 ^ i % 2 = 0 := by
    have := of_decide_eq_false hclear
    omega
  have hup : (x + 2 ^ i) / 2 ^ i = x / 2 ^ i + 1 := Nat.add_div_right x hpos
  obtain hlt | rfl | hgt := Nat.lt_trichotomy j i
  · rw [decide_eq_false (Nat.ne_of_lt hlt), Bool.false_or, bitOf_eq_testBit, bitOf_eq_testBit, Nat.add_comm,
      Nat.testBit_two_pow_add_gt hlt]
  · rw [decide_eq_true rfl, Bool.true_or]
    unfold bitOf
    rw [hup]
    exact decide_eq_true (by omega)
  · have hsplit : 2 ^ j = 2 ^ i * 2 * 2 ^ (j - i - 1) := by
      rw [← Nat.pow_succ, ← Nat.pow_add, show i.succ + (j - i - 1) = j by omega]
    have hhalf : (x / 2 ^ i + 1) / 2 = x / 2 ^ i / 2 := by omega
    rw [decide_eq_false (Nat.ne_of_gt hgt), Bool.false_or]
    unfold bitOf
    rw [hsplit, ← Nat.div_div_eq_div_mul, ← Nat.div_div_eq_div_mul, hup, hhalf, ← Nat.div_div_eq_div_mul,
      ← Nat.div_div_eq_div_mul]

/-- An operation no longer needs an MVU that has taken up its part, and needs the others as before. -/
theorem needs_begun {i : Nat} (hneeds : op.needs i = true) (j : Nat) :
    ({ op with begun := op.begun + 2 ^ i } : EngineOp).needs j = (decide (j ≠ i) && op.needs j) := by
  have hclear : bitOf op.begun i = false := by
    simp only [EngineOp.needs, Bool.and_eq_true, Bool.not_eq_true'] at hneeds
    exact hneeds.1.2
  show (op.mvx && !op.started && bitOf (wordAt op.desc 0) j && !bitOf (op.begun + 2 ^ i) j && _) = _
  rw [bitOf_add_two_pow hclear]
  by_cases hj : j = i
  · simp [hj]
  · simp [hj, EngineOp.needs]
    rfl

/-- Steps of which one alone does anything come to that one. -/
theorem foldl_single {α β : Type} {f : β → α → β} {l : List α} {a : α} {b : β} (hnodup : l.Nodup) (ha : a ∈ l)
    (hbefore : ∀ c ∈ l, c ≠ a → f b c = b) (hafter : ∀ c ∈ l, c ≠ a → f (f b a) c = f b a) : l.foldl f b = f b a := by
  obtain ⟨l₁, l₂, rfl⟩ := List.append_of_mem ha
  rw [List.nodup_append] at hnodup
  obtain ⟨-, htail, hdisjoint⟩ := hnodup
  have hother : ∀ c ∈ l₂, c ≠ a := fun c hc hca => (List.nodup_cons.mp htail).1 (hca ▸ hc)
  rw [List.foldl_append, foldl_id l₁ f b fun c hc => hbefore c (List.mem_append_left _ hc) fun hca =>
      hdisjoint c hc a (List.mem_cons_self ..) hca,
    List.foldl_cons, foldl_id l₂ f (f b a) fun c hc =>
      hafter c (List.mem_append_right _ (List.mem_cons_of_mem _ hc)) (hother c hc)]

/-- A start, once the MVUs have taken up what they take, by whether one is still needed. -/
theorem opStart_eq {key : Nat} {u : State} (hfold : (upTo 32).foldl (mvuBegin key) s = u)
    (hops : (getEngine u key).ops = op :: l) :
    opStart s key = if (upTo 32).any op.needs = true then u
      else modEngine u key fun g => { g with ops := { op with started := true } :: l } := by
  unfold opStart
  rw [hfold]
  dsimp only
  rw [hops]

/-- Where no MVU that an operation needs gives its partition the turn, none takes up anything. -/
theorem mvuBegin_all_idle {key : Nat} (hops : (getEngine s key).ops = op :: l)
    (hleft : ∀ j, j < 32 → op.needs j = true → mget (mvuTurns s j) (turnKey op.part j) 0 ≤ 0) :
    (upTo 32).foldl (mvuBegin key) s = s :=
  foldl_id (upTo 32) (mvuBegin key) s fun j hj => mvuBegin_idle hops (hleft j (List.mem_range.mp hj))

theorem any_needs_false (h : ∀ j, j < 32 → op.needs j = false) : (upTo 32).any op.needs = false :=
  List.any_eq_false.mpr fun j hj => Bool.eq_false_iff.mp (h j (List.mem_range.mp hj))

/-- An operation that needs no MVU starts. -/
theorem opStart_starts {key : Nat} (hops : (getEngine s key).ops = op :: l) (hneeds : ∀ j, op.needs j = false) :
    opStart s key = modEngine s key fun g => { g with ops := { op with started := true } :: l } := by
  have hfold := mvuBegin_all_idle hops fun j _ hj => absurd hj (Bool.eq_false_iff.mp (hneeds j))
  rw [opStart_eq hfold hops, any_needs_false fun j _ => hneeds j, if_neg Bool.false_ne_true]

/-- An operation that needs an MVU which does not take up its part waits. -/
theorem opStart_waits {key i : Nat} (hops : (getEngine s key).ops = op :: l) (hi : i < 32) (hneeds : op.needs i = true)
    (hleft : ∀ j, j < 32 → op.needs j = true → mget (mvuTurns s j) (turnKey op.part j) 0 ≤ 0) : opStart s key = s := by
  have hany : (upTo 32).any op.needs = true := List.any_eq_true.mpr ⟨i, List.mem_range.mpr hi, hneeds⟩
  rw [opStart_eq (mvuBegin_all_idle hops hleft) hops, if_pos hany]

/-- An operation that needs one MVU alone starts once that has taken up its part. -/
theorem opStart_last {key i : Nat} (hops : (getEngine s key).ops = op :: l) (hi : i < 32) (hneeds : op.needs i = true)
    (hleft : 0 < mget (mvuTurns s i) (turnKey op.part i) 0) (honly : ∀ j, j < 32 → op.needs j = true → j = i) :
    opStart s key = modEngine { s with
      mvuCredit := mset (mvuTurns s i) (turnKey op.part i) (mget (mvuTurns s i) (turnKey op.part i) 0 - op.busyTime i) } key
        fun g => { g with ops := { op with begun := op.begun + 2 ^ i, started := true } :: l } := by
  have hbegin := mvuBegin_pays hops hneeds hleft
  have hops' : (getEngine (mvuBegin key s i) key).ops = { op with begun := op.begun + 2 ^ i } :: l := by
    rw [hbegin, getEngine_modEngine_same]
  have hnone : ∀ j, j < 32 → ({ op with begun := op.begun + 2 ^ i } : EngineOp).needs j = false := fun j hj => by
    rw [needs_begun hneeds]
    by_cases hji : j = i
    · rw [decide_eq_false (not_not_intro hji), Bool.false_and]
    · rw [Bool.eq_false_iff.mpr fun h => hji (honly j hj h), Bool.and_false]
  have hfold : (upTo 32).foldl (mvuBegin key) s = mvuBegin key s i :=
    foldl_single List.nodup_range (List.mem_range.mpr hi)
      (fun j hj hji => mvuBegin_idle hops fun h => absurd (honly j (List.mem_range.mp hj) h) hji)
      (fun j hj _ => mvuBegin_idle hops' fun h => absurd h (Bool.eq_false_iff.mp (hnone j (List.mem_range.mp hj))))
  rw [opStart_eq hfold hops', any_needs_false hnone, if_neg Bool.false_ne_true, hbegin, modEngine_modEngine]
  rfl

end

/-- Settles O39: the start by what each MVU takes up, the completion by the pieces that its bytes lay, level by level. -/
theorem engineEvents : Obligations.EngineEvents := by
  unfold Obligations.EngineEvents
  intro s q part e op l key hops starts
  refine ⟨?starts, ?turns, ?completes, ?late, ?tag⟩
  case starts =>
    intro hready
    have hneeds : ∀ j, op.needs j = false := fun j => by
      obtain hmvx | hstarted := hready
      · simp [EngineOp.needs, hmvx]
      · simp [EngineOp.needs, hstarted]
    exact congrArg Host.Outcome.next (opStart_starts hops hneeds)
  case turns =>
    intro i hi hneeds
    refine ⟨fun hleft => mvuBegin_idle hops fun _ => hleft, fun hleft => mvuBegin_pays hops hneeds hleft,
      fun hleft honly => ?_, fun hleft => ?_⟩
    · exact congrArg Host.Outcome.next (opStart_last hops hi hneeds hleft honly)
    · exact congrArg Host.Outcome.next (opStart_waits hops hi hneeds hleft)
  case completes =>
    intro hstarted hlate hreplicas hstores w hwork
    refine ⟨opComplete s q part e, rfl, fun d hmvx hd => ?_, fun d f hmvx hd hf => ?_, ?_⟩
    · exact (opComplete_wrote hops hstarted hlate hstores hreplicas hwork (cpyOk_of_readCpy hd).lvl
        (engineWork_cpy hmvx hd hwork)).1
    · exact (opComplete_wrote hops hstarted hlate hstores hreplicas hwork (readMvx_y hd).1
        (engineWork_mvx hmvx hd hf hwork)).1
    · obtain ⟨r, ps, pub, hlvl, hlays⟩ := workLays_of_engineWork hwork
      obtain ⟨-, feet, hdone⟩ := opComplete_wrote hops hstarted hlate hstores hreplicas hwork hlvl hlays
      rw [hdone]
      exact ⟨rfl, rfl, rfl, rfl⟩
  case late =>
    intro feet hstarted hlate hout
    exact congrArg Host.Outcome.next (opComplete_late hops hstarted hlate hout)
  case tag =>
    intro t hshadow n
    rw [tagArrive_eq hshadow, getCore_modCore_same]
    exact ⟨rfl, rfl⟩

end Sys2Proof.Machine.EngineRules
